-- ==== Sys2Proof/Word.lean ====
section
/-! DEFINITION. The word types of the Vajwen 4820: the ring carries bytes; everything the manual counts or measures is
an integer (section 3.3 of 00_scope: "All arithmetic is on integers"). -/

namespace Sys2Proof

/-- A byte of the ring: an address, a KIND code, a payload byte. -/
abbrev Byte := BitVec 8

/-- A two-byte argument of a request (R188: high byte first on the ring). -/
abbrev Word16 := BitVec 16

/-- A four-byte argument of a request. -/
abbrev Word32 := BitVec 32

end Sys2Proof
end

