-- ==== Sys2Proof/Syntax.lean ====
section
/-! DEFINITION. The commands of the part: one constructor of `Instr` for each row of spec/opcode_table.json. The first
operand `dt` of every command is the number of milliseconds of the part's time base (00 section 3.4) that pass before the
event (log 1). A request row carries the source address of the REQUEST frame and the arguments of 11.2 as the ring carries
them, so that an argument outside its range can be sent and is answered as R174 says. -/

namespace Sys2Proof

/-- A string, S0 to S7 (00 section 3.1). -/
abbrev Str := Fin 8

/-- A position within a string, counted from 0: the manual's position p is `p - 1` here. -/
abbrev Pos := Fin 24

/-- The index of a cell record, s × 24 + p − 1 (R1). -/
abbrev CellIx := Fin 192

/-- The two slots (00 section 3.1). -/
inductive SlotId where
  | A | B
  deriving DecidableEq, Repr

/-- The filtered site lines (R144). -/
inductive Line where
  | src | gas | reslow | trig
  deriving DecidableEq, Repr

/-- The measured values that carry a freshness expiry (R12). -/
inductive Measured where
  | cellVoltage (i : CellIx)
  | cellTemp (i : CellIx)
  | terminal (str : Str)
  deriving DecidableEq, Repr

/-- The commands, in the order of spec/opcode_table.json. -/
inductive Instr where
  /-- COLD_RESET (R19 and the cold-reset columns): the straps on ADDR1:0 at the end of the reset. -/
  | coldReset (dt : Nat) (straps : BitVec 2)
  /-- RAW_LINE_CHANGE (R144): the raw line takes `high`. -/
  | rawLineChange (dt : Nat) (line : Line) (high : Bool)
  | srcChange (dt : Nat)
  | gasRise (dt : Nat)
  | gasFall (dt : Nat)
  | reslowRise (dt : Nat)
  | reslowFall (dt : Nat)
  | trigEdge (dt : Nat)
  | tachEdge (dt : Nat)
  | tachWindowEnd (dt : Nat)
  | rxTimeout (dt : Nat)
  /-- FRAME_RECEIVED (R158): the second check byte of the frame in reception. -/
  | frameReceived (dt : Nat) (check : Byte)
  /-- REQUEST_UNKNOWN (R174): the payload of the request, whose first byte is no known code, or empty. -/
  | requestUnknown (dt : Nat) (source : Byte) (payload : List Byte)
  | status (dt : Nat) (source : Byte)
  | tableRead (dt : Nat) (source table offset n : Byte)
  | loadBegin (dt : Nat) (source table : Byte) (total : Word16)
  | loadPart (dt : Nat) (source : Byte) (offset : Word16) (data : List Byte)
  | loadCommit (dt : Nat) (source : Byte)
  | applyPendingCommit (dt : Nat)
  | loadDiscard (dt : Nat) (source : Byte)
  | cursor (dt : Nat) (source space index : Byte)
  | read (dt : Nat) (source n : Byte)
  /-- WRITE (R184): the argument bytes of the space the cursor stands in (11.2). -/
  | write (dt : Nat) (source : Byte) (args : List Byte)
  | hold (dt : Nat) (source : Byte)
  | release (dt : Nat) (source : Byte)
  | enqueue (dt : Nat) (source string kind recipe priority : Byte)
  | cancel (dt : Nat) (source string kind : Byte)
  | abort (dt : Nat) (source string : Byte)
  | direct (dt : Nat) (source string : Byte) (vCellMv i : Word16)
  | excludeStr (dt : Nat) (source string : Byte)
  | includeStr (dt : Nat) (source string : Byte)
  | clearFault (dt : Nat) (source string : Byte)
  | clearGas (dt : Nat) (source : Byte)
  | setTime (dt : Nat) (source : Byte) (day minute : Word16)
  | refill (dt : Nat) (source : Byte) (ml : Word32)
  | setMode (dt : Nat) (source mode : Byte)
  | restart (dt : Nat) (source : Byte)
  | siteMinute (dt : Nat)
  | freshnessExpiry (dt : Nat) (value : Measured)
  | dischargeHoldoffEnd (dt : Nat)
  | confirmExpiry (dt : Nat) (str : Str)
  | matchDeadline (dt : Nat) (str : Str)
  | rectRefresh (dt : Nat) (str : Str)
  | slotRefresh (dt : Nat) (slot : SlotId)
  | phaseTimeup (dt : Nat) (slot : SlotId)
  | criterionMet (dt : Nat) (slot : SlotId)
  | waitEnd (dt : Nat) (slot : SlotId)
  | waterWaitExpiry (dt : Nat) (slot : SlotId)
  | suspendLimit (dt : Nat) (slot : SlotId)
  | noSource (dt : Nat) (slot : SlotId)
  | directTimeup (dt : Nat) (slot : SlotId)
  | valveClose (dt : Nat) (pos : Pos)
  | gapEnd (dt : Nat)
  | confirmDeadlineExpiry (dt : Nat) (cell : CellIx)
  | genEnd (dt : Nat)
  | runOnEnd (dt : Nat)
  | warnExpiry (dt : Nat)
  | blindExpiry (dt : Nat)
  | blindRepeat (dt : Nat)
  | outputFrameEnd (dt : Nat)
  /-- RING_INPUT_BYTE (R157): a byte arrives at the ring input. -/
  | ringInputByte (dt : Nat) (byte : Byte)
  deriving DecidableEq, Repr

end Sys2Proof
end

