-- ==== Sys2Proof/Decode.lean ====
section
/-! DEFINITION. The commands a word of spec/opcode_table.json spells. The table gives no row any bits, so no word spells a
command (log 20). -/

namespace Sys2Proof

/-- The command a word of `nbits` bits spells: none, since no row of the table has bits (log 20). -/
def decodeTableWord (_nbits _w : Nat) : Option Instr :=
  none

end Sys2Proof
end

