-- ==== Sys2Proof/Config.lean ====
section
/-! DEFINITION. The free values: what the manual leaves open although the part goes on. Each is an opaque constant, so no
proof can lean on a value of it; each has a row in the assumption log. -/

namespace Sys2Proof.Config

/-- The revision byte of the STATUS reply (11.5): the manual names the field and gives no value (log 15). -/
opaque revision : Byte

/-- Whether a time shown in whole seconds by the SLOT record is rounded up when it is not a whole number of seconds
(11.5 says "s" for run_elapsed and suspended_total and states no rounding; log 16). -/
opaque slotSecondsRoundUp : Nat → Bool

/-- The assigned bits of an absent last_eq_outcome in the STRING record other than its reason and end reason, which are 0, by
the byte's offset in the record (11.3, 11.5, R188; log 17). -/
opaque absentEqOutcome : Nat → Byte

/-- The assigned bits among bits 6:0 of the first two bytes of an absent last_water_outcome in the STRING record: the cut flag
and the entries; its reason and end reason are 0 (11.3, R188; log 17). -/
opaque absentWaterOutcome : BitVec 7

/-- The priority bit of a SLOT record whose priority is absent (11.5 names no value for it; log 17). -/
opaque absentPriority : Bool

end Sys2Proof.Config
end

