-- ==== Sys2Proof/Machine/State.lean ====
section
/-! DEFINITION. The state of the part as plain data: every item of the state tables R1, R2, R21, R60, R81, R106, R124, R143,
R156, R162, R173 and R43, the time base, and the queue of waiting commands. Each structure is one block's record; its cold
value is the "cold reset" column of the table it is taken from. -/

namespace Sys2Proof.Machine

/-! ## Named values (11.3) -/

/-- Level class of a cell (R1). `noProbe` is the manual's NONE. -/
inductive Level where
  | unknown | high | normal | low | dry | noProbe
  deriving DecidableEq, Repr

/-- Contactor position (R2, R11). -/
inductive Contact where
  | openPos | bus | eq | moving
  deriving DecidableEq, Repr

/-- State of a string (R61). `absent` is the manual's "none". -/
inductive StringState where
  | absent | onBus | called | equalising | returning | faulted | out
  deriving DecidableEq, Repr

/-- Variant of a return (R60). -/
inductive Variant where
  | normal | gas | fast
  deriving DecidableEq, Repr

/-- Step of a return (R60). -/
inductive ReturnStep where
  | matching | confirm
  deriving DecidableEq, Repr

/-- End reasons of rounds (11.3). -/
inductive EndReason where
  | complete | timeup | allowance | noSource | suspendLimit | discharge | gas | fanFail | blind
  | trigCancel | trigFall | recall | abortRequest | contactor | restart | reservoir | reslow | nothing
  deriving DecidableEq, Repr

/-- Reasons of a queue entry (R106). -/
inductive Reason where
  | dueDays | dueSpread | dueThroughput | dry | level | deficit | request | waterPoint
  deriving DecidableEq, Repr

/-- Kind of a round (R106). -/
inductive RoundKind where
  | equalise | water
  deriving DecidableEq, Repr

/-- Priority of a queue entry (R106). -/
inductive Priority where
  | normal | urgent
  deriving DecidableEq, Repr

/-- Origin of a queue entry (R106). -/
inductive Origin where
  | auto | request | recipe
  deriving DecidableEq, Repr

/-- State of a slot's running entry (R81). -/
inductive EntryState where
  | run | suspended | wait | waterWait | direct
  deriving DecidableEq, Repr

/-- State a suspended slot returns to (R81). -/
inductive ResumeState where
  | run | direct
  deriving DecidableEq, Repr

/-- State of the Watering Unit (R124). -/
inductive WaterState where
  | idle | dosing | gap
  deriving DecidableEq, Repr

/-- The generator request sequence (R143, R146). -/
inductive GenState where
  | idle | delay | pulse
  deriving DecidableEq, Repr

/-- Lamp patterns (R155). -/
inductive Lamp where
  | fast | blink | slow | on | off
  deriving DecidableEq, Repr

/-- Sight stage (R168). -/
inductive Sight where
  | seeing | warn | blind
  deriving DecidableEq, Repr

/-- State of the staging buffer (R173). -/
inductive Staging where
  | empty | receiving | pending
  deriving DecidableEq, Repr

/-- The five loaded tables (R173). -/
inductive TableId where
  | limits | string | phase | recipe | pass
  deriving DecidableEq, Repr

/-- Mode of the part (R173). -/
inductive Mode where
  | transparent | engaged
  deriving DecidableEq, Repr

/-- Spaces of the record window (R173). -/
inductive Space where
  | cell | string | queue | slot
  deriving DecidableEq, Repr

/-! ## Shared records -/

/-- A site day and minute (00 section 3.4). -/
structure Stamp where
  day : Nat
  minute : Nat
  deriving DecidableEq, Repr

/-- A good frame (11.2). LEN and the two check bytes are functions of these fields (R158, R188). -/
structure Frame where
  dst : Byte
  src : Byte
  kind : Byte
  payload : List Byte
  deriving DecidableEq, Repr

/-- What a RECT order asks of a rectifier (R59): `off` carries zero limits; voltage in 10 mV, current in 0.1 A. -/
inductive RectOrder where
  | off
  | on (volts amps : Nat)
  deriving DecidableEq, Repr

/-- The outcome record of a round (R70, R135). `amount` is charge_in_C, or round_ml for a watering round; `entries` is
entries_completed, or cells_dosed for a watering round. -/
structure OutcomeRecord where
  kind : RoundKind
  recipe : Nat
  reason : Option Reason
  start : Option Stamp
  endReason : Option EndReason
  endStamp : Option Stamp
  amount : Nat
  cut : Bool
  entries : Nat
  deriving DecidableEq, Repr

/-! ## Record Store -/

/-- A cell record (R1) with the freshness expiries of R12, present while the value is fresh. -/
structure Cell where
  voltage : Option Nat := none
  lastV : Option Nat := none
  vExpiry : Option Nat := none
  temp : Option Int := none
  lastT : Option Nat := none
  tExpiry : Option Nat := none
  level : Level := .unknown
  deficit : Nat := 0
  unconfirmed : Nat := 0
  wateringFault : Bool := false
  confirmDeadline : Option Nat := none
  lastDose : Nat := 0
  deriving DecidableEq, Repr

/-- The reading half of a string record (R2). -/
structure Reading where
  terminalV : Option Nat := none
  lastTV : Option Nat := none
  tvExpiry : Option Nat := none
  lastPosition : Option Contact := none
  freshCells : Nat := 0
  ts : Option Int := none
  spread : Option Nat := none
  dry : Bool := false
  deriving DecidableEq, Repr

/-! ## Charge Account Unit -/

/-- The charge half of a string record (R21). -/
structure Charge where
  current : Int := 0
  tPrev : Option Nat := none
  qBal : Int := 0
  fine : Int := 0
  wAcc : Nat := 0
  oTotal : Nat := 0
  dDis : Nat := 0
  assumed : Bool := true
  gap : Bool := false
  floor : Bool := false
  fullTimer : Option Nat := none
  disStart : Option Nat := none
  discharging : Bool := false
  daysSinceEq : Nat := 0
  spreadTimer : Option Nat := none
  deriving DecidableEq, Repr

/-! ## String Control -/

/-- The control half of a string record (R60); last_water_outcome lives in the same record (R124). -/
structure Control where
  state : StringState := .absent
  slot : Option SlotId := none
  heldOrder : Option Frame := none
  endReason : Option EndReason := none
  variant : Option Variant := none
  step : Option ReturnStep := none
  matchDeadline : Option Nat := none
  confirmLeft : Option Nat := none
  rectOrder : Option RectOrder := none
  lastRectTime : Option Nat := none
  startStamp : Option Stamp := none
  endStamp : Option Stamp := none
  chargeIn : Nat := 0
  lastEqOutcome : Option OutcomeRecord := none
  holdoffUntil : Option Stamp := none
  lastWaterOutcome : Option OutcomeRecord := none
  deriving DecidableEq, Repr

/-- A string record: its three halves (01, opening). -/
structure StringRec where
  reading : Reading := {}
  charge : Charge := {}
  control : Control := {}
  deriving DecidableEq, Repr

/-! ## Slot sequencers -/

/-- The set of suspension reasons (R81, R94). -/
structure Reasons where
  source : Bool := false
  stale : Bool := false
  hot : Bool := false
  blind : Bool := false
  deriving DecidableEq, Repr

/-- A slot record (R81). -/
structure SlotRec where
  string : Option Str := none
  recipe : Nat := 0
  reason : Option Reason := none
  priority : Option Priority := none
  triggerStarted : Bool := false
  index : Nat := 0
  entryState : Option EntryState := none
  resumeState : Option ResumeState := none
  limit : Nat := 0
  lastOrder : Option RectOrder := none
  lastOrderTime : Option Nat := none
  tc : Option Int := none
  pendingOrder : Option RectOrder := none
  dEff : Nat := 0
  runElapsed : Nat := 0
  entryEnd : Option Nat := none
  suspendedTotal : Nat := 0
  reasons : Reasons := {}
  sourceWaitStart : Option Nat := none
  critStart : Option Nat := none
  settleEnd : Option Nat := none
  directV : Nat := 0
  directI : Nat := 0
  waterCalled : Bool := false
  cut : Bool := false
  entriesCompleted : Nat := 0
  deriving DecidableEq, Repr

/-! ## Scheduler -/

/-- An entry of the Round Queue (R106). -/
structure Entry where
  string : Str
  kind : RoundKind
  recipe : Nat
  reason : Reason
  priority : Priority
  origin : Origin
  stamp : Stamp
  deriving DecidableEq, Repr

/-! ## Watering Unit -/

/-- A plan item (R124): position, dose in ml, open time in ms. -/
structure PlanItem where
  pos : Pos
  dose : Nat
  openMs : Nat
  deriving DecidableEq, Repr

/-- A group item (R124): a plan item with the time its opening left the ring output. Its close time is that time plus
`openMs`. -/
structure GroupItem where
  pos : Pos
  dose : Nat
  openMs : Nat
  sent : Option Nat
  deriving DecidableEq, Repr

/-- An alteration of one valve (R128). -/
structure Alter where
  pos : Pos
  opened : Bool
  deriving DecidableEq, Repr

/-- State of the Watering Unit (R124). `lastValveDst` and `lastValveOrder` name the last VALVE order handed (R128) and
`openOrder` the order that carried the present group's openings first (R129): the model's own fields (log 10). -/
structure Water where
  state : WaterState := .idle
  string : Option Str := none
  reason : Option Reason := none
  startStamp : Option Stamp := none
  plan : List PlanItem := []
  group : List GroupItem := []
  openSet : List Pos := []
  unsent : List Alter := []
  gapEnd : Option Nat := none
  roundCut : Bool := false
  cellsDosed : Nat := 0
  roundMl : Nat := 0
  reservoir : Nat := 0
  pump : Bool := false
  lastValveDst : Option Byte := none
  lastValveOrder : Option Nat := none
  openOrder : Nat := 0
  deriving DecidableEq, Repr

/-! ## Site Line Unit -/

/-- An input line with its filter (R144): the raw level, the filtered level, and the end of a stability period in
progress. -/
structure Filter where
  raw : Bool := false
  level : Bool := false
  stableEnd : Option Nat := none
  deriving DecidableEq, Repr

/-- A tachometer window (R143): its start and its count of accepted edges. -/
structure TachWindow where
  start : Nat
  count : Nat
  deriving DecidableEq, Repr

/-- State of the Site Line Unit (R143); `lampStart` is when the pattern in force began (R155). `genWidth` is the genreq_width
that stood at the request of the generator sequence in progress, in units of 2 s: a LIMITS commit changes the width from the
next request on (R146); it is the model's own field (log 39). -/
structure Site where
  src : Filter := {}
  gas : Filter := {}
  reslow : Filter := {}
  trig : Filter := {}
  genState : GenState := .idle
  genEnd : Option Nat := none
  genWidth : Nat := 0
  genreq : Bool := false
  allowance : Nat := 0
  spendMark : Bool := false
  gassingRun : Bool := false
  spending : Bool := false
  runOnEnd : Option Nat := none
  duty : Nat := 0
  measuring : Bool := false
  lastEdge : Option Nat := none
  window : Option TachWindow := none
  lowWindows : Nat := 0
  okWindows : Nat := 0
  fanFail : Bool := false
  gasLatch : Bool := false
  lamp : Lamp := .slow
  lampStart : Nat := 0
  deriving DecidableEq, Repr

/-! ## Ring Port and Pass Table -/

/-- The receiver (R157). `receiving got` has taken the bytes `got` since the start marker. -/
inductive RxState where
  | hunt
  | receiving (got : List Byte)
  deriving DecidableEq, Repr

/-- A frame waiting in the order queue, with the number by which a report names it (R164, log 10). -/
structure Order where
  frame : Frame
  number : Nat
  deriving DecidableEq, Repr

/-- The frame being sent (R167), the order it is, if it is one, and the time its transmission began. -/
structure Sending where
  frame : Frame
  order : Option Nat
  begun : Nat
  deriving DecidableEq, Repr

/-- The six counts (R156). -/
structure Counts where
  runt : Nat := 0
  badCheck : Nat := 0
  overflow : Nat := 0
  requestDrop : Nat := 0
  policed : Nat := 0
  orderDrop : Nat := 0
  deriving DecidableEq, Repr

/-- State of the Ring Port (R156), with the frame at the output (R163, R167), the time of the last byte in reception
(R157) and the thinning counters of the Pass Table (R162). `orderCount` numbers the orders handed (log 10). -/
structure Ring where
  ownAddress : Byte := 0xF0
  rx : RxState := .hunt
  rxLast : Nat := 0
  forward : List Frame := []
  orders : List Order := []
  replies : List Frame := []
  replyWait : Nat := 0
  fwdSkip : Nat := 0
  counts : Counts := {}
  noticeLost : Bool := false
  gasStop : Bool := false
  sight : Sight := .seeing
  lastGood : Option Nat := none
  repeatDue : Option Nat := none
  sending : Option Sending := none
  thin : Vector Nat 16 := Vector.replicate 16 0
  orderCount : Nat := 0
  deriving DecidableEq, Repr

/-! ## Management Agent -/

/-- The set of tables committed since cold reset (R173). -/
structure Loaded where
  limits : Bool := false
  string : Bool := false
  phase : Bool := false
  recipe : Bool := false
  pass : Bool := false
  deriving DecidableEq, Repr

/-- The record window's cursor (R173). -/
structure Cursor where
  space : Space := .cell
  index : Nat := 0
  deriving DecidableEq, Repr

/-- State of the Management Agent (R173), with the bytes in the staging buffer. -/
structure Mgmt where
  staging : Staging := .empty
  stagedTable : Option TableId := none
  stagedTotal : Option Nat := none
  staged : List Byte := []
  loaded : Loaded := {}
  engagedOnce : Bool := false
  mode : Mode := .transparent
  cursor : Cursor := {}
  held : Bool := false
  mark : Option Cursor := none
  clock : Stamp := ⟨0, 0⟩
  minuteEnd : Nat := 60000
  deriving DecidableEq, Repr

/-- The committed images of the five tables (R43, R173, R175): every byte 0 at cold reset. -/
structure Images where
  limits : List Byte := List.replicate 96 0
  string : List Byte := List.replicate 160 0
  phase : List Byte := List.replicate 192 0
  recipe : List Byte := List.replicate 192 0
  pass : List Byte := List.replicate 96 0
  deriving DecidableEq, Repr

/-- Event-local marks, clear between events (log 5): a scan has been started (R113), a pending commit is to be judged
(R181), and the trigger gate is open for the scan of this event (R120). -/
structure Marks where
  scan : Bool := false
  commit : Bool := false
  gate : Bool := false
  deriving DecidableEq, Repr

/-- The whole state of the part. -/
structure State where
  pending : List Instr := []
  now : Nat := 0
  cells : Vector Cell 192 := Vector.replicate 192 {}
  strings : Vector StringRec 8 := Vector.replicate 8 {}
  busVoltage : Option Nat := none
  discharge : Bool := false
  holdoffEnd : Option Nat := none
  slotA : SlotRec := {}
  slotB : SlotRec := {}
  queue : List Entry := []
  trigLevel : Bool := false
  water : Water := {}
  site : Site := {}
  ring : Ring := {}
  mgmt : Mgmt := {}
  images : Images := {}
  marks : Marks := {}
  deriving DecidableEq, Repr

/-- The part right after a cold reset at power-up (the cold-reset columns of R1, R2, R21, R60, R81, R106, R124, R143,
R156, R162, R173, R43) with straps 0, every raw line low and the time base at 0 (log 1, log 6: DESIGN CHOICE). -/
def State.reset : State := {}

/-- The reasons a step can stop with a fault. No event of the manual stops the part, so there is none. -/
inductive Fault where
  deriving DecidableEq, Repr

/-- The reasons a step can be refused. -/
inductive Refusal where
  /-- Raised by an arm of `exec` for a command that has no meaning yet; safe, since no claim can be proved from it. -/
  | notModelled (mnemonic : String)
  deriving DecidableEq, Repr

/-- The three outcomes of a step, over this machine's types. -/
abbrev Result := Host.Outcome State Fault Refusal

end Sys2Proof.Machine
end

