-- ==== Sys2Proof/Machine/Bytes.lean ====
section
/-! DEFINITION. Byte order, signed fields and packed bits (R188), the CRC of the ring (R158), and the integer arithmetic of
00 section 3.3. -/

namespace Sys2Proof.Machine

/-- Byte `i` of a run of bytes, as a number. -/
def u8 (bs : List Byte) (i : Nat) : Nat :=
  (bs.getD i 0).toNat

/-- The unsigned field of `n` bytes at offset `off`, high byte first (R188). -/
def field (bs : List Byte) (off : Nat) : Nat → Nat
  | 0 => 0
  | n + 1 => field bs off n * 256 + u8 bs (off + n)

/-- Two's complement reading of an `n`-byte number (R188). -/
def signedOf (n v : Nat) : Int :=
  if v < 2 ^ (8 * n - 1) then (v : Int) else (v : Int) - 2 ^ (8 * n)

/-- The signed field of `n` bytes at offset `off` (R188). -/
def sfield (bs : List Byte) (off n : Nat) : Int :=
  signedOf n (field bs off n)

/-- `v` as `n` bytes, high byte first (R188). -/
def bytesBE : Nat → Nat → List Byte
  | 0, _ => []
  | n + 1, v => BitVec.ofNat 8 (v / 256 ^ n) :: bytesBE n v

/-- A signed number as `n` bytes, two's complement, high byte first (R188). -/
def bytesSigned (n : Nat) (v : Int) : List Byte :=
  bytesBE n (v % 2 ^ (8 * n)).toNat

/-- Bits `hi:lo` of a number. -/
def bits (v hi lo : Nat) : Nat :=
  v / 2 ^ lo % 2 ^ (hi + 1 - lo)

/-- Whether bit `k` of a number is set. -/
def bit (v k : Nat) : Bool :=
  v / 2 ^ k % 2 == 1

/-- A flag as the bit of weight 2^k. -/
def flag (b : Bool) (k : Nat) : Nat :=
  if b then 2 ^ k else 0

/-- The image `bs` with `new` in place of the bytes from `off` on. -/
def putBytes (bs : List Byte) (off : Nat) (new : List Byte) : List Byte :=
  bs.take off ++ new ++ bs.drop (off + new.length)

/-- One byte shifted into the CRC of x^16 + x^12 + x^5 + 1, most significant bit first (R158). -/
def crcBits : Nat → BitVec 16 → BitVec 16
  | 0, c => c
  | n + 1, c => crcBits n (if c.msb then (c <<< 1) ^^^ 0x1021 else c <<< 1)

/-- The CRC of a run of bytes from the register value `c` (R158). -/
def crcFrom (c : BitVec 16) : List Byte → BitVec 16
  | [] => c
  | b :: bs => crcFrom (crcBits 8 (c ^^^ ((b.setWidth 16) <<< 8))) bs

/-- The check of the ring: initial value 0xFFFF, no reflection, no final exclusive-or (R158). -/
def crc16 (bs : List Byte) : BitVec 16 :=
  crcFrom 0xFFFF bs

/-- clamp(x, lo, hi) of 00 section 3.3. -/
def clampNat (x lo hi : Nat) : Nat :=
  if x < lo then lo else if hi < x then hi else x

/-- clamp(x, lo, hi) of 00 section 3.3, for signed values. -/
def clampInt (x lo hi : Int) : Int :=
  if x < lo then lo else if hi < x then hi else x

/-- ceil(x / d) of 00 section 3.3. -/
def ceilDiv (x d : Nat) : Nat :=
  (x + d - 1) / d

/-- Addition saturating at `hi`. -/
def satAdd (hi x y : Nat) : Nat :=
  min hi (x + y)

/-- The largest value of a 32-bit saturating count (R21, R60). -/
def sat32 : Nat := 4294967295

/-- The largest value of a 16-bit saturating count (R21, R156). -/
def sat16 : Nat := 65535

end Sys2Proof.Machine
end

