-- ==== Sys2Proof/Machine/Operands.lean ====
section
/-! DEFINITION. The layouts of 11.2 to 11.4 as the part reads them: frames and their payloads, the five table images, and
the requests. These are the part's operand forms. -/

namespace Sys2Proof.Machine

/-! ## Frame kinds and orders (11.2) -/

def kindCell : Byte := 0x10
def kindShunt : Byte := 0x11
def kindPosition : Byte := 0x12
def kindRect : Byte := 0x20
def kindContactor : Byte := 0x21
def kindValve : Byte := 0x22
def kindRequest : Byte := 0x30
def kindReply : Byte := 0x31
def kindNotice : Byte := 0x32

/-- The broadcast address (R159). -/
def broadcast : Byte := 0xFF

/-- The bytes of a frame from DST through the last payload byte: what the check is taken over (R158). -/
def Frame.checked (f : Frame) : List Byte :=
  f.dst :: f.src :: f.kind :: BitVec.ofNat 8 f.payload.length :: f.payload

/-- A frame as it stands on the ring, start marker and check bytes included (11.2). -/
def Frame.onRing (f : Frame) : List Byte :=
  0xA5 :: f.checked ++ bytesBE 2 (crc16 f.checked).toNat

/-- A RECT order (11.2). An OFF order carries zero limits (R59). -/
def rectFrame (dst src : Byte) : RectOrder → Frame
  | .off => ⟨dst, src, kindRect, 0 :: bytesBE 2 0 ++ bytesBE 2 0⟩
  | .on v i => ⟨dst, src, kindRect, 1 :: bytesBE 2 v ++ bytesBE 2 i⟩

/-- Whether a frame is a RECT order with command ON. -/
def Frame.isRectOn (f : Frame) : Bool :=
  f.kind == kindRect && f.payload.head? == some 1

/-- Target codes of a CONTACTOR order (11.2). -/
def targetBus : Byte := 1
def targetEq : Byte := 2

/-- A CONTACTOR order (11.2). -/
def contactorFrame (dst src target : Byte) : Frame :=
  ⟨dst, src, kindContactor, [target]⟩

/-- Whether a CONTACTOR frame names the target BUS. -/
def Frame.isBusTarget (f : Frame) : Bool :=
  f.payload.head? == some targetBus

/-- The pair of bits of one valve: alter is bit 1 and open bit 0 of the pair (11.2). -/
def valvePair (alters : List Alter) (p : Nat) : Nat :=
  match alters.find? (fun a => a.pos.val == p) with
  | some a => if a.opened then 3 else 2
  | none => 0

/-- The payload of a VALVE order: position p (from 0) lies in byte p / 4, at bits 2k + 1 and 2k with k = p mod 4 (11.2). -/
def valvePayload (alters : List Alter) : List Byte :=
  [0, 1, 2, 3, 4, 5].map fun j =>
    BitVec.ofNat 8 (valvePair alters (4 * j) + 4 * valvePair alters (4 * j + 1) + 16 * valvePair alters (4 * j + 2)
      + 64 * valvePair alters (4 * j + 3))

/-- A VALVE order carrying the given alterations (R128). -/
def valveFrame (dst src : Byte) (alters : List Alter) : Frame :=
  ⟨dst, src, kindValve, valvePayload alters⟩

/-- Whether a VALVE frame carries the opening of position `p`. -/
def Frame.opens (f : Frame) (p : Pos) : Bool :=
  bits (u8 f.payload (p.val / 4)) (2 * (p.val % 4) + 1) (2 * (p.val % 4)) == 3

/-! ## Readings (11.2, R3, R5, R10, R11) -/

/-- A CELL reading. `voltage` and `temp` are absent where the node did not measure. -/
structure CellReading where
  voltage : Option Nat
  temp : Option Int
  levelCode : Nat
  sensorFault : Bool
  deriving DecidableEq, Repr

/-- A CELL payload; none below its least length of 6 bytes (R3). -/
def readCell (p : List Byte) : Option CellReading :=
  if p.length < 6 then none
  else some {
    voltage := if field p 0 2 = 0xFFFF then none else some (field p 0 2)
    temp := if field p 2 2 = 0x7FFF then none else some (sfield p 2 2)
    levelCode := u8 p 4
    sensorFault := bit (u8 p 5) 0 }

/-- A SHUNT reading. -/
structure ShuntReading where
  current : Int
  terminalV : Option Nat
  sensorFault : Bool
  deriving DecidableEq, Repr

/-- A SHUNT payload; none below its least length of 5 bytes (R3). -/
def readShunt (p : List Byte) : Option ShuntReading :=
  if p.length < 5 then none
  else some {
    current := sfield p 0 2
    terminalV := if field p 2 2 = 0xFFFF then none else some (field p 2 2)
    sensorFault := bit (u8 p 4) 0 }

/-- A POSITION reading: its position code and fault flag. -/
structure PositionReading where
  code : Nat
  fault : Bool
  deriving DecidableEq, Repr

/-- A POSITION payload; none below its least length of 2 bytes (R3). -/
def readPosition (p : List Byte) : Option PositionReading :=
  if p.length < 2 then none else some { code := u8 p 0, fault := bit (u8 p 1) 0 }

/-- Position codes (11.2); a code above 3 names none (R11). -/
def contactOf : Nat → Option Contact
  | 0 => some .openPos
  | 1 => some .bus
  | 2 => some .eq
  | 3 => some .moving
  | _ => none

/-! ## LIMITS (11.4) -/

/-- Trigger modes (R120). -/
inductive TriggerMode where
  | off | edge | level
  deriving DecidableEq, Repr

/-- The fields of the LIMITS image. -/
structure Limits where
  controllerAddr : Byte
  slotARect : Byte
  slotBRect : Byte
  maxOut : Nat
  minOnBus : Nat
  triggerMode : TriggerMode
  tRef : Int
  compK : Nat
  floatMv : Nat
  gasMv : Nat
  cellCeilingMv : Nat
  cellCutMv : Nat
  iFloor : Nat
  backoffSettleS : Nat
  hotLimit : Int
  coldLimit : Int
  staleS : Nat
  staleAllow : Nat
  gapMs : Nat
  fullCurrent : Nat
  fullHoldMin : Nat
  dischargeCurrent : Nat
  dischargeConfirmS : Nat
  dischargeHoldoffMin : Nat
  busLow : Nat
  returnWindow : Nat
  returnWaitMin : Nat
  contactorTimeoutS : Nat
  orderRefreshS : Nat
  sourceWaitMin : Nat
  suspendMaxMin : Nat
  genreqDelay : Nat
  genreqWidth : Nat
  allowanceMin : Nat
  fanBaseDuty : Nat
  fanGasDuty : Nat
  runOnMin : Nat
  fanMinRate : Nat
  fanFailS : Nat
  tachDebounce : Bool
  silenceWarnMs : Nat
  silenceBlindS : Nat
  blindRepeatS : Nat
  reservoirCapacityMl : Nat
  reservoirReserveMl : Nat
  flowX10 : Nat
  maxOpen : Nat
  doseMaxMl : Nat
  doseMinMl : Nat
  waterDueMl : Nat
  groupGapS : Nat
  confirmMin : Nat
  waterWaitMaxMin : Nat
  directMaxMin : Nat
  holdoffMin : Nat
  deriving DecidableEq, Repr

/-- Trigger mode codes (11.3). -/
def triggerModeOf : Nat → TriggerMode
  | 1 => .edge
  | 2 => .level
  | _ => .off

/-- The LIMITS layout (11.4). -/
def Limits.ofImage (b : List Byte) : Limits where
  controllerAddr := b.getD 0 0
  slotARect := b.getD 1 0
  slotBRect := b.getD 2 0
  maxOut := u8 b 3
  minOnBus := u8 b 4
  triggerMode := triggerModeOf (u8 b 5)
  tRef := (field b 6 2 : Int)
  compK := u8 b 8
  floatMv := field b 9 2
  gasMv := field b 11 2
  cellCeilingMv := field b 13 2
  cellCutMv := field b 15 2
  iFloor := field b 17 2
  backoffSettleS := field b 19 2
  hotLimit := sfield b 21 2
  coldLimit := sfield b 23 2
  staleS := field b 25 2
  staleAllow := u8 b 27
  gapMs := field b 28 2
  fullCurrent := field b 30 2
  fullHoldMin := u8 b 32
  dischargeCurrent := field b 33 2
  dischargeConfirmS := u8 b 35
  dischargeHoldoffMin := field b 36 2
  busLow := field b 38 2
  returnWindow := field b 40 2
  returnWaitMin := u8 b 42
  contactorTimeoutS := u8 b 43
  orderRefreshS := u8 b 44
  sourceWaitMin := u8 b 45
  suspendMaxMin := u8 b 46
  genreqDelay := u8 b 47
  genreqWidth := u8 b 48
  allowanceMin := field b 49 2
  fanBaseDuty := u8 b 51
  fanGasDuty := u8 b 52
  runOnMin := u8 b 53
  fanMinRate := u8 b 54
  fanFailS := u8 b 55
  tachDebounce := u8 b 56 == 1
  silenceWarnMs := field b 57 2
  silenceBlindS := field b 59 2
  blindRepeatS := u8 b 61
  reservoirCapacityMl := field b 62 4
  reservoirReserveMl := field b 66 4
  flowX10 := u8 b 70
  maxOpen := u8 b 71
  doseMaxMl := field b 72 2
  doseMinMl := u8 b 74
  waterDueMl := field b 75 2
  groupGapS := u8 b 77
  confirmMin := u8 b 78
  waterWaitMaxMin := u8 b 79
  directMaxMin := field b 80 2
  holdoffMin := field b 82 2

/-! ## STRING (11.4) -/

/-- The fields of one entry of the STRING image. -/
structure StringCfg where
  present : Bool
  autoWater : Bool
  etaPct : Nat
  cells : Nat
  cellBase : Byte
  shuntAddr : Byte
  contactorAddr : Byte
  manifoldAddr : Byte
  capacityAh : Nat
  autoRecipe : Nat
  offsetBoost : Int
  offsetHold : Int
  offsetRest : Int
  offsetSettle : Int
  probeMask : Nat
  dueDays : Nat
  spreadMv : Nat
  spreadMin : Nat
  throughputPct : Nat
  deriving DecidableEq, Repr

/-- The layout of the STRING entry whose first byte is at `off` (11.4, R190). -/
def StringCfg.ofEntry (b : List Byte) (off : Nat) : StringCfg where
  present := bits (u8 b off) 1 0 == 1
  autoWater := bit (u8 b off) 2
  etaPct := 80 + bits (u8 b off) 7 3
  cells := u8 b (off + 1)
  cellBase := b.getD (off + 2) 0
  shuntAddr := b.getD (off + 3) 0
  contactorAddr := b.getD (off + 4) 0
  manifoldAddr := b.getD (off + 5) 0
  capacityAh := bits (field b (off + 6) 2) 15 4
  autoRecipe := bits (field b (off + 6) 2) 3 0
  offsetBoost := sfield b (off + 8) 1
  offsetHold := sfield b (off + 9) 1
  offsetRest := sfield b (off + 10) 1
  offsetSettle := sfield b (off + 11) 1
  probeMask := field b (off + 12) 3
  dueDays := bits (field b (off + 15) 5) 39 31
  spreadMv := bits (field b (off + 15) 5) 30 22
  spreadMin := bits (field b (off + 15) 5) 21 11
  throughputPct := bits (field b (off + 15) 5) 10 0

/-- The entry of string `i` in a STRING image. -/
def StringCfg.ofImage (b : List Byte) (i : Str) : StringCfg :=
  StringCfg.ofEntry b (20 * i.val)

/-- capacity_C (R21). -/
def StringCfg.capacityC (c : StringCfg) : Nat :=
  c.capacityAh * 3600

/-- Whether position `p` has a probe (R6). -/
def StringCfg.hasProbe (c : StringCfg) (p : Pos) : Bool :=
  bit c.probeMask p.val

/-- Whether the string has a manifold. -/
def StringCfg.hasManifold (c : StringCfg) : Bool :=
  c.manifoldAddr != 0xFF

/-- The cell range of a string, cell_base … cell_base + cells − 1, holds address `a` (R3). -/
def StringCfg.inCellRange (c : StringCfg) (a : Byte) : Bool :=
  c.cellBase.toNat ≤ a.toNat && a.toNat < c.cellBase.toNat + c.cells

/-- The address set of a string (R180). -/
def StringCfg.claims (c : StringCfg) (a : Byte) : Bool :=
  c.inCellRange a || a == c.shuntAddr || a == c.contactorAddr || (c.hasManifold && a == c.manifoldAddr)

/-! ## PHASE (11.4, R44) -/

/-- Class of a phase (R44). -/
inductive PhaseClass where
  | boost | hold | rest | settle
  deriving DecidableEq, Repr

/-- End criterion of a phase (R53). -/
inductive Criterion where
  | none | taper | spread
  deriving DecidableEq, Repr

/-- A phase record (R44). -/
structure PhaseRec where
  cls : PhaseClass
  vSet : Nat
  vMin : Nat
  vMax : Nat
  iSet : Nat
  durationMin : Nat
  criterion : Criterion
  critValue : Nat
  critHoldMin : Nat
  deriving DecidableEq, Repr

/-- Phase class codes (11.4); the commit check R45 leaves no other code. -/
def phaseClassOf : Nat → PhaseClass
  | 2 => .hold
  | 3 => .rest
  | 4 => .settle
  | _ => .boost

/-- End criterion codes (11.4); the commit check R45 leaves no other code. -/
def criterionOf : Nat → Criterion
  | 1 => .taper
  | 2 => .spread
  | _ => .none

/-- The layout of the phase record whose first byte is at `off` (11.4). -/
def PhaseRec.ofEntry (b : List Byte) (off : Nat) : PhaseRec where
  cls := phaseClassOf (u8 b off)
  vSet := bits (field b (off + 1) 3) 23 12
  vMin := bits (field b (off + 1) 3) 11 0
  vMax := bits (field b (off + 4) 3) 23 12
  iSet := bits (field b (off + 4) 3) 11 0
  durationMin := bits (field b (off + 7) 3) 23 12
  critValue := bits (field b (off + 7) 3) 11 0
  criterion := criterionOf (u8 b (off + 10))
  critHoldMin := u8 b (off + 11)

/-- The offset of phase record `id`, 1 to 16 (11.4). -/
def phaseOffset (id : Nat) : Nat :=
  12 * (id - 1)

/-- The phase record `id` of a PHASE image. -/
def PhaseRec.ofImage (b : List Byte) (id : Nat) : PhaseRec :=
  PhaseRec.ofEntry b (phaseOffset id)

/-- A phase record whose 12 bytes are all 0 is unused (R45). -/
def phaseUnusedAt (b : List Byte) (off : Nat) : Bool :=
  field b off 12 == 0

/-- Whether phase record `id` is unused (R45). -/
def phaseUnused (b : List Byte) (id : Nat) : Bool :=
  phaseUnusedAt b (phaseOffset id)

/-! ## RECIPE (11.4, R47) -/

/-- An entry of a recipe (R47). -/
inductive RecipeEntry where
  | phase (id : Nat)
  | wait (minutes : Nat)
  | water
  | finish
  deriving DecidableEq, Repr

/-- The offset of entry `i` of recipe `r` (11.4). -/
def recipeOffset (r i : Nat) : Nat :=
  24 * (r - 1) + 2 * i

/-- Entry `i` of recipe `r`; an END stands at index 12 (R47). -/
def recipeEntry (b : List Byte) (r i : Nat) : RecipeEntry :=
  if 12 ≤ i then .finish
  else match u8 b (recipeOffset r i) with
    | 1 => .phase (u8 b (recipeOffset r i + 1))
    | 2 => .wait (u8 b (recipeOffset r i + 1))
    | 3 => .water
    | _ => .finish

/-- The entries of recipe `r` from index `i` up to its first END, which is left out; at most `n` entries. -/
def entriesFrom (b : List Byte) (r i : Nat) : Nat → List RecipeEntry
  | 0 => []
  | n + 1 =>
    match recipeEntry b r i with
    | .finish => []
    | e => e :: entriesFrom b r (i + 1) n

/-- The entries of recipe `r` before its first END (R47). -/
def recipeEntries (b : List Byte) (r : Nat) : List RecipeEntry :=
  entriesFrom b r 0 12

/-- Whether recipe `r`, 1 to 8, is empty in the given RECIPE and PHASE images (R49). Recipe 0 is never empty. -/
def recipeEmpty (recipes phases : List Byte) (r : Nat) : Bool :=
  r != 0 &&
    ((recipeEntries recipes r).isEmpty ||
      (recipeEntries recipes r).any fun e =>
        match e with
        | .phase id => phaseUnused phases id
        | _ => false)

/-- The lead phase of a recipe: its first PHASE entry before its first END (R52). -/
def leadPhase (recipes : List Byte) (r : Nat) : Option Nat :=
  (recipeEntries recipes r).findSome? fun e =>
    match e with
    | .phase id => some id
    | _ => none

/-! ## PASS (11.4, R162) -/

/-- The action of a Pass Table entry (R162). -/
inductive PassAction where
  | pass | strip
  | thin (n : Nat)
  deriving DecidableEq, Repr

/-- An entry of the Pass Table (R162). `kind` is absent for ANY. -/
structure PassEntry where
  enabled : Bool
  kind : Option Byte
  matchDst : Bool
  addrLo : Byte
  addrHi : Byte
  action : PassAction
  deriving DecidableEq, Repr

/-- Action codes (11.4); the commit check R179 leaves no other code in an enabled entry. -/
def passActionOf (v : Nat) : PassAction :=
  match bits v 7 6 with
  | 1 => .strip
  | 2 => .thin (bits v 4 0)
  | _ => .pass

/-- The layout of Pass Table entry `e` (11.4). -/
def PassEntry.ofImage (b : List Byte) (e : Nat) : PassEntry where
  enabled := u8 b (6 * e) == 1
  kind := if bit (u8 b (6 * e + 2)) 7 then none else some (b.getD (6 * e + 1) 0)
  matchDst := bits (u8 b (6 * e + 2)) 1 0 == 1
  addrLo := b.getD (6 * e + 3) 0
  addrHi := b.getD (6 * e + 4) 0
  action := passActionOf (u8 b (6 * e + 5))

/-- Whether a frame matches an entry (R162). -/
def PassEntry.matchesFrame (e : PassEntry) (f : Frame) : Bool :=
  let a := if e.matchDst then f.dst else f.src
  e.enabled && (match e.kind with | none => true | some k => k == f.kind)
    && e.addrLo.toNat ≤ a.toNat && a.toNat ≤ e.addrHi.toNat

/-! ## Requests (11.2, R174) -/

/-- A request with its arguments as 11.2 lays them out, not yet judged. -/
inductive Request where
  | status
  | tableRead (table offset n : Byte)
  | loadBegin (table : Byte) (total : Nat)
  | loadPart (offset : Nat) (data : List Byte)
  | loadCommit
  | loadDiscard
  | cursor (space index : Byte)
  | read (n : Byte)
  | write (args : List Byte)
  | hold
  | release
  | enqueue (string kind recipe priority : Byte)
  | cancel (string kind : Byte)
  | abort (string : Byte)
  | direct (string : Byte) (vCellMv i : Nat)
  | excludeStr (string : Byte)
  | includeStr (string : Byte)
  | clearFault (string : Byte)
  | clearGas
  | setTime (day minute : Nat)
  | refill (ml : Nat)
  | setMode (mode : Byte)
  | restart
  deriving DecidableEq, Repr

/-- The request codes (11.2). -/
def Request.code : Request → Byte
  | .status => 0x01
  | .tableRead .. => 0x02
  | .loadBegin .. => 0x10
  | .loadPart .. => 0x11
  | .loadCommit => 0x12
  | .loadDiscard => 0x13
  | .cursor .. => 0x20
  | .read .. => 0x21
  | .write .. => 0x22
  | .hold => 0x23
  | .release => 0x24
  | .enqueue .. => 0x30
  | .cancel .. => 0x31
  | .abort .. => 0x32
  | .direct .. => 0x33
  | .excludeStr .. => 0x40
  | .includeStr .. => 0x41
  | .clearFault .. => 0x42
  | .clearGas => 0x43
  | .setTime .. => 0x50
  | .refill .. => 0x51
  | .setMode .. => 0x52
  | .restart => 0x53

/-- What the payload of a REQUEST frame says (R174 steps 2 and 3). -/
inductive Parsed where
  | unknown (code : Byte)
  | tooShort (code : Byte)
  | request (r : Request)
  deriving DecidableEq, Repr

/-- The code a reply echoes (R174, R189). -/
def Parsed.code : Parsed → Byte
  | .unknown c => c
  | .tooShort c => c
  | .request r => r.code

/-- The request of code `c` with argument bytes `a`, when there are at least `n` of them. -/
def withArgs (c : Byte) (a : List Byte) (n : Nat) (r : Request) : Parsed :=
  if a.length < n then .tooShort c else .request r

/-- The request with code `c` and argument bytes `a` (11.2); bytes beyond the arguments are not read (R188). WRITE's
argument bytes depend on the cursor's space and are judged there (R184). -/
def parseRequest (c : Byte) (a : List Byte) : Parsed :=
  match c.toNat with
  | 0x01 => .request .status
  | 0x02 => withArgs c a 3 (.tableRead (a.getD 0 0) (a.getD 1 0) (a.getD 2 0))
  | 0x10 => withArgs c a 3 (.loadBegin (a.getD 0 0) (field a 1 2))
  | 0x11 => withArgs c a 2 (.loadPart (field a 0 2) (a.drop 2))
  | 0x12 => .request .loadCommit
  | 0x13 => .request .loadDiscard
  | 0x20 => withArgs c a 2 (.cursor (a.getD 0 0) (a.getD 1 0))
  | 0x21 => withArgs c a 1 (.read (a.getD 0 0))
  | 0x22 => .request (.write a)
  | 0x23 => .request .hold
  | 0x24 => .request .release
  | 0x30 => withArgs c a 4 (.enqueue (a.getD 0 0) (a.getD 1 0) (a.getD 2 0) (a.getD 3 0))
  | 0x31 => withArgs c a 2 (.cancel (a.getD 0 0) (a.getD 1 0))
  | 0x32 => withArgs c a 1 (.abort (a.getD 0 0))
  | 0x33 => withArgs c a 5 (.direct (a.getD 0 0) (field a 1 2) (field a 3 2))
  | 0x40 => withArgs c a 1 (.excludeStr (a.getD 0 0))
  | 0x41 => withArgs c a 1 (.includeStr (a.getD 0 0))
  | 0x42 => withArgs c a 1 (.clearFault (a.getD 0 0))
  | 0x43 => .request .clearGas
  | 0x50 => withArgs c a 4 (.setTime (field a 0 2) (field a 2 2))
  | 0x51 => withArgs c a 4 (.refill (field a 0 4))
  | 0x52 => withArgs c a 1 (.setMode (a.getD 0 0))
  | 0x53 => .request .restart
  | _ => .unknown c

/-- The payload of a REQUEST frame: the code and its arguments; an empty payload carries no code and echoes 0 (R174). -/
def parsePayload : List Byte → Parsed
  | [] => .unknown 0
  | c :: a => parseRequest c a

/-- A string index argument; none above 7. -/
def strOf (b : Byte) : Option Str :=
  if h : b.toNat < 8 then some ⟨b.toNat, h⟩ else none

/-- Table codes (11.3). -/
def tableOf (b : Byte) : Option TableId :=
  match b.toNat with
  | 1 => some .limits
  | 2 => some .string
  | 3 => some .phase
  | 4 => some .recipe
  | 5 => some .pass
  | _ => none

/-- Sizes of the table images (R175). -/
def TableId.size : TableId → Nat
  | .limits => 96
  | .string => 160
  | .phase => 192
  | .recipe => 192
  | .pass => 96

/-- Space codes (11.3). -/
def spaceOf (b : Byte) : Option Space :=
  match b.toNat with
  | 0 => some .cell
  | 1 => some .string
  | 2 => some .queue
  | 3 => some .slot
  | _ => none

/-- The last index of each space (R183). -/
def Space.lastIndex : Space → Nat
  | .cell => 191
  | .string => 7
  | .queue => 15
  | .slot => 1

/-- Round kind codes (11.3). -/
def roundKindOf (b : Byte) : Option RoundKind :=
  match b.toNat with
  | 0 => some .equalise
  | 1 => some .water
  | _ => none

/-- Priority codes (11.3). -/
def priorityOf (b : Byte) : Option Priority :=
  match b.toNat with
  | 0 => some .normal
  | 1 => some .urgent
  | _ => none

/-- Mode codes (11.3). -/
def modeOf (b : Byte) : Option Mode :=
  match b.toNat with
  | 0 => some .transparent
  | 1 => some .engaged
  | _ => none

end Sys2Proof.Machine
end

