-- ==== Sys2Proof/Machine/Ops.lean ====
section
/-! DEFINITION. The named operations over the state's records, and the Ring Port's places: handing an order to the order
queue (R164, R165), a notice or a reply to the reply queue (R166), a frame to the forward buffer (R163), and the passing of
time. -/

namespace Sys2Proof.Machine

/-! ## Reading the state -/

/-- The committed LIMITS image as fields. -/
def State.lim (s : State) : Limits :=
  Limits.ofImage s.images.limits

/-- The committed STRING entry of `str`. -/
def State.cfg (s : State) (str : Str) : StringCfg :=
  StringCfg.ofImage s.images.string str

/-- The committed phase record `id`. -/
def State.phase (s : State) (id : Nat) : PhaseRec :=
  PhaseRec.ofImage s.images.phase id

/-- Whether a LIMITS image has been applied since cold reset (R173). -/
def State.limitsLoaded (s : State) : Bool :=
  s.mgmt.loaded.limits

/-- Whether `str` is a present string (00 section 4). -/
def State.present (s : State) (str : Str) : Bool :=
  (s.cfg str).present

def State.cell (s : State) (i : CellIx) : Cell :=
  s.cells[i.val]

def State.str (s : State) (str : Str) : StringRec :=
  s.strings[str.val]

def State.reading (s : State) (str : Str) : Reading :=
  (s.str str).reading

def State.charge (s : State) (str : Str) : Charge :=
  (s.str str).charge

def State.control (s : State) (str : Str) : Control :=
  (s.str str).control

def State.slot (s : State) : SlotId → SlotRec
  | .A => s.slotA
  | .B => s.slotB

/-- The strings in order S0 to S7. -/
def allStrs : List Str :=
  [0, 1, 2, 3, 4, 5, 6, 7]

/-- The two slots, A first (R63). -/
def allSlots : List SlotId :=
  [.A, .B]

/-- The positions of a string in ascending order. -/
def allPos : List Pos :=
  [0, 1, 2, 3, 4, 5, 6, 7, 8, 9, 10, 11, 12, 13, 14, 15, 16, 17, 18, 19, 20, 21, 22, 23]

/-- Positions 1…cells of `str`, in ascending order. -/
def State.positions (s : State) (str : Str) : List Pos :=
  allPos.filter fun p => p.val < (s.cfg str).cells

/-- The index of the cell record of position `p` of string `str` (R1). -/
def cellIx (str : Str) (p : Pos) : CellIx :=
  ⟨str.val * 24 + p.val, by omega⟩

/-- The string and position of a cell index (R1). -/
def cellStr (i : CellIx) : Str :=
  ⟨i.val / 24, by omega⟩

def cellPos (i : CellIx) : Pos :=
  ⟨i.val % 24, by omega⟩

/-- The cell record of a position. -/
def State.cellAt (s : State) (str : Str) (p : Pos) : Cell :=
  s.cell (cellIx str p)

/-- The strings that are present. -/
def State.presentStrs (s : State) : List Str :=
  allStrs.filter fun i => s.present i

/-- The address of a slot's rectifier (R63). -/
def State.rectAddr (s : State) : SlotId → Byte
  | .A => s.lim.slotARect
  | .B => s.lim.slotBRect

/-- A slot is present when its rectifier address is not 0xFF (R63). -/
def State.slotPresent (s : State) (sl : SlotId) : Bool :=
  s.rectAddr sl != 0xFF

/-- A slot is free when it is present and no string is bound to it (R63). -/
def State.slotFree (s : State) (sl : SlotId) : Bool :=
  s.slotPresent sl && (s.slot sl).string.isNone

/-- The slot a string asking for one is given: A if free, otherwise B (R63). -/
def State.freeSlot? (s : State) : Option SlotId :=
  allSlots.find? fun sl => s.slotFree sl

/-- A string is bound while its slot field names a slot (R61). -/
def State.bound (s : State) (str : Str) : Bool :=
  (s.control str).slot.isSome

/-- The number of bound strings (R61). -/
def State.boundCount (s : State) : Nat :=
  (allStrs.filter fun i => s.bound i).length

/-- Whether `str` is in the given state (R61). -/
def State.inState (s : State) (str : Str) (st : StringState) : Bool :=
  (s.control str).state == st

/-- Whether the Watering Unit is watering `str` (R124). -/
def State.watering (s : State) (str : Str) : Bool :=
  s.water.state != .idle && s.water.string == some str

/-- Whether the site clock is in ENGAGED mode (R182). -/
def State.engaged (s : State) : Bool :=
  s.mgmt.mode == .engaged

/-- The measured value with this expiry is fresh: it has an expiry, which has not passed (R12). -/
def State.fresh (s : State) (expiry : Option Nat) : Bool :=
  match expiry with
  | some e => s.now ≤ e
  | none => false

/-- Whether the due time `t` is present and has been reached. -/
def State.reached (s : State) (t : Option Nat) : Bool :=
  match t with
  | some e => e ≤ s.now
  | none => false

/-- terminal_v while it is present, that is fresh (R2). -/
def State.terminalV (s : State) (str : Str) : Option Nat :=
  if s.fresh (s.reading str).tvExpiry then (s.reading str).terminalV else none

/-- stale_s in ms: 5 s until the first LIMITS image is applied (R13). -/
def State.staleMs (s : State) : Nat :=
  if s.limitsLoaded then s.lim.staleS * 1000 else 5000

/-- The order ceiling of a string, in 10 mV (R56). -/
def State.orderCeiling (s : State) (str : Str) : Nat :=
  s.lim.cellCeilingMv * (s.cfg str).cells / 10

/-! ## Changing the state -/

def State.modCell (s : State) (i : CellIx) (f : Cell → Cell) : State :=
  { s with cells := s.cells.set i.val (f (s.cell i)) }

def State.modStr (s : State) (str : Str) (f : StringRec → StringRec) : State :=
  { s with strings := s.strings.set str.val (f (s.str str)) }

def State.modReading (s : State) (str : Str) (f : Reading → Reading) : State :=
  s.modStr str fun r => { r with reading := f r.reading }

def State.modCharge (s : State) (str : Str) (f : Charge → Charge) : State :=
  s.modStr str fun r => { r with charge := f r.charge }

def State.modControl (s : State) (str : Str) (f : Control → Control) : State :=
  s.modStr str fun r => { r with control := f r.control }

def State.modSlot (s : State) (sl : SlotId) (f : SlotRec → SlotRec) : State :=
  match sl with
  | .A => { s with slotA := f s.slotA }
  | .B => { s with slotB := f s.slotB }

def State.modWater (s : State) (f : Water → Water) : State :=
  { s with water := f s.water }

def State.modSite (s : State) (f : Site → Site) : State :=
  { s with site := f s.site }

def State.modRing (s : State) (f : Ring → Ring) : State :=
  { s with ring := f s.ring }

def State.modMgmt (s : State) (f : Mgmt → Mgmt) : State :=
  { s with mgmt := f s.mgmt }

/-- A scan is started by this event (R113). -/
def State.markScan (s : State) : State :=
  { s with marks := { s.marks with scan := true } }

/-- This event may have made a pending commit applicable (R181). -/
def State.markCommit (s : State) : State :=
  { s with marks := { s.marks with commit := true } }

/-- An operation made for every string in turn, S0 first: the order of R37 and R39 at a site-minute. Where one event hands a
cause or a change to several strings and no rule orders them, the order is a DESIGN CHOICE (log 40). -/
def State.eachStr (s : State) (f : Str → State → State) : State :=
  allStrs.foldl (fun s i => f i s) s

/-- An operation made for both slots, A first. DESIGN CHOICE (log 41): no rule orders the two slots that one event reaches. -/
def State.eachSlot (s : State) (f : SlotId → State → State) : State :=
  allSlots.foldl (fun s i => f i s) s

/-! ## Time -/

/-- A slot record after `dt` ms: run_elapsed counts in RUN and DIRECT (R85, R101), suspended_total in SUSPENDED (R96). -/
def SlotRec.elapse (dt : Nat) (r : SlotRec) : SlotRec :=
  match r.entryState with
  | some .run => { r with runElapsed := r.runElapsed + dt }
  | some .direct => { r with runElapsed := r.runElapsed + dt }
  | some .suspended => { r with suspendedTotal := r.suspendedTotal + dt }
  | _ => r

/-- confirm_left after `dt` ms during which it counted (R66). -/
def Control.elapse (dt : Nat) (c : Control) : Control :=
  { c with confirmLeft := c.confirmLeft.map (· - dt) }

/-- The state after `dt` ms of the time base in which no event was taken: the confirmations count down while sight is
SEEING (R66), the running slots count (R85, R96), every other timer being an absolute time. -/
def State.elapse (s : State) (dt : Nat) : State :=
  let s := { s with now := s.now + dt }
  let s := s.eachSlot fun sl s => s.modSlot sl (SlotRec.elapse dt)
  if s.ring.sight = .seeing then s.eachStr fun i s => s.modControl i (Control.elapse dt) else s

/-- An event begins: its `dt` passes and the event-local marks are clear (log 1, log 5). -/
def State.begin (s : State) (dt : Nat) : State :=
  { s.elapse dt with marks := {} }

/-! ## The reply queue (R166) -/

/-- The capacity of the reply queue (R156). -/
def replyCap : Nat := 8

/-- A notice handed to the reply queue: sent in ENGAGED mode only, lost when the queue is full (R166). -/
def State.notice (s : State) (payload : List Byte) : State :=
  if s.engaged then
    if s.ring.replies.length < replyCap then
      s.modRing fun r => { r with replies := r.replies ++ [⟨s.lim.controllerAddr, r.ownAddress, kindNotice, payload⟩] }
    else s.modRing fun r => { r with noticeLost := true }
  else s

/-! Codes of named values in replies and notices (11.3). -/

def strCode (str : Str) : Byte := BitVec.ofNat 8 str.val

/-- The manual's position number, 1 to 24. -/
def posCode (p : Pos) : Byte := BitVec.ofNat 8 (p.val + 1)

def RoundKind.code : RoundKind → Nat
  | .equalise => 0
  | .water => 1

def Priority.code : Priority → Nat
  | .normal => 0
  | .urgent => 1

def Origin.code : Origin → Nat
  | .auto => 0
  | .request => 1
  | .recipe => 2

def Reason.code : Reason → Nat
  | .dueDays => 1
  | .dueSpread => 2
  | .dueThroughput => 3
  | .dry => 4
  | .level => 5
  | .deficit => 6
  | .request => 7
  | .waterPoint => 8

/-- Reason codes with 0 for absent. -/
def reasonCode : Option Reason → Nat
  | none => 0
  | some r => r.code

def EndReason.code : EndReason → Nat
  | .complete => 1
  | .timeup => 2
  | .allowance => 3
  | .noSource => 4
  | .suspendLimit => 5
  | .discharge => 6
  | .gas => 7
  | .fanFail => 8
  | .blind => 9
  | .trigCancel => 10
  | .trigFall => 11
  | .recall => 12
  | .abortRequest => 13
  | .contactor => 14
  | .restart => 15
  | .reservoir => 16
  | .reslow => 17
  | .nothing => 18

/-- End reason codes with 0 for absent. -/
def endReasonCode : Option EndReason → Nat
  | none => 0
  | some r => r.code

def slotCode : SlotId → Nat
  | .A => 0
  | .B => 1

def Contact.code : Contact → Nat
  | .openPos => 0
  | .bus => 1
  | .eq => 2
  | .moving => 3

/-! The notices of 11.2. -/

/-- ROUND_STARTED: string, kind, slot or 0xFF, reason. -/
def State.noticeStarted (s : State) (str : Str) (k : RoundKind) (sl : Option SlotId) (r : Option Reason) : State :=
  s.notice [0x01, strCode str, BitVec.ofNat 8 k.code,
    match sl with | some sl => BitVec.ofNat 8 (slotCode sl) | none => 0xFF,
    BitVec.ofNat 8 (reasonCode r)]

/-- A stamp as day and minute, 0xFFFF each when absent (11.5). -/
def stampBytes : Option Stamp → List Byte
  | some t => bytesBE 2 t.day ++ bytesBE 2 t.minute
  | none => bytesBE 2 0xFFFF ++ bytesBE 2 0xFFFF

/-- ROUND_ENDED, from the outcome record: string, kind, end reason, amount, start and end stamps. -/
def State.noticeEnded (s : State) (str : Str) (o : OutcomeRecord) : State :=
  s.notice ([0x02, strCode str, BitVec.ofNat 8 o.kind.code, BitVec.ofNat 8 (endReasonCode o.endReason)]
    ++ bytesBE 4 o.amount ++ stampBytes o.start ++ stampBytes o.endStamp)

/-- The alarms of the ALARM notice. -/
inductive Alarm where
  | gas | fanFail | discharge | blind | sightRestored
  deriving DecidableEq, Repr

def Alarm.code : Alarm → Byte
  | .gas => 1
  | .fanFail => 2
  | .discharge => 3
  | .blind => 4
  | .sightRestored => 5

def State.noticeAlarm (s : State) (a : Alarm) : State :=
  s.notice [0x03, a.code]

/-- The events of the CELL notice. -/
inductive CellEvent where
  | doseUnconfirmed | wateringFault | dry
  deriving DecidableEq, Repr

def CellEvent.code : CellEvent → Byte
  | .doseUnconfirmed => 1
  | .wateringFault => 2
  | .dry => 3

def State.noticeCell (s : State) (str : Str) (p : Pos) (e : CellEvent) : State :=
  s.notice [0x04, strCode str, posCode p, e.code]

/-- STRING_FAULT: string, last position or 0xFF. -/
def State.noticeStringFault (s : State) (str : Str) : State :=
  s.notice [0x05, strCode str,
    match (s.reading str).lastPosition with | some c => BitVec.ofNat 8 c.code | none => 0xFF]

/-- QUEUE with DROPPED or NOTHING. -/
def State.noticeDropped (s : State) (str : Str) (k : RoundKind) : State :=
  s.notice [0x06, 1, strCode str, BitVec.ofNat 8 k.code]

def State.noticeNothing (s : State) (str : Str) : State :=
  s.notice [0x06, 2, strCode str, BitVec.ofNat 8 RoundKind.water.code]

/-! ## The order queue (R164, R165) -/

/-- The capacity of the order queue (R156). -/
def orderCap : Nat := 18

/-- Whether the present bindings name the address: the rectifiers of the present slots, the contactors and manifolds of the
present strings (R164). -/
def State.bindingsName (s : State) (a : Byte) : Bool :=
  (allSlots.any fun sl => s.slotPresent sl && s.rectAddr sl == a) ||
    allStrs.any fun i => s.present i &&
      ((s.cfg i).contactorAddr == a || ((s.cfg i).hasManifold && (s.cfg i).manifoldAddr == a))

/-- `orders` without its last frame for which `p` holds; none when there is no such frame. -/
def eraseLast (p : Order → Bool) : List Order → Option (List Order)
  | [] => none
  | o :: os =>
    match eraseLast p os with
    | some os' => some (o :: os')
    | none => if p o then some os else none

/-- The outcome of handing an order to the queue (R164): the queue after it, and whether ORDER_DROP counts. -/
def placeOrder (named : Byte → Bool) (o : Order) (q : List Order) : List Order × Bool :=
  if q.any fun w => w.frame.dst == o.frame.dst then
    (q.map fun w => if w.frame.dst == o.frame.dst then o else w, false)
  else if q.length < orderCap then (q ++ [o], false)
  else match eraseLast (fun w => !named w.frame.dst) q with
    | some q' => (q' ++ [o], true)
    | none => (q, true)

/-- A count of the Ring Port one higher, saturating (R156). -/
def countUp (n : Nat) : Nat :=
  satAdd sat16 n 1

/-- The frame the queue takes for `f`: under the gas stop a RECT ON is taken as RECT OFF with zero limits (R165). -/
def gasStopped (stop : Bool) (f : Frame) : Frame :=
  if stop && f.isRectOn then rectFrame f.dst f.src .off else f

/-- An order is handed to the order queue (R164, R165). -/
def State.handOrder (s : State) (f : Frame) : State :=
  let placed := placeOrder s.bindingsName ⟨gasStopped s.ring.gasStop f, s.ring.orderCount⟩ s.ring.orders
  s.modRing fun r =>
    { r with
      orders := placed.1
      orderCount := r.orderCount + 1
      counts := if placed.2 then { r.counts with orderDrop := countUp r.counts.orderDrop } else r.counts }

/-- A RECT order to a slot's rectifier. -/
def State.handRect (s : State) (sl : SlotId) (o : RectOrder) : State :=
  s.handOrder (rectFrame (s.rectAddr sl) s.ring.ownAddress o)

/-- A CONTACTOR order to a string's contactor. -/
def State.handContactor (s : State) (str : Str) (target : Byte) : State :=
  s.handOrder (contactorFrame (s.cfg str).contactorAddr s.ring.ownAddress target)

/-- gas_stop becomes set: every RECT ON waiting becomes RECT OFF in its place (R165). -/
def State.setGasStop (s : State) : State :=
  s.modRing fun r =>
    { r with
      gasStop := true
      orders := r.orders.map fun o => { o with frame := gasStopped true o.frame } }

/-- gas_stop is cleared: no waiting frame changes (R165). -/
def State.clearGasStop (s : State) : State :=
  s.modRing fun r => { r with gasStop := false }

/-! ## The forward buffer (R163) -/

/-- The capacity of the forward buffer (R156). -/
def forwardCap : Nat := 4

/-- A frame that classification forwards (R163). -/
def State.forwardFrame (s : State) (f : Frame) : State :=
  s.modRing fun r =>
    if r.forward.length < forwardCap then { r with forward := r.forward ++ [f] }
    else { r with counts := { r.counts with overflow := countUp r.counts.overflow } }

/-! ## The Round Queue (R106 to R111) -/

/-- Whether an entry is the one named by a string and a kind (R106). -/
def Entry.named (e : Entry) (str : Str) (k : RoundKind) : Bool :=
  e.string == str && e.kind == k

/-- The entry of a string and kind. -/
def State.entry? (s : State) (str : Str) (k : RoundKind) : Option Entry :=
  s.queue.find? fun e => e.named str k

/-- Whether an entry of the string and kind is queued. -/
def State.queued (s : State) (str : Str) (k : RoundKind) : Bool :=
  (s.entry? str k).isSome

/-- The entry of a string and kind leaves the queue; the entries behind it move up (R107). -/
def State.removeEntry (s : State) (str : Str) (k : RoundKind) : State :=
  { s with queue := s.queue.filter fun e => !e.named str k }

/-- A withdrawal by a slot of its string's WATER entry: a queue change when there is one (R111, R113). -/
def State.withdrawWater (s : State) (str : Str) : State :=
  if s.queued str .water then (s.removeEntry str .water).markScan else s

/-- An entry joins the queue: a NORMAL one at the tail, an URGENT one just behind the last URGENT entry (R107). -/
def joinQueue (e : Entry) (q : List Entry) : List Entry :=
  match e.priority with
  | .normal => q ++ [e]
  | .urgent => q.takeWhile (fun x => x.priority == .urgent) ++ e :: q.dropWhile (fun x => x.priority == .urgent)

/-- RECIPE ranks above REQUEST above AUTO (R109). -/
def Origin.rank : Origin → Nat
  | .auto => 0
  | .request => 1
  | .recipe => 2

/-- The entry after a merge with the enqueue `n` (R109 steps 1 and 2). -/
def Entry.merge (old n : Entry) : Entry :=
  let old := { old with priority := if n.priority = .urgent then .urgent else old.priority }
  if old.origin.rank ≤ n.origin.rank then
    { old with origin := n.origin, recipe := n.recipe, reason := n.reason }
  else old

/-- The queue after an enqueue is merged into the entry of its string and kind (R109). -/
def mergeQueue (old n : Entry) (q : List Entry) : List Entry :=
  if old.priority = .normal ∧ n.priority = .urgent then
    joinQueue (old.merge n) (q.filter fun e => !e.named n.string n.kind)
  else q.map fun e => if e.named n.string n.kind then e.merge n else e

/-- An enqueue: merged into a queued entry of its string and kind, otherwise a new entry; a queue change (R108). -/
def State.enqueue (s : State) (n : Entry) : State :=
  match s.entry? n.string n.kind with
  | some old => { s with queue := mergeQueue old n s.queue }.markScan
  | none => { s with queue := joinQueue n s.queue }.markScan

end Sys2Proof.Machine
end

