-- ==== Sys2Proof/Machine/Library.lean ====
section
/-! DEFINITION. The Recipe Library: compensation, order voltages, stretched duration, what an entry asks of the rectifier, and
the classification of stretches (R51 to R59). -/

namespace Sys2Proof.Machine

/-- The compensation adjustment in mV per cell, trunc(comp_k × (t_ref − T_c) / 100), with T_c clamped to −400…850 (R54). -/
def adjustment (l : Limits) (tc : Int) : Int :=
  ((l.compK : Int) * (l.tRef - clampInt tc (-400) 850)).tdiv 100

/-- The compensated voltage of a phase in mV per cell; the cell ceiling prevails over the phase's own lower bound (R55). -/
def phaseMv (l : Limits) (p : PhaseRec) (tc : Int) : Nat :=
  let cap := min p.vMax l.cellCeilingMv
  if cap < p.vMin then cap
  else (clampInt (p.vSet + adjustment l tc) p.vMin cap).toNat

/-- The compensated float voltage of the water point, in mV per cell (R56). -/
def waterMv (l : Limits) (tc : Int) : Nat :=
  (clampInt (l.floatMv + adjustment l tc) 2000 l.cellCeilingMv).toNat

/-- The per-cell voltage of a DIRECT round: no compensation (R56). -/
def directMv (l : Limits) (v : Nat) : Nat :=
  clampNat v 2000 l.cellCeilingMv

/-- A per-cell voltage scaled to an order voltage in 10 mV: trunc(V × cells / 10) (R55). -/
def orderVolts (mv cells : Nat) : Nat :=
  mv * cells / 10

/-- The effective duration of a phase, in minutes (R58). -/
def effectiveDuration (p : PhaseRec) (c : StringCfg) : Nat :=
  let offset :=
    match p.cls with
    | .boost => c.offsetBoost
    | .hold => c.offsetHold
    | .rest => c.offsetRest
    | .settle => c.offsetSettle
  (clampInt (p.durationMin + offset) 1 1440).toNat

/-- The classification of a stretch (R51). -/
structure Stretch where
  gassing : Bool
  source : Bool
  deriving DecidableEq, Repr

/-- The classification of a PHASE entry, judged on its set voltage (R51). -/
def phaseStretch (l : Limits) (p : PhaseRec) : Stretch :=
  ⟨l.gasMv ≤ p.vSet, 0 < p.iSet⟩

/-- The classification of a DIRECT round (R51). -/
def directStretch (l : Limits) (v i : Nat) : Stretch :=
  ⟨l.gasMv ≤ v, 0 < i⟩

/-- A stretch that neither gasses nor needs source: WAIT, water point, END (R51). -/
def quietStretch : Stretch :=
  ⟨false, false⟩

/-- The entry a slot's index names (R83). Recipe 0 has no entries and is judged before this is asked. -/
def State.slotEntry (s : State) (sl : SlotId) : RecipeEntry :=
  recipeEntry s.images.recipe (s.slot sl).recipe (s.slot sl).index

/-- The stretch the slot's entry is (R51). -/
def State.stretch (s : State) (sl : SlotId) : Stretch :=
  let r := s.slot sl
  if r.recipe = 0 then directStretch s.lim r.directV r.directI
  else match s.slotEntry sl with
    | .phase id => phaseStretch s.lim (s.phase id)
    | _ => quietStretch

/-- The compensation temperature of a slot; it is present from the start of every round (R57). -/
def SlotRec.tcOr (r : SlotRec) (l : Limits) : Int :=
  r.tc.getD l.tRef

/-- The number of cells of the slot's string. -/
def State.slotCells (s : State) (sl : SlotId) : Nat :=
  match (s.slot sl).string with
  | some i => (s.cfg i).cells
  | none => 0

/-- What the slot's running entry asks of the rectifier at the present working limit and compensation temperature (R59). -/
def State.entryOrder (s : State) (sl : SlotId) : RectOrder :=
  let r := s.slot sl
  let l := s.lim
  if r.recipe = 0 then
    if 0 < r.directI then .on (orderVolts (directMv l r.directV) (s.slotCells sl)) r.limit else .off
  else match s.slotEntry sl with
    | .phase id =>
      let p := s.phase id
      if 0 < p.iSet then .on (orderVolts (phaseMv l p (r.tcOr l)) (s.slotCells sl)) r.limit else .off
    | .water => .on (orderVolts (waterMv l (r.tcOr l)) (s.slotCells sl)) l.iFloor
    | _ => .off

/-- Whether a round of `recipe` needs source at its start: its lead phase does (R52). -/
def State.needsSourceAtStart (s : State) (recipe : Nat) : Bool :=
  recipe != 0 &&
    match leadPhase s.images.recipe recipe with
    | some id => (phaseStretch s.lim (s.phase id)).source
    | none => false

end Sys2Proof.Machine
end

