-- ==== Sys2Proof/Machine/Flags.lean ====
section
/-! DEFINITION. The judged conditions of the part: the derived figures of the records (R9, R14 to R17), the activity of the
slots (R103), the fan duty (R149), the lamp (R155), the trigger gate (R120) and the conditions of returns (R67, R68). -/

namespace Sys2Proof.Machine

/-! ## Derived values of the records -/

/-- Whether the cell is fresh: its voltage is (R1, R12). -/
def State.cellFresh (s : State) (c : Cell) : Bool :=
  s.fresh c.vExpiry

/-- The fresh voltages of a string's cells. -/
def State.freshVoltages (s : State) (str : Str) : List Nat :=
  (s.positions str).filterMap fun p =>
    let c := s.cellAt str p
    if s.cellFresh c then c.voltage else none

/-- The temperatures that count in T_s: of fresh cells whose temperature is itself fresh (R15). -/
def State.freshTemps (s : State) (str : Str) : List Int :=
  (s.positions str).filterMap fun p =>
    let c := s.cellAt str p
    if s.cellFresh c && s.fresh c.tExpiry then c.temp else none

/-- fresh_cells (R14). -/
def State.judgeFreshCells (s : State) (str : Str) : Nat :=
  ((s.positions str).filter fun p => s.cellFresh (s.cellAt str p)).length

/-- T_s: the highest temperature that counts, absent when there is none (R15). -/
def State.judgeTs (s : State) (str : Str) : Option Int :=
  (s.freshTemps str).max?

/-- spread: highest minus lowest fresh voltage, absent while fewer than 2 cells are fresh (R16). -/
def State.judgeSpread (s : State) (str : Str) : Option Nat :=
  let vs := s.freshVoltages str
  if vs.length < 2 then none
  else match vs.max?, vs.min? with
    | some hi, some lo => some (hi - lo)
    | _, _ => none

/-- A string is dry while at least one of its cells has level DRY (R9). -/
def State.judgeDry (s : State) (str : Str) : Bool :=
  (s.positions str).any fun p => (s.cellAt str p).level == .dry

/-- The bus voltage: the highest present terminal_v over the present strings in ON_BUS (R17). -/
def State.judgeBusVoltage (s : State) : Option Nat :=
  ((s.presentStrs.filter fun i => s.inState i .onBus).filterMap fun i => s.terminalV i).max?

/-- The site DISCHARGE condition: some present string in ON_BUS is judged discharging (R32). -/
def State.judgeDischarge (s : State) : Bool :=
  s.presentStrs.any fun i => s.inState i .onBus && (s.charge i).discharging

/-- The conditions under which spread_timer runs (R35). -/
def State.spreadRuns (s : State) (str : Str) : Bool :=
  let c := s.cfg str
  s.present str && s.inState str .onBus && c.spreadMv != 0 && s.limitsLoaded && (s.charge str).qBal == 0
    && (match (s.reading str).spread with | some d => c.spreadMv ≤ d | none => false)

/-! ## Returns -/

/-- The bus voltage is absent or below bus_low (R67, R72). -/
def State.busLowOrAbsent (s : State) : Bool :=
  match s.busVoltage with
  | some v => v < s.lim.busLow
  | none => true

/-- The return window of a string holds: both voltages present and no more than return_window apart (R68). -/
def State.windowHolds (s : State) (str : Str) : Bool :=
  match s.terminalV str, s.busVoltage with
  | some v, some b => v ≤ b + s.lim.returnWindow && b ≤ v + s.lim.returnWindow
  | _, _ => false

/-- trunc(float_mv × cells / 10), clamped to the order ceiling (R64, R68). -/
def State.floatVolts (s : State) (str : Str) : Nat :=
  min (orderVolts s.lim.floatMv (s.cfg str).cells) (s.orderCeiling str)

/-- The match voltage of a return (R68). -/
def State.matchVolts (s : State) (str : Str) : Nat :=
  match s.busVoltage with
  | some b => min b (s.orderCeiling str)
  | none => s.floatVolts str

/-- The variant of a return that begins: `discharge` says that the cause is DISCHARGE, or for CLEAR_FAULT that DISCHARGE
stands (R67, R78). -/
def State.variantFor (s : State) (gas discharge : Bool) : Variant :=
  if gas || s.site.gasLatch then .gas
  else if discharge && s.busLowOrAbsent then .fast
  else .normal

/-! ## Activity, fan and lamp -/

/-- The slot is in RUN or DIRECT (R103). -/
def SlotRec.active (r : SlotRec) : Bool :=
  r.entryState == some .run || r.entryState == some .direct

/-- The slot is in RUN, DIRECT or SUSPENDED: the states in which ALLOWANCE and FAN_FAIL end a running round (R98, R99). -/
def SlotRec.inStretch (r : SlotRec) : Bool :=
  r.active || r.entryState == some .suspended

/-- gassing_run (R143). -/
def State.judgeGassingRun (s : State) : Bool :=
  allSlots.any fun sl => (s.slot sl).active && (s.stretch sl).gassing

/-- spending (R143). -/
def State.judgeSpending (s : State) : Bool :=
  allSlots.any fun sl => (s.slot sl).active && (s.stretch sl).source

/-- The commanded fan duty (R149). -/
def State.judgeDuty (s : State) : Nat :=
  if s.site.gasLatch then 15
  else if !s.limitsLoaded then 0
  else if s.site.gassingRun || s.site.runOnEnd.isSome || s.site.fanFail then s.lim.fanGasDuty
  else s.lim.fanBaseDuty

/-- Whether tachometer windows are taken (R145). -/
def State.judgeMeasuring (s : State) : Bool :=
  s.limitsLoaded && s.lim.fanGasDuty ≤ s.site.duty

/-- The lamp pattern (R155). -/
def State.judgeLamp (s : State) : Lamp :=
  if s.site.gasLatch then .fast
  else if (allStrs.any fun i => s.present i && s.inState i .faulted) || s.site.fanFail || s.ring.sight == .blind then .blink
  else if !s.engaged then .slow
  else if 0 < s.boundCount || s.water.state != .idle then .on
  else .off

/-- Half a period of a lamp pattern, in ms; ON and OFF have none (R155). -/
def Lamp.half : Lamp → Nat
  | .fast => 125
  | .blink => 500
  | .slow => 2000
  | _ => 0

/-- Whether the lamp is lit: a pattern starts at the beginning of its lit half (R155). -/
def State.lampLit (s : State) : Bool :=
  match s.site.lamp with
  | .on => true
  | .off => false
  | p => (s.now - s.site.lampStart) / p.half % 2 == 0

/-! ## Admission -/

/-- The trigger gate; `edge` says that the scan was started by a rising edge that is no cancel edge (R120 to R122). -/
def State.gateOpen (s : State) (edge : Bool) : Bool :=
  match s.lim.triggerMode with
  | .off => true
  | .edge => edge
  | .level => s.trigLevel

/-- A commit is pending (R173). -/
def State.commitPending (s : State) : Bool :=
  s.mgmt.staging == .pending

/-- No string is bound and the Watering Unit is IDLE: a commit may be applied (R178, R181). -/
def State.mayApply (s : State) : Bool :=
  s.boundCount == 0 && s.water.state == .idle

end Sys2Proof.Machine
end

