-- ==== Sys2Proof/Machine/Returns.lean ====
section
/-! DEFINITION. String Control's orders, end causes and returns (R66 to R73, R79), the stop of a slot (R100), and the end of
the discharge and bus-voltage judgements that act on them (R17, R32, R33, R35). -/

namespace Sys2Proof.Machine

/-! ## Orders of String Control -/

/-- String Control hands a RECT order for the string's slot and keeps it as rect_order; the refresh interval runs from here
(R60, R79). -/
def State.stringRect (s : State) (str : Str) (o : RectOrder) : State :=
  match (s.control str).slot with
  | some sl =>
    (s.modControl str fun c => { c with rectOrder := some o, lastRectTime := some s.now }).handRect sl o
  | none => s

/-- The CONTACTOR BUS order of a return is handed and the CONFIRM step begins (R68, R69). -/
def State.toConfirm (s : State) (str : Str) : State :=
  (s.handContactor str targetBus).modControl str fun c =>
    { c with
      step := some .confirm
      matchDeadline := none
      confirmLeft := some (s.lim.contactorTimeoutS * 1000) }

/-- The window is judged: in the MATCH step, a window that holds ends it (R68). -/
def State.judgeWindow (s : State) (str : Str) : State :=
  if s.inState str .returning ∧ (s.control str).step = some .matching ∧ s.windowHolds str then s.toConfirm str else s

/-! ## Stopping a slot (R100) -/

/-- The slot record of a slot told to stop (R100). -/
def SlotRec.stopped (r : SlotRec) : SlotRec :=
  { r with
    entryState := none, resumeState := none, pendingOrder := none, reasons := {}, sourceWaitStart := none,
    critStart := none, settleEnd := none, entryEnd := none, runElapsed := 0, limit := 0,
    lastOrder := none, lastOrderTime := none, waterCalled := false }

/-- String Control tells the slot to stop: a water-point entry still queued is withdrawn (R100). -/
def State.stopSlot (s : State) (sl : SlotId) : State :=
  let r := s.slot sl
  let s := s.modSlot sl SlotRec.stopped
  match r.waterCalled, r.string with
  | true, some i => s.withdrawWater i
  | _, _ => s

/-- The string's slot is told to stop, if it holds one. -/
def State.stopSlotOf (s : State) (str : Str) : State :=
  match (s.control str).slot with
  | some sl => s.stopSlot sl
  | none => s

/-! ## Taking an end cause (R67, R71 to R73) -/

/-- The site day and minute `m` minutes after `t`; day 65535 is followed by day 0 (R186, log 18). -/
def Stamp.plusMinutes (t : Stamp) (m : Nat) : Stamp :=
  ⟨(t.day + (t.minute + m) / 1440) % 65536, (t.minute + m) % 1440⟩

/-- The end causes that set a holdoff (R67). -/
def EndReason.setsHoldoff : EndReason → Bool
  | .trigCancel | .abortRequest | .recall => true
  | _ => false

/-- The round ends with `cause`: end_reason and end_stamp are set (R67, R74, R75). -/
def State.setEnd (s : State) (str : Str) (cause : EndReason) : State :=
  s.modControl str fun c => { c with endReason := some cause, endStamp := some s.mgmt.clock }

/-- The holdoff of TRIG_CANCEL, ABORT_REQUEST and RECALL; none with holdoff_min of 0 (R67). -/
def State.setHoldoff (s : State) (str : Str) (cause : EndReason) : State :=
  if cause.setsHoldoff ∧ s.lim.holdoffMin ≠ 0 then
    s.modControl str fun c => { c with holdoffUntil := some (s.mgmt.clock.plusMinutes s.lim.holdoffMin) }
  else s

/-- RECT OFF and CONTACTOR BUS together, straight to the CONFIRM step (R71 to R73). -/
def State.offAndConfirm (s : State) (str : Str) : State :=
  (s.stringRect str .off).toConfirm str

/-- A return begins in the given variant (R67, R68, R71 to R73); `fromCalled` says that the string was CALLED. -/
def State.startReturn (s : State) (str : Str) (v : Variant) (fromCalled : Bool) : State :=
  let s := s.modControl str fun c =>
    { c with state := .returning, variant := some v, step := none, matchDeadline := none, confirmLeft := none }
  let s := s.markScan
  if v ≠ .normal ∨ s.ring.sight = .blind then s.offAndConfirm str
  else
    let s := s.stringRect str (.on (s.matchVolts str) s.lim.iFloor)
    if fromCalled then s.toConfirm str
    else
      (s.modControl str fun c =>
        { c with step := some .matching, matchDeadline := some (s.now + s.lim.returnWaitMin * 60000) }).judgeWindow str

/-- A return in flight takes the variant `v`: RECT OFF at once, and from the MATCH step CONTACTOR BUS too (R71, R72). -/
def State.changeVariant (s : State) (str : Str) (v : Variant) : State :=
  let s := s.modControl str fun c => { c with variant := some v }
  if (s.control str).step = some .matching then s.offAndConfirm str else s.stringRect str .off

/-- A COMPLETE equalise resets days_since_eq, D_dis and spread_timer (R38). -/
def State.completeEqualise (s : State) (str : Str) : State :=
  s.modCharge str fun c => { c with daysSinceEq := 0, dDis := 0, spreadTimer := none }

/-- The round of a string in CALLED or EQUALISING ends, and its return begins (R67). -/
def State.endRound (s : State) (str : Str) (cause : EndReason) : State :=
  let fromCalled := s.inState str .called
  let v := s.variantFor (cause == .gas) (cause == .discharge)
  let s := (s.setEnd str cause).stopSlotOf str
  let s := s.setHoldoff str cause
  let s := if cause = .complete then s.completeEqualise str else s
  s.startReturn str v fromCalled

/-- An end cause that finds the string RETURNING: only GAS, DISCHARGE and BLIND act (R67, R71 to R73). -/
def State.causeInReturn (s : State) (str : Str) (cause : EndReason) : State :=
  let c := s.control str
  match cause with
  | .gas =>
    if c.variant = some .normal then s.changeVariant str .gas
    else if c.rectOrder = some .off then s else s.stringRect str .off
  | .discharge => if c.variant = some .normal ∧ s.busLowOrAbsent then s.changeVariant str .fast else s
  | .blind => if c.variant = some .normal ∧ c.step = some .matching then s.offAndConfirm str else s
  | _ => s

/-- String Control takes an end cause for a string according to the string's state (R67). -/
def State.endCause (s : State) (str : Str) (cause : EndReason) : State :=
  match (s.control str).state with
  | .called => s.endRound str cause
  | .equalising => s.endRound str cause
  | .returning => s.causeInReturn str cause
  | _ => s

/-! ## The bus voltage (R17) and what its changes do (R68, R72) -/

/-- The voltage limit of rect_order; a RECT OFF carries 0 (R59). -/
def rectVolts : Option RectOrder → Nat
  | some (.on v _) => v
  | _ => 0

/-- A return in the MATCH step takes a change of the bus voltage: FAST when DISCHARGE stands and the bus is low or absent
(R72); otherwise a present bus voltage moves the match voltage, and the window is judged (R68). DESIGN CHOICE (log 42): the
recomputed RECT order is handed before the window is judged; R68 does not order the two. -/
def State.matchTakesBus (s : State) (str : Str) : State :=
  if s.inState str .returning ∧ (s.control str).step = some .matching then
    if s.discharge ∧ (s.control str).variant = some .normal ∧ s.busLowOrAbsent then s.changeVariant str .fast
    else
      let s :=
        if s.busVoltage.isSome ∧ s.matchVolts str ≠ rectVolts (s.control str).rectOrder then
          s.stringRect str (.on (s.matchVolts str) s.lim.iFloor)
        else s
      s.judgeWindow str
  else s

/-- A change of the bus voltage from `before` is handed to String Control (R17, R18). DESIGN CHOICE (log 40): the returns in
MATCH take it from S0 to S7. -/
def State.handBus (s : State) (before : Option Nat) : State :=
  if s.busVoltage = before then s else s.eachStr fun i s => s.matchTakesBus i

/-- The bus voltage is recomputed, and a change is handed to String Control (R17). -/
def State.recomputeBus (s : State) : State :=
  { s with busVoltage := s.judgeBusVoltage }.handBus s.busVoltage

/-! ## DUE_SPREAD and DISCHARGE (R32, R33, R35) -/

/-- The DUE_SPREAD period of a string is judged again (R35). -/
def State.judgeSpreadTimer (s : State) (str : Str) : State :=
  if s.spreadRuns str then
    s.modCharge str fun c => { c with spreadTimer := some (c.spreadTimer.getD s.now) }
  else s.modCharge str fun c => { c with spreadTimer := none }

/-- DISCHARGE becomes true: the holdoff ends, String Control takes the cause for every string, an ALARM notice (R32).
DESIGN CHOICE (log 40): the strings take it from S0 to S7. -/
def State.dischargeBegins (s : State) : State :=
  ({ s with discharge := true, holdoffEnd := none }.eachStr fun i s => s.endCause i .discharge).noticeAlarm .discharge

/-- DISCHARGE becomes false: the holdoff starts, or with discharge_holdoff_min of 0 the clearing is handed on (R33). -/
def State.dischargeEnds (s : State) : State :=
  if s.lim.dischargeHoldoffMin = 0 then { s with discharge := false }.markScan
  else { s with discharge := false, holdoffEnd := some (s.now + s.lim.dischargeHoldoffMin * 60000) }

/-- The DISCHARGE condition is judged again (R32). -/
def State.rejudgeDischarge (s : State) : State :=
  if s.judgeDischarge = s.discharge then s
  else if s.judgeDischarge then s.dischargeBegins else s.dischargeEnds

/-! ## Changes of string state (R62) -/

/-- A string into or out of ON_BUS: full detection, bus voltage, DUE_SPREAD and DISCHARGE are judged again (R17, R30, R32,
R35, R62). DESIGN CHOICE (log 35): the bus voltage is taken first and DISCHARGE last; R62 hands the change to its receivers
together and gives them no order. -/
def State.onBusChanged (s : State) (str : Str) : State :=
  let s := if s.inState str .onBus then s else s.modCharge str fun c => { c with fullTimer := none }
  (s.recomputeBus.judgeSpreadTimer str).rejudgeDischarge

/-- A string takes a new state and the change is handed on (R62): a scan starts, and a change into or out of ON_BUS reaches
the Record Store and the Charge Account Unit. `before` is the state it leaves. -/
def State.stateChanged (s : State) (str : Str) (before : StringState) : State :=
  let s := s.markScan
  if (before == .onBus) = s.inState str .onBus then s else s.onBusChanged str

/-! ## Freeing a slot, faults (R70, R74 to R76) -/

/-- The outcome record of the round that ends at the freeing of a slot (R70 step 1). -/
def eqOutcome (c : Control) (r : SlotRec) : OutcomeRecord where
  kind := .equalise
  recipe := r.recipe
  reason := r.reason
  start := c.startStamp
  endReason := c.endReason
  endStamp := c.endStamp
  amount := c.chargeIn
  cut := r.cut
  entries := r.entriesCompleted

/-- The string's slot is freed: the outcome is stored, the binding cleared and ROUND_ENDED handed (R70 steps 1 to 3); the
freeing is handed to the Scheduler and the Management Agent (R62). -/
def State.freeSlot (s : State) (str : Str) : State :=
  match (s.control str).slot with
  | none => s
  | some sl =>
    let o := eqOutcome (s.control str) (s.slot sl)
    let s := s.modControl str fun c =>
      { c with
        lastEqOutcome := some o, slot := none, variant := none, step := none, matchDeadline := none,
        confirmLeft := none, rectOrder := none, lastRectTime := none, endReason := none }
    let s := s.modSlot sl fun _ => {}
    ((s.noticeEnded str o).markScan).markCommit

/-- The held order is released: handed to the order queue as it was received (R76). -/
def State.releaseHeld (s : State) (str : Str) : State :=
  match (s.control str).heldOrder with
  | some f => (s.modControl str fun c => { c with heldOrder := none }).handOrder f
  | none => s

/-- A string with a slot comes to ON_BUS: its slot is freed, the change handed on, the held order released (R69, R70, R75,
R78). -/
def State.toBusAndFree (s : State) (str : Str) : State :=
  let before := (s.control str).state
  let s := s.modControl str fun c => { c with state := .onBus }
  ((s.freeSlot str).stateChanged str before).releaseHeld str

/-- A return completes: RECT OFF, ON_BUS, the slot freed (R69). -/
def State.completeReturn (s : State) (str : Str) : State :=
  (s.stringRect str .off).toBusAndFree str

/-- A string enters FAULTED (R74). -/
def State.enterFaulted (s : State) (str : Str) : State :=
  let before := (s.control str).state
  let s := s.stringRect str .off
  let s := if before = .called ∨ before = .equalising then (s.setEnd str .contactor).stopSlotOf str else s
  let s := s.modControl str fun c =>
    { c with
      state := .faulted, heldOrder := none, variant := none, step := none, matchDeadline := none, confirmLeft := none }
  (s.noticeStringFault str).stateChanged str before

end Sys2Proof.Machine
end

