-- ==== Sys2Proof/Machine/SiteLine.lean ====
section
/-! DEFINITION. The Site Line Unit's own operations: the line filters (R144), the generator sequence (R146), the fan run-on and
duty with tachometer measurement (R145, R149, R150), and the lamp (R155). -/

namespace Sys2Proof.Machine

/-- The filter of a line. -/
def Site.filter (t : Site) : Line → Filter
  | .src => t.src
  | .gas => t.gas
  | .reslow => t.reslow
  | .trig => t.trig

def Site.withFilter (t : Site) (l : Line) (f : Filter) : Site :=
  match l with
  | .src => { t with src := f }
  | .gas => { t with gas := f }
  | .reslow => { t with reslow := f }
  | .trig => { t with trig := f }

/-- The stability period of a line in ms (R144). -/
def Line.period : Line → Nat
  | .trig => 5
  | _ => 20

/-- A change of the raw line starts a stability period, or abandons it when the line returns to its filtered level; a level
that is no change does nothing (R144). -/
def Filter.rawChange (f : Filter) (period now : Nat) (high : Bool) : Filter :=
  if high = f.raw then f
  else if high = f.level then { f with raw := high, stableEnd := none }
  else { f with raw := high, stableEnd := some (now + period) }

/-- The filter of a line at the end of a cold reset: the filtered level is low, and a line that is high is taken as rising
once it has held for its period (R144). -/
def Filter.afterReset (f : Filter) (period now : Nat) : Filter :=
  { raw := f.raw, level := false, stableEnd := if f.raw then some (now + period) else none }

/-- The stability period of the line has ended with the raw line at `high`, the other level than the filtered one (R144). -/
def State.settled (s : State) (l : Line) (high : Bool) : Bool :=
  let f := s.site.filter l
  s.reached f.stableEnd && f.raw == high && f.level == !high

/-- The filtered level takes the raw level (R144). -/
def State.takeLevel (s : State) (l : Line) : State :=
  s.modSite fun t =>
    let f := t.filter l
    t.withFilter l { f with level := f.raw, stableEnd := none }

/-- The generator sequence enters PULSE: GENREQ rises for the width taken at the request × 2 s (R146). -/
def State.genPulse (s : State) : State :=
  s.modSite fun t =>
    { t with genState := .pulse, genreq := true, genEnd := some (s.now + t.genWidth * 2000) }

/-- The generator sequence returns to IDLE with GENREQ low (R146). -/
def State.genIdle (s : State) : State :=
  s.modSite fun t => { t with genState := .idle, genreq := false, genEnd := none }

/-- A slot asks for the generator: in IDLE a sequence starts with the genreq_delay and genreq_width of now, in DELAY or, with
genreq_delay of 0, in PULSE; otherwise the request joins and changes nothing (R146). -/
def State.genRequest (s : State) : State :=
  if s.site.genState = .idle then
    let s := s.modSite fun t => { t with genWidth := s.lim.genreqWidth }
    if s.lim.genreqDelay = 0 then s.genPulse
    else s.modSite fun t => { t with genState := .delay, genEnd := some (s.now + s.lim.genreqDelay * 16000) }
  else s

/-- gassing_run and spending follow the activity of the slots; the run-on starts when gassing ends and is dropped when it
begins again (R143, R150); spend_mark is set while charge is drawn from source (R147). -/
def State.followActivity (s : State) : State :=
  let gassing := s.judgeGassingRun
  let spending := s.judgeSpending
  s.modSite fun t =>
    { t with
      gassingRun := gassing
      spending := spending
      runOnEnd :=
        if gassing then none
        else if t.gassingRun ∧ s.lim.runOnMin ≠ 0 then some (s.now + s.lim.runOnMin * 60000)
        else t.runOnEnd
      spendMark := t.spendMark || (t.src.level && spending) }

/-- The fan is commanded at the duty of R149. -/
def State.followDuty (s : State) : State :=
  s.modSite fun t => { t with duty := s.judgeDuty }

/-- Tachometer measurement follows the duty: a window begins when it starts; when it stops the window is discarded and the
window counts become 0 (R145). -/
def State.followMeasuring (s : State) : State :=
  let m := s.judgeMeasuring
  s.modSite fun t =>
    { t with
      measuring := m
      window := if m then (if t.measuring && t.window.isSome then t.window else some ⟨s.now, 0⟩) else none
      lowWindows := if m then t.lowWindows else 0
      okWindows := if m then t.okWindows else 0 }

/-- The lamp shows the pattern of R155; a change starts the new pattern now. -/
def State.followLamp (s : State) : State :=
  s.modSite fun t =>
    { t with lamp := s.judgeLamp, lampStart := if s.judgeLamp = t.lamp then t.lampStart else s.now }

/-- The Site Line Unit judges its outputs, wherever in an event a change of their inputs is handed to it (R103, R145, R149, R150,
R155; log 5). -/
def State.followSite (s : State) : State :=
  s.followActivity.followDuty.followMeasuring.followLamp

end Sys2Proof.Machine
end

