-- ==== Sys2Proof/Machine/Slot.lean ====
section
/-! DEFINITION. The slot sequencers: orders (R90, R91), suspension (R94 to R97), end criteria (R92), back-off (R93), the
starting and stepping of entries (R83 to R89) and DIRECT rounds (R101, R102). -/

namespace Sys2Proof.Machine

/-- The slot hands an order if it differs from last_order (R90). -/
def State.slotOrder (s : State) (sl : SlotId) (o : RectOrder) : State :=
  if (s.slot sl).lastOrder = some o then s
  else (s.modSlot sl fun r => { r with lastOrder := some o, lastOrderTime := some s.now }).handRect sl o

/-- The slot ends its round with `cause`, which String Control takes (R67, R103). -/
def State.slotEnds (s : State) (sl : SlotId) (cause : EndReason) : State :=
  match (s.slot sl).string with
  | some i => s.endCause i cause
  | none => s

/-! ## Suspension reasons (R94, R97) -/

/-- fresh_cells is below cells − stale_allow (R94). -/
def State.stale (s : State) (sl : SlotId) : Bool :=
  match (s.slot sl).string with
  | some i => (s.reading i).freshCells + s.lim.staleAllow < (s.cfg i).cells
  | none => false

/-- HOT of a gassing stretch: set at hot_limit, cleared 2 °C below it, otherwise unchanged (R94). -/
def hotReason (hotLimit : Int) (tc : Option Int) (old : Bool) : Bool :=
  match tc with
  | some t => if hotLimit ≤ t then true else if t ≤ hotLimit - 20 then false else old
  | none => old

/-- The suspension reasons as their inputs stand (R94). -/
def State.judgedReasons (s : State) (sl : SlotId) : Reasons where
  source := (s.stretch sl).source && !s.site.src.level
  stale := s.stale sl
  hot := (s.stretch sl).gassing && hotReason s.lim.hotLimit (s.slot sl).tc (s.slot sl).reasons.hot
  blind := s.ring.sight == .warn

/-- Whether some reason is in force. -/
def Reasons.inForce (r : Reasons) : Bool :=
  r.source || r.stale || r.hot || r.blind

/-- The reasons are judged. SOURCE entering starts source_wait_start and asks for the generator; SOURCE leaving clears it
(R94, R97). -/
def State.judgeReasons (s : State) (sl : SlotId) : State :=
  let old := (s.slot sl).reasons
  let new := s.judgedReasons sl
  let s := s.modSlot sl fun r =>
    { r with
      reasons := new
      sourceWaitStart := if new.source then (if old.source then r.sourceWaitStart else Option.some s.now) else none }
  if new.source && !old.source then s.genRequest else s

/-! ## End criteria (R92) -/

/-- Whether the condition of the phase criterion holds (R53, R92). -/
def State.criterionHolds (s : State) (sl : SlotId) (p : PhaseRec) : Bool :=
  match (s.slot sl).string with
  | none => false
  | some i =>
    match p.criterion with
    | .none => false
    | .taper => (s.charge i).current ≤ p.critValue
    | .spread => match (s.reading i).spread with | some d => d ≤ p.critValue | none => false

/-- The criterion is judged in RUN: crit_start begins at the present run_elapsed, stands, or is cleared (R92). -/
def State.judgeCriterion (s : State) (sl : SlotId) : State :=
  if (s.slot sl).entryState = some .run ∧ (s.slot sl).recipe ≠ 0 then
    match s.slotEntry sl with
    | .phase id =>
      if s.criterionHolds sl (s.phase id) then
        s.modSlot sl fun r => { r with critStart := some (r.critStart.getD r.runElapsed) }
      else s.modSlot sl fun r => { r with critStart := none }
    | _ => s
  else s

/-! ## Suspending and resuming (R95, R96) -/

/-- suspend_max_min in ms (R96). -/
def State.suspendMs (s : State) : Nat :=
  s.lim.suspendMaxMin * 60000

/-- The slot suspends: `order` is held and RECT OFF handed; a slot whose suspended time already stands at the limit ends its
round at this start of a suspension (R95, R96). -/
def State.suspend (s : State) (sl : SlotId) (back : ResumeState) (order : RectOrder) : State :=
  let s := s.modSlot sl fun r =>
    { r with entryState := some .suspended, resumeState := some back, pendingOrder := some order }
  let s := s.slotOrder sl .off
  if s.suspendMs ≤ (s.slot sl).suspendedTotal then s.slotEnds sl .suspendLimit else s

/-- The entry state a suspended slot returns to. -/
def ResumeState.entry : ResumeState → EntryState
  | .run => .run
  | .direct => .direct

/-- The slot resumes: the order, recomputed, is handed, in RUN the criterion is judged (R95), and the Site Line Unit takes the
activity (R103): what the same event does to the slot afterwards finds it resumed (R150, R158; log 5). resume_state becomes absent
(DESIGN CHOICE, log 43). -/
def State.resume (s : State) (sl : SlotId) : State :=
  match (s.slot sl).resumeState with
  | none => s
  | some back =>
    let s := s.modSlot sl fun r =>
      { r with entryState := some back.entry, resumeState := none, pendingOrder := none }
    ((s.slotOrder sl (s.entryOrder sl)).judgeCriterion sl).followSite

/-- The slot acts on its reasons: in RUN and DIRECT it suspends when some are in force, in SUSPENDED it resumes when none is;
in WAIT and WATER_WAIT they are recorded only (R94, R95). -/
def State.actOnReasons (s : State) (sl : SlotId) : State :=
  match (s.slot sl).entryState with
  | some .run => if (s.slot sl).reasons.inForce then s.suspend sl .run (s.entryOrder sl) else s
  | some .direct => if (s.slot sl).reasons.inForce then s.suspend sl .direct (s.entryOrder sl) else s
  | some .suspended => if (s.slot sl).reasons.inForce then s else s.resume sl
  | _ => s

/-- An input of the reasons has changed: a running slot judges them and acts (R94, R95). -/
def State.reviewReasons (s : State) (sl : SlotId) : State :=
  if (s.slot sl).entryState.isSome then (s.judgeReasons sl).actOnReasons sl else s

/-! ## Starting entries (R83 to R89, R101) -/

/-- The guards of a stretch: ALLOWANCE, then FAN_FAIL. R84 step 4 orders them so at the start of a PHASE entry. DESIGN CHOICE
(log 46): a DIRECT request, for which R102 names both ends without an order, takes them in the same order (R98, R99), and before
any suspension that the request starts. -/
def State.stretchBarred (s : State) (sl : SlotId) : Option EndReason :=
  if (s.stretch sl).source ∧ s.site.allowance = 0 then some .allowance
  else if (s.stretch sl).gassing ∧ s.site.fanFail then some .fanFail
  else none

/-- A stretch begins in RUN or DIRECT, or SUSPENDED when reasons are in force (R84 steps 3 to 6, R101). -/
def State.beginStretch (s : State) (sl : SlotId) (back : ResumeState) : State :=
  let s := s.judgeReasons sl
  match s.stretchBarred sl with
  | some cause => s.slotEnds sl cause
  | none =>
    if (s.slot sl).reasons.inForce then s.suspend sl back (s.entryOrder sl)
    else
      let s := s.modSlot sl fun r => { r with entryState := some back.entry }
      (s.slotOrder sl (s.entryOrder sl)).judgeCriterion sl

/-- A PHASE entry starts (R84). -/
def State.startPhase (s : State) (sl : SlotId) (id : Nat) : State :=
  let p := s.phase id
  let d := match (s.slot sl).string with
    | some i => effectiveDuration p (s.cfg i)
    | none => 0
  (s.modSlot sl fun r => { r with dEff := d, limit := p.iSet }).beginStretch sl .run

/-- A WAIT entry starts (R86). -/
def State.startWait (s : State) (sl : SlotId) (minutes : Nat) : State :=
  let s := s.judgeReasons sl
  let s := s.modSlot sl fun r => { r with entryState := some .wait, entryEnd := some (s.now + minutes * 60000) }
  s.slotOrder sl .off

/-- A WATER entry of a string with a manifold starts: the water point is called unless the string is being watered already,
and the slot waits at the compensated float order (R87). -/
def State.startWater (s : State) (sl : SlotId) (str : Str) : State :=
  let s := s.judgeReasons sl
  let s :=
    if s.watering str then s
    else s.enqueue ⟨str, .water, 0, .waterPoint, .urgent, .recipe, s.mgmt.clock⟩
  let s := s.modSlot sl fun r =>
    { r with
      entryState := some .waterWait
      entryEnd := some (s.now + s.lim.waterWaitMaxMin * 60000)
      limit := s.lim.iFloor
      waterCalled := true }
  s.slotOrder sl (s.entryOrder sl)

/-- A DIRECT round starts with direct_v = float_mv and direct_i = 0 (R101). -/
def State.startDirect (s : State) (sl : SlotId) : State :=
  (s.modSlot sl fun r => { r with directV := s.lim.floatMv, directI := 0, limit := 0 }).beginStretch sl .direct

/-- What starting any entry clears (R83). -/
def SlotRec.entryReset (r : SlotRec) : SlotRec :=
  { r with
    entriesCompleted := r.index, runElapsed := 0, critStart := none, settleEnd := none, entryEnd := none,
    entryState := none, resumeState := none, pendingOrder := none }

/-- The slot starts the entry its index names; a water point without a manifold ends as it starts and the next entry starts
in the same event (R83, R87). `fuel` bounds those steps: index 12 ends the round. -/
def State.startEntry (s : State) (sl : SlotId) : Nat → State
  | 0 => s
  | fuel + 1 =>
    let s := s.modSlot sl SlotRec.entryReset
    if (s.slot sl).recipe = 0 then s.startDirect sl
    else match s.slotEntry sl with
      | .phase id => s.startPhase sl id
      | .wait m => s.startWait sl m
      | .finish => s.slotEnds sl .complete
      | .water =>
        match (s.slot sl).string with
        | some i =>
          if (s.cfg i).hasManifold then s.startWater sl i
          else (s.modSlot sl fun r => { r with index := r.index + 1 }).startEntry sl fuel
        | none => s

/-- The slot starts the entry its index names, and the Site Line Unit takes the activity that the start leaves (R83, R103): what
the same event does to the slot afterwards finds the entry begun (R150; log 5). -/
def State.startAt (s : State) (sl : SlotId) : State :=
  (s.startEntry sl 13).followSite

/-- The running entry ends and the slot starts the entry at index + 1 (R83). -/
def State.nextEntry (s : State) (sl : SlotId) : State :=
  (s.modSlot sl fun r => { r with index := r.index + 1 }).startAt sl

/-! ## Back-off (R93) -/

/-- Whether an order is RECT ON. -/
def RectOrder.isOn : RectOrder → Bool
  | .on _ _ => true
  | .off => false

/-- The working limit after a back-off step; none for CUT (R93). -/
def backOffLimit (floor l : Nat) : Option Nat :=
  if l ≤ floor then none
  else if l * 3 / 4 < floor then some floor
  else some (l * 3 / 4)

/-- A DIRECT round takes CUT: direct_i and L become 0 and the round goes on with RECT OFF (R102). -/
def State.cutDirect (s : State) (sl : SlotId) : State :=
  ((s.modSlot sl fun r => { r with directI := 0, limit := 0, cut := true }).slotOrder sl .off).reviewReasons sl

/-- A back-off step: L falls and the order is handed with it, or CUT (R93). -/
def State.backOffStep (s : State) (sl : SlotId) : State :=
  match backOffLimit s.lim.iFloor (s.slot sl).limit with
  | some l =>
    let s := s.modSlot sl fun r => { r with limit := l }
    (s.slotOrder sl (s.entryOrder sl)).modSlot sl fun r =>
      { r with settleEnd := some (s.now + s.lim.backoffSettleS * 1000) }
  | none =>
    if (s.slot sl).entryState = some .direct then s.cutDirect sl
    else (s.modSlot sl fun r => { r with cut := true }).nextEntry sl

/-- A measured cell voltage of the slot's string arrives (R93). -/
def State.cellVoltageArrives (s : State) (sl : SlotId) (mv : Nat) : State :=
  let r := s.slot sl
  if r.active ∧ (r.lastOrder.map RectOrder.isOn) = some true ∧ s.lim.cellCutMv ≤ mv
      ∧ (r.settleEnd = none ∨ s.reached r.settleEnd) then
    s.backOffStep sl
  else s

/-! ## Temperature, DIRECT requests and the water wait -/

/-- The string's T_s is handed to the bound slot: a present value becomes T_c, the running entry's order is recomputed, and
HOT is judged (R57, R91, R94). An absent T_s leaves all as it stood. -/
def State.temperatureArrives (s : State) (sl : SlotId) (ts : Option Int) : State :=
  match ts with
  | none => s
  | some t =>
    let s := s.modSlot sl fun r => { r with tc := some t }
    let s := match (s.slot sl).entryState with
      | some .run => s.slotOrder sl (s.entryOrder sl)
      | some .waterWait => s.slotOrder sl (s.entryOrder sl)
      | some .suspended => s.modSlot sl fun r => { r with pendingOrder := some (s.entryOrder sl) }
      | _ => s
    s.reviewReasons sl

/-- A DIRECT request taken for the slot's string (R102). The classification is handed to the Site Line Unit before the round can
end with ALLOWANCE or FAN_FAIL (R103; log 5). DESIGN CHOICE (log 46): where the request makes the stretch meet both R98 and R99,
the round ends with ALLOWANCE; and where it also puts SOURCE or HOT in force with suspended_total at its limit, which at the start
of that suspension would end the round with SUSPEND_LIMIT (R96), the round ends with ALLOWANCE or FAN_FAIL and no suspension
starts. -/
def State.directRequest (s : State) (sl : SlotId) (v i : Nat) : State :=
  let s := (s.modSlot sl fun r =>
    { r with directV := clampNat v 2000 s.lim.cellCeilingMv, directI := min i 3000, limit := min i 3000 }).followSite
  let s := s.judgeReasons sl
  match s.stretchBarred sl with
  | some cause => s.slotEnds sl cause
  | none =>
    match (s.slot sl).entryState with
    | some .direct =>
      if (s.slot sl).reasons.inForce then s.suspend sl .direct (s.entryOrder sl) else s.slotOrder sl (s.entryOrder sl)
    | some .suspended =>
      if (s.slot sl).reasons.inForce then s.modSlot sl fun r => { r with pendingOrder := some (s.entryOrder sl) }
      else s.resume sl
    | _ => s

/-- The water wait of a slot ends and the next entry starts (R88). -/
def State.endWaterWait (s : State) (sl : SlotId) : State :=
  if (s.slot sl).entryState = some .waterWait then
    (s.modSlot sl fun r => { r with waterCalled := false }).nextEntry sl
  else s

/-- The end of a watering round, or the cancellation of its entry, is reported to the slot of the string (R88, R111). -/
def State.reportToSlot (s : State) (str : Str) : State :=
  match (s.control str).slot with
  | some sl => s.endWaterWait sl
  | none => s

/-- String Control tells the slot of a string that has become EQUALISING to start at entry 0 (R65, R83). -/
def State.startRound (s : State) (sl : SlotId) : State :=
  (s.modSlot sl fun r => { r with index := 0 }).startAt sl

end Sys2Proof.Machine
end

