-- ==== Sys2Proof/Machine/Accounts.lean ====
section
/-! DEFINITION. The Charge Account Unit: integration (R22 to R27), full detection (R30), the discharge judgement (R31), the due
reasons (R34 to R37) and water due (R39). -/

namespace Sys2Proof.Machine

/-! ## Integration (R22 to R27) -/

/-- gap_ms: 2,000 ms until the first LIMITS image is applied (R22). -/
def State.gapMs (s : State) : Nat :=
  if s.limitsLoaded then s.lim.gapMs else 2000

/-- The time since the previous accepted reading, before the cut: 0 when t_prev is absent (R22). -/
def Charge.sincePrev (c : Charge) (now : Nat) : Nat :=
  match c.tPrev with
  | some t => now - t
  | none => 0

/-- Whether R22 cuts the reading's interval. -/
def Charge.cutBy (c : Charge) (gapMs now : Nat) : Bool :=
  gapMs < c.sincePrev now

/-- The charge of a reading in 100 µC, reduced for efficiency when positive (R23). -/
def readingCharge (eta : Nat) (i : Int) (dt : Nat) : Int :=
  let c := i * dt
  if 0 < c then (c * eta).tdiv 100 else c

/-- The whole coulombs a charge carries the fine account across: trunc((F + c) / 10,000) (R23). -/
def wholeCoulombs (fine c : Int) : Int :=
  (fine + c).tdiv 10000

/-- What one integration gives: the account after it, the whole coulombs added, and the whole milligrams of water accrued. -/
structure Integrated where
  charge : Charge
  whole : Int
  mg : Nat
  deriving DecidableEq, Repr

/-- The integration of an accepted reading of current `i` at time `now` (R22 to R27). -/
def Charge.integrate (c : Charge) (capacityC eta gapMs now : Nat) (i : Int) : Integrated :=
  let dt := min (c.sincePrev now) gapMs
  let q := readingCharge eta i dt
  let whole := wholeCoulombs c.fine q
  let fine := c.fine + q - whole * 10000
  let bal := c.qBal + whole
  let surplus := bal.toNat
  let water := if c.assumed then c.wAcc else c.wAcc + surplus * 933
  let mg := if c.assumed then 0 else water / 10000
  { whole := whole
    mg := mg
    charge :=
      { c with
        current := i
        tPrev := some now
        fine := fine
        qBal := if 0 < bal then 0 else if bal < -(capacityC : Int) then -(capacityC : Int) else bal
        floor := c.floor || decide (bal < -(capacityC : Int))
        gap := c.gap || c.cutBy gapMs now
        dDis := satAdd sat32 c.dDis (-whole).toNat
        oTotal := satAdd sat32 c.oTotal surplus
        wAcc := water - mg * 10000 } }

/-- deficit_mg after an accrual (R8, R26). -/
def Cell.accrue (mg : Nat) (c : Cell) : Cell :=
  { c with deficit := min 999999 (c.deficit + mg) }

/-- A water accrual reaches every position 1…cells of the string (R26). -/
def State.accrueWater (s : State) (str : Str) (mg : Nat) : State :=
  if mg = 0 then s
  else (s.positions str).foldl (fun s p => s.modCell (cellIx str p) (Cell.accrue mg)) s

/-! ## Full detection and the discharge judgement (R30, R31) -/

/-- Full detection on an account in ON_BUS; `cut` says that R22 cut the reading's interval (R30). -/
def Charge.detectFull (l : Limits) (now : Nat) (cut : Bool) (c : Charge) : Charge :=
  if c.current < 0 ∨ (l.fullCurrent : Int) < c.current then { c with fullTimer := none }
  else if cut then { c with fullTimer := some now }
  else match c.fullTimer with
    | none => { c with fullTimer := some now }
    | some t =>
      if t + l.fullHoldMin * 60000 ≤ now then
        { c with qBal := 0, fine := 0, assumed := false, floor := false, gap := false, fullTimer := some now }
      else c

/-- The discharge judgement (R31). -/
def Charge.judgeDischarging (l : Limits) (now : Nat) (cut : Bool) (c : Charge) : Charge :=
  if -(l.dischargeCurrent : Int) < c.current then { c with disStart := none, discharging := false }
  else match c.disStart with
    | none => { c with disStart := some now }
    | some t =>
      if cut && !c.discharging then { c with disStart := some now }
      else if t + l.dischargeConfirmS * 1000 ≤ now then { c with discharging := true }
      else c

/-- The changes of an account are handed on: Q_bal to or from 0 and assumed cleared to the Scheduler, Q_bal to or from 0 to
the DUE_SPREAD period (R27, R29, R30, R113). `old` is the account before the event. -/
def State.accountChanged (s : State) (str : Str) (old : Charge) : State :=
  let new := s.charge str
  let s := if old.assumed && !new.assumed then s.markScan else s
  if (old.qBal == 0) = (new.qBal == 0) then s else s.markScan.judgeSpreadTimer str

/-- An accepted shunt reading of current `i` reaches the Charge Account Unit: integration, full detection, the discharge
judgement, then the hand-offs (2.2; log 11). -/
def State.integrateReading (s : State) (str : Str) (i : Int) : State :=
  let old := s.charge str
  let cfg := s.cfg str
  let cut := old.cutBy s.gapMs s.now
  let r := old.integrate cfg.capacityC cfg.etaPct s.gapMs s.now i
  let s := s.modCharge str fun _ => r.charge
  let s :=
    if 0 < r.whole ∧ s.bound str then
      s.modControl str fun c => { c with chargeIn := satAdd sat32 c.chargeIn r.whole.toNat }
    else s
  let s := s.accrueWater str r.mg
  let s :=
    if s.limitsLoaded then
      let s := if s.inState str .onBus then s.modCharge str (Charge.detectFull s.lim s.now cut) else s
      s.modCharge str (Charge.judgeDischarging s.lim s.now cut)
    else s
  let s := s.accountChanged str old
  let s := match (s.control str).slot with
    | some sl => s.judgeCriterion sl
    | none => s
  s.rejudgeDischarge

/-! ## Due reasons (R34 to R37) -/

/-- The threshold of DUE_THROUGHPUT: trunc(capacity_C × throughput_pct / 100) (R36). -/
def StringCfg.throughputC (c : StringCfg) : Nat :=
  c.capacityC * c.throughputPct / 100

/-- The first equalise due reason that is true (R35 to R37). -/
def State.dueReason (s : State) (str : Str) : Option Reason :=
  let c := s.cfg str
  let a := s.charge str
  if c.dueDays ≠ 0 ∧ c.dueDays ≤ a.daysSinceEq then some .dueDays
  else if s.reached (a.spreadTimer.map (· + c.spreadMin * 60000)) then some .dueSpread
  else if c.throughputPct ≠ 0 ∧ c.throughputC ≤ a.dDis then some .dueThroughput
  else none

/-- Whether recipe `r` is empty in the committed images (R49). -/
def State.recipeIsEmpty (s : State) (r : Nat) : Bool :=
  recipeEmpty s.images.recipe s.images.phase r

/-- Whether the due reasons of a string are evaluated (R37, R40). -/
def State.evaluated (s : State) (str : Str) : Bool :=
  s.limitsLoaded && s.engaged && s.present str && s.inState str .onBus && (s.control str).holdoffUntil.isNone
    && !s.recipeIsEmpty (s.cfg str).autoRecipe && !s.queued str .equalise && !s.bound str

/-- `a` is at or before `b`. -/
def Stamp.atOrBefore (a b : Stamp) : Bool :=
  a.day < b.day || (a.day == b.day && a.minute ≤ b.minute)

/-- A holdoff the site clock has reached is cleared (R37). -/
def State.clearHoldoff (s : State) (str : Str) : State :=
  match (s.control str).holdoffUntil with
  | some t => if t.atOrBefore s.mgmt.clock then s.modControl str fun c => { c with holdoffUntil := none } else s
  | none => s

/-- The equalise due reasons of one string are evaluated, and the first that is true is enqueued (R37). -/
def State.evaluateDue (s : State) (str : Str) : State :=
  if s.evaluated str then
    match s.dueReason str with
    | some r => s.enqueue ⟨str, .equalise, (s.cfg str).autoRecipe, r, .normal, .auto, s.mgmt.clock⟩
    | none => s
  else s

/-! ## Water due (R39) -/

/-- A due cell: no watering fault, no confirmation awaited, and LOW, DRY or a deficit at the threshold (R39). -/
def Cell.due (waterDueMl : Nat) (c : Cell) : Bool :=
  !c.wateringFault && c.confirmDeadline.isNone
    && (c.level == .low || c.level == .dry || waterDueMl * 1000 ≤ c.deficit)

/-- The due cells of a string. -/
def State.dueCells (s : State) (str : Str) : List Cell :=
  ((s.positions str).map (s.cellAt str)).filter (Cell.due s.lim.waterDueMl)

/-- Whether a string may be owed water (R39, R40). -/
def State.waterJudged (s : State) (str : Str) : Bool :=
  s.limitsLoaded && s.engaged && s.present str && (s.cfg str).autoWater && (s.cfg str).hasManifold
    && !s.inState str .out && !s.watering str

/-- Reason and priority of the water a string with these due cells is owed (R39). -/
def waterReason (due : List Cell) : Reason × Priority :=
  if due.any fun c => c.level == .dry then (.dry, .urgent)
  else if due.any fun c => c.level == .low then (.level, .normal)
  else (.deficit, .normal)

/-- Water due is judged for a string, and what it is owed is enqueued (R39). -/
def State.judgeWaterDue (s : State) (str : Str) : State :=
  if s.waterJudged str ∧ !(s.dueCells str).isEmpty then
    let r := waterReason (s.dueCells str)
    s.enqueue ⟨str, .water, 0, r.1, r.2, .auto, s.mgmt.clock⟩
  else s

/-! ## The discharge holdoff (R33) -/

/-- The holdoff end is reached: handed to the Scheduler as a clearing (R33). -/
def State.holdoffEnds (s : State) : State :=
  { s with holdoffEnd := none }.markScan

end Sys2Proof.Machine
end

