-- ==== Sys2Proof/Machine/Watering.lean ====
section
/-! DEFINITION. The Watering Unit: the plan (R125, R126), groups (R127), valve orders (R128, R129), closes (R130 to R133), ends
of rounds (R134, R135), confirmation (R137, R138) and the reservoir account (R139). -/

namespace Sys2Proof.Machine

/-! ## The dose plan (R126) -/

/-- The dose of a cell in ml (R126 steps 1 and 2). -/
def Cell.dose (l : Limits) (c : Cell) : Nat :=
  let d := min (c.deficit / 1000) l.doseMaxMl
  if (c.level = .low ∨ c.level = .dry) ∧ d < l.doseMinMl then l.doseMinMl else d

/-- Whether a cell is a candidate (R126). -/
def Cell.candidate (l : Limits) (c : Cell) : Bool :=
  l.doseMinMl ≤ c.dose l && !c.wateringFault && c.confirmDeadline.isNone && c.level != .high

/-- open_ms = ceil(dose_ml × 10,000 / flow_x10) (R126). -/
def openTime (l : Limits) (dose : Nat) : Nat :=
  ceilDiv (dose * 10000) l.flowX10

/-- The plan of a string: its candidates in ascending position order (R125, R126). -/
def State.buildPlan (s : State) (str : Str) : List PlanItem :=
  ((s.positions str).filter fun p => (s.cellAt str p).candidate s.lim).map fun p =>
    ⟨p, (s.cellAt str p).dose s.lim, openTime s.lim ((s.cellAt str p).dose s.lim)⟩

/-- The items a group takes from the head of the plan: at most `n`, and of doses that sum to no more than `room`; the items
taken and the plan left (R127). -/
def takeGroup : Nat → Nat → List PlanItem → List PlanItem × List PlanItem
  | 0, _, plan => ([], plan)
  | _ + 1, _, [] => ([], [])
  | n + 1, room, i :: plan =>
    if i.dose ≤ room then
      let r := takeGroup n (room - i.dose) plan
      (i :: r.1, r.2)
    else ([], i :: plan)

/-! ## Valve orders (R128) -/

/-- The alterations `new` together with the unsent ones, the new prevailing (R128). -/
def mergeAlters (unsent new : List Alter) : List Alter :=
  unsent.filter (fun u => !new.any fun a => a.pos == u.pos) ++ new

/-- A VALVE order to the manifold of `str` with these alterations, carrying the unsent ones when it follows a VALVE order to
the same manifold (R128). DESIGN CHOICE (log 38): an unsent alteration of a position that a STRING commit has since put above
cells is carried too. -/
def State.handValve (s : State) (str : Str) (alters : List Alter) : State :=
  let dst := (s.cfg str).manifoldAddr
  let all := if s.water.lastValveDst = some dst then mergeAlters s.water.unsent alters else alters
  let n := s.ring.orderCount
  (s.handOrder (valveFrame dst s.ring.ownAddress all)).modWater fun w =>
    { w with unsent := all, lastValveDst := some dst, lastValveOrder := some n }

/-- The alterations that close the given positions. -/
def closings (ps : List Pos) : List Alter :=
  ps.map fun p => ⟨p, false⟩

/-! ## Accounting for a close (R130, R131) -/

/-- The amount dispensed by a valve closed at `now`: trunc(t_open × flow_x10 / 10,000), capped at the planned dose, 0 when its
opening has not left the output (R131). -/
def GroupItem.dispensed (g : GroupItem) (flowX10 now : Nat) : Nat :=
  match g.sent with
  | some t => min g.dose ((now - t) * flowX10 / 10000)
  | none => 0

/-- The cell record after a close with `ml` dispensed: the deficit falls, last_dose_ml is set, and a probe cell given water
awaits confirmation by `deadline` (R130 steps 2 to 4); a close by overfill cut counts as confirmed instead (R133). -/
def Cell.afterClose (ml : Nat) (probe overfill : Bool) (deadline : Nat) (c : Cell) : Cell :=
  let c := { c with deficit := c.deficit - ml * 1000, lastDose := ml }
  if overfill then { c with unconfirmed := 0 }
  else if 0 < ml ∧ probe then { c with confirmDeadline := some deadline }
  else c

/-- A close is accounted for, in the order of R130. -/
def State.accountClose (s : State) (str : Str) (p : Pos) (ml : Nat) (overfill : Bool) : State :=
  let s := s.modWater fun w => { w with reservoir := w.reservoir - ml }
  let s := s.modCell (cellIx str p)
    (Cell.afterClose ml ((s.cfg str).hasProbe p) overfill (s.now + s.lim.confirmMin * 60000))
  s.modWater fun w =>
    { w with cellsDosed := if 0 < ml then w.cellsDosed + 1 else w.cellsDosed, roundMl := w.roundMl + ml }

/-- The last position of open_set has closed: PUMP off and the gap begins (R132). -/
def State.startGap (s : State) : State :=
  s.modWater fun w =>
    { w with state := .gap, pump := false, gapEnd := some (s.now + s.lim.groupGapS * 1000) }

/-- One valve closes: the order that alters it alone, open_set, the account, and the gap when it was the last (R130, R132,
R133). -/
def State.closeValve (s : State) (str : Str) (p : Pos) (ml : Nat) (overfill : Bool) : State :=
  let s := s.handValve str (closings [p])
  let s := s.modWater fun w => { w with openSet := w.openSet.filter (· != p) }
  let s := s.accountClose str p ml overfill
  if s.water.openSet.isEmpty then s.startGap else s

/-- The group item of a position. -/
def State.groupItem? (s : State) (p : Pos) : Option GroupItem :=
  s.water.group.find? fun g => g.pos == p

/-! ## The end of a round (R134, R135) -/

/-- The outcome record of a watering round (R135 step 2). -/
def Water.outcome (w : Water) (cause : EndReason) (stop : Stamp) : OutcomeRecord where
  kind := .water
  recipe := 0
  reason := w.reason
  start := w.startStamp
  endReason := some cause
  endStamp := some stop
  amount := w.roundMl
  cut := w.roundCut
  entries := w.cellsDosed

/-- The unit at the end of a round: IDLE, PUMP off, nothing open, planned or grouped (R135 step 1). DESIGN CHOICE (log 37): the
items of the round that step 1 does not name are cleared too, to their values of R124's cold-reset column. -/
def Water.ended (w : Water) : Water :=
  { w with
    state := .idle, pump := false, openSet := [], plan := [], group := [], gapEnd := none,
    string := none, reason := none, startStamp := none, roundCut := false, cellsDosed := 0, roundMl := 0 }

/-- The round of `str` ends with `cause` (R135). -/
def State.endWatering (s : State) (str : Str) (cause : EndReason) : State :=
  let o := s.water.outcome cause s.mgmt.clock
  let s := s.modWater Water.ended
  let s := s.modControl str fun c => { c with lastWaterOutcome := some o }
  let s := if cause = .restart then s else s.noticeEnded str o
  ((s.reportToSlot str).markScan).markCommit

/-- Every open valve is accounted for with its pro-rated amount, in position order (R134). -/
def State.accountOpen (s : State) (str : Str) : State :=
  (allPos.filter fun p => s.water.openSet.contains p).foldl (fun s p =>
    match s.groupItem? p with
    | some g => s.accountClose str p (g.dispensed s.lim.flowX10 s.now) false
    | none => s) s

/-- An early end of the round in progress: in DOSING every open valve is closed and accounted for (R134). -/
def State.endWateringEarly (s : State) (cause : EndReason) : State :=
  match s.water.string with
  | none => s
  | some str =>
    if s.water.state = .idle then s
    else
      let s :=
        if s.water.state = .dosing then
          (s.handValve str (closings (allPos.filter fun p => s.water.openSet.contains p))).accountOpen str
        else s
      s.endWatering str cause

/-- A warm restart ends the round in progress: one VALVE order closes every position of the group, the open valves are
accounted for, and the round ends with RESTART without a notice (R141; log 12). -/
def State.restartWatering (s : State) : State :=
  match s.water.string with
  | none => s
  | some str =>
    if s.water.state = .idle then s
    else
      let s := s.modWater fun w => { w with unsent := [] }
      let s := s.handValve str (closings (s.water.group.map fun g => g.pos))
      (s.accountOpen str).endWatering str .restart

/-! ## Groups (R127, R129) -/

/-- A group is formed from the plan; an empty one ends the round with RESERVOIR, any other is opened (R127, R129). -/
def State.formGroup (s : State) (str : Str) : State :=
  let taken := takeGroup s.lim.maxOpen (s.water.reservoir - s.lim.reservoirReserveMl) s.water.plan
  if taken.1.isEmpty then s.endWatering str .reservoir
  else
    let n := s.ring.orderCount
    (s.handValve str (taken.1.map fun i => ⟨i.pos, true⟩)).modWater fun w =>
      { w with
        state := .dosing, pump := true, gapEnd := none, plan := taken.2
        group := taken.1.map fun i => ⟨i.pos, i.dose, i.openMs, none⟩
        openSet := taken.1.map fun i => i.pos
        openOrder := n }

/-- A round without candidates: outcome NOTHING and a QUEUE notice; the unit stays IDLE (R125). DESIGN CHOICE (log 37): the
string, the reason and the start stamp that R125 takes go into the outcome record alone; the unit's own string, reason and
start_stamp stay as they stood. -/
def State.nothingToWater (s : State) (str : Str) (reason : Reason) : State :=
  let o : OutcomeRecord :=
    ⟨.water, 0, some reason, some s.mgmt.clock, some .nothing, some s.mgmt.clock, 0, false, 0⟩
  let s := s.modControl str fun c => { c with lastWaterOutcome := some o }
  (s.noticeNothing str).reportToSlot str

/-- The unit takes an admitted string: the plan is built, the round's tallies become 0, and the first group is formed (R125).
With an empty plan the unit's string, reason and start_stamp are not stored (DESIGN CHOICE, log 37). -/
def State.beginWatering (s : State) (str : Str) (reason : Reason) : State :=
  let plan := s.buildPlan str
  let s := s.modWater fun w => { w with roundCut := false, cellsDosed := 0, roundMl := 0 }
  if plan.isEmpty then s.nothingToWater str reason
  else
    let s := s.modWater fun w =>
      { w with string := some str, reason := some reason, startStamp := some s.mgmt.clock, plan := plan }
    (s.noticeStarted str .water none (some reason)).formGroup str

/-- The gap is over: the round ends COMPLETE with an empty plan, otherwise the next group is formed (R132). -/
def State.endGap (s : State) (str : Str) : State :=
  let s := s.modWater fun w => { w with gapEnd := none }
  if s.water.plan.isEmpty then s.endWatering str .complete else s.formGroup str

/-! ## The order-sent report (R128, R129, R164) -/

/-- The Ring Port reports an order sent at `now`: the items of the group still open whose opening it carried take the time,
and unsent is emptied when it is the last order handed (R128, R129; log 10). -/
def State.orderSent (s : State) (n : Nat) (f : Frame) : State :=
  let manifold := s.water.string.map fun i => (s.cfg i).manifoldAddr
  s.modWater fun w =>
    { w with
      unsent := if w.lastValveOrder = some n then [] else w.unsent
      group :=
        if f.kind = kindValve ∧ manifold = some f.dst ∧ w.openOrder ≤ n then
          w.group.map fun g =>
            if w.openSet.contains g.pos && f.opens g.pos then { g with sent := some s.now } else g
        else w.group }

/-! ## Level arrivals (R133, R138) -/

/-- A HIGH arrival acts on the round: an open valve is cut, an unopened cell leaves the plan (R133). -/
def State.highArrives (s : State) (str : Str) (p : Pos) : State :=
  if s.watering str then
    if s.water.openSet.contains p then
      match s.groupItem? p with
      | some g =>
        (s.modWater fun w => { w with roundCut := true }).closeValve str p (g.dispensed s.lim.flowX10 s.now) true
      | none => s
    else s.modWater fun w => { w with plan := w.plan.filter fun i => i.pos != p }
  else s

/-- A NORMAL or HIGH arrival settles a deadline that is present (R138). -/
def Cell.confirmed (c : Cell) : Cell :=
  if c.confirmDeadline.isSome then { c with confirmDeadline := none, unconfirmed := 0 } else c

/-- A level arrival at a probe position reaches the Watering Unit (R133, R138). -/
def State.levelArrives (s : State) (str : Str) (p : Pos) (lv : Level) : State :=
  let s := if lv = .high then s.highArrives str p else s
  if lv = .normal ∨ lv = .high then s.modCell (cellIx str p) Cell.confirmed else s

/-! ## Confirmation deadlines (R137) -/

/-- A cell whose deadline has expired: a LOW or DRY level counts an unconfirmed dose, the second of which sets the watering
fault (R137). -/
def Cell.deadlineExpired (c : Cell) : Cell :=
  let c := { c with confirmDeadline := none }
  if c.level = .low ∨ c.level = .dry then
    { c with
      unconfirmed := min 2 (c.unconfirmed + 1)
      wateringFault := c.wateringFault || decide (1 ≤ c.unconfirmed) }
  else c

/-- The time reaches a cell's confirm_deadline (R137). -/
def State.deadlineExpires (s : State) (i : CellIx) : State :=
  let c := s.cell i
  let s := s.modCell i Cell.deadlineExpired
  if c.level = .low ∨ c.level = .dry then
    let s := s.noticeCell (cellStr i) (cellPos i) .doseUnconfirmed
    if 1 ≤ c.unconfirmed then s.noticeCell (cellStr i) (cellPos i) .wateringFault else s
  else s

/-! ## The reservoir account (R139) -/

/-- While the RESLOW line is high the account is at most the reserve (R139). -/
def State.reserveClamp (s : State) (ml : Nat) : Nat :=
  if s.site.reslow.level then min ml s.lim.reservoirReserveMl else ml

/-- The account takes a new value; every rise is handed to the Scheduler (R139). -/
def State.setReservoir (s : State) (ml : Nat) : State :=
  let rises := s.water.reservoir < ml
  let s := s.modWater fun w => { w with reservoir := ml }
  if rises then s.markScan else s

/-- reservoir_capacity_ml: 0 until the first LIMITS image is applied (R139). -/
def State.capacityMl (s : State) : Nat :=
  if s.limitsLoaded then s.lim.reservoirCapacityMl else 0

/-- A REFILL (R139). -/
def State.refillTo (s : State) (ml : Nat) : State :=
  s.setReservoir (s.reserveClamp (min ml s.capacityMl))

end Sys2Proof.Machine
end

