-- ==== Sys2Proof/Machine/Scheduler.lean ====
section
/-! DEFINITION. The Scheduler: the conditions of admission (R114, R115, R117, R119), the admissions (R63, R64, R82, R116,
R118), the scan (R113), and what follows an event as a whole: deferred commits are judged elsewhere (Commit.lean). -/

namespace Sys2Proof.Machine

/-! ## Conditions (R114, R115, R117) -/

/-- The site conditions of an EQUALISE entry; `edge` says that the scan's rising edge opened the gate (R114). -/
def State.equaliseSite (s : State) (edge : Bool) : Bool :=
  s.engaged && !s.commitPending && !s.site.gasLatch && !s.site.fanFail && !s.discharge && s.holdoffEnd.isNone
    && s.ring.sight == .seeing && s.gateOpen edge && s.freeSlot?.isSome && s.boundCount < s.lim.maxOut

/-- T_s is present and cold_limit ≤ T_s < hot_limit (R115). -/
def State.temperatureOk (s : State) (str : Str) : Bool :=
  match (s.reading str).ts with
  | some t => s.lim.coldLimit ≤ t && t < s.lim.hotLimit
  | none => false

/-- The number of present strings other than `str` that are in ON_BUS (R115). -/
def State.othersOnBus (s : State) (str : Str) : Nat :=
  (allStrs.filter fun i => i != str && s.present i && s.inState i .onBus).length

/-- The conditions of the string of an EQUALISE entry (R115). -/
def State.equaliseString (s : State) (e : Entry) : Bool :=
  s.inState e.string .onBus && !(s.reading e.string).dry
    && (e.recipe == 0 || ((s.charge e.string).qBal == 0 && !(s.charge e.string).assumed))
    && s.temperatureOk e.string
    && (s.cfg e.string).cells ≤ (s.reading e.string).freshCells + s.lim.staleAllow
    && s.lim.minOnBus ≤ s.othersOnBus e.string
    && (!s.needsSourceAtStart e.recipe || 1 ≤ s.site.allowance)

/-- The string is EQUALISING with its slot in WATER_WAIT (R117). -/
def State.inWaterWait (s : State) (str : Str) : Bool :=
  s.inState str .equalising &&
    match (s.control str).slot with
    | some sl => (s.slot sl).entryState == some .waterWait
    | none => false

/-- The conditions of a WATER entry (R117). -/
def State.waterAdmissible (s : State) (e : Entry) : Bool :=
  s.engaged && !s.commitPending && s.water.state == .idle && !s.site.gasLatch && s.ring.sight == .seeing
    && !s.site.reslow.level && s.lim.reservoirReserveMl + s.lim.doseMinMl ≤ s.water.reservoir
    && (s.cfg e.string).hasManifold
    && (s.inWaterWait e.string ||
        (e.origin != .recipe && s.inState e.string .onBus && (s.charge e.string).qBal == 0))

/-! ## Setup (R63, R64, R82) -/

/-- The slot record takes the string and the entry's recipe, reason and priority; every other field is reset (R82). DESIGN CHOICE
(log 45): d_eff, for which R81 gives no absent value, is 0 until the first PHASE entry starts. -/
def boundSlot (l : Limits) (e : Entry) (ts : Option Int) : SlotRec where
  string := some e.string
  recipe := e.recipe
  reason := some e.reason
  priority := some e.priority
  triggerStarted := l.triggerMode != .off
  directV := l.floatMv
  directI := 0
  tc := ts

/-- The control half of a string at its binding (R63). -/
def Control.bind (c : Control) (sl : SlotId) (stamp : Stamp) : Control :=
  { c with
    state := .called, slot := some sl, startStamp := some stamp, chargeIn := 0, endReason := none, endStamp := none,
    variant := none, step := none, matchDeadline := none, confirmLeft := none }

/-- The voltage limit of the setup order: terminal_v if present, otherwise the float voltage, at most the order ceiling
(R64). -/
def State.setupVolts (s : State) (str : Str) : Nat :=
  match s.terminalV str with
  | some v => min v (s.orderCeiling str)
  | none => s.floatVolts str

/-- The setup: RECT ON, CONTACTOR EQ, and the confirmation starts (R64). -/
def State.setup (s : State) (str : Str) : State :=
  let s := s.stringRect str (.on (s.setupVolts str) s.lim.iFloor)
  (s.handContactor str targetEq).modControl str fun c =>
    { c with confirmLeft := some (s.lim.contactorTimeoutS * 1000) }

/-- The admission of an EQUALISE entry to slot `sl` (R116): the entry leaves the queue, the string is bound and its setup
begins, ROUND_STARTED is handed, and the change of state is handed on (R62). -/
def State.admitEqualise (s : State) (e : Entry) (sl : SlotId) : State :=
  let before := (s.control e.string).state
  let s := s.removeEntry e.string .equalise
  let s := s.modControl e.string fun c => c.bind sl s.mgmt.clock
  let s := s.modSlot sl fun _ => boundSlot s.lim e (s.reading e.string).ts
  let s := s.setup e.string
  (s.noticeStarted e.string .equalise (some sl) (some e.reason)).stateChanged e.string before

/-! ## The scan (R113) -/

/-- A scan on its way: the state and whether it has admitted a WATER entry (R117: one at most; log 9). -/
structure ScanState where
  state : State
  watered : Bool

/-- The marks an admission hands back do not start another scan (R113). -/
def State.keepMarks (s : State) (m : Marks) : State :=
  { s with marks := { s.marks with scan := m.scan } }

/-- A WATER entry is admitted: it leaves the queue and the Watering Unit takes it (R118). The unit's own changes start no
scan; a round that ends at once reports to a slot in WATER_WAIT, and an enqueue that slot then makes is a queue change of
its own (R87, R108, R113). -/
def State.admitWater (s : State) (e : Entry) : State :=
  let r := s.removeEntry e.string .water
  let t := r.beginWatering e.string e.reason
  t.keepMarks { s.marks with scan := s.marks.scan || decide (r.queue.length < t.queue.length) }

/-- The scan judges one entry, named by its string and kind, against the state the admissions before it left (R113). -/
def scanEntry (edge : Bool) (c : ScanState) (key : Str × RoundKind) : ScanState :=
  match c.state.entry? key.1 key.2 with
  | none => c
  | some e =>
    match e.kind with
    | .equalise =>
      match c.state.freeSlot? with
      | some sl =>
        if c.state.equaliseSite edge && c.state.equaliseString e then
          { c with state := (c.state.admitEqualise e sl).keepMarks c.state.marks }
        else c
      | none => c
    | .water =>
      if !c.watered && c.state.waterAdmissible e then ⟨c.state.admitWater e, true⟩ else c

/-- One scan over the queue as it stands when the scan starts, from the head (R113). -/
def State.scanOnce (s : State) (edge : Bool) : State :=
  ((s.queue.map fun e => (e.string, e.kind)).foldl (scanEntry edge) ⟨s, false⟩).state

/-- The scans an event has started: the first with the gate the event opened, further ones, started by a water point called
within a scan, with the gate as it stands. `fuel` bounds them. -/
def State.runScans (s : State) : Nat → State
  | 0 => { s with marks := { s.marks with scan := false, gate := false } }
  | fuel + 1 =>
    if s.marks.scan then
      ({ s with marks := { s.marks with scan := false, gate := false } }.scanOnce s.marks.gate).runScans fuel
    else s

/-- A bound on the scans of one event: each further one takes a water point of a recipe of 12 entries in one of two slots. -/
def scanFuel : Nat := 32

/-- The scans started so far are taken (R113). -/
def State.scan (s : State) : State :=
  s.runScans scanFuel

end Sys2Proof.Machine
end

