-- ==== Sys2Proof/Machine/Records.lean ====
section
/-! DEFINITION. The Record Store's events: absorbed CELL, SHUNT and POSITION readings (R4 to R11), freshness expiries (R12), the
hand-offs of R18, and String Control's taking of a position (R65, R69, R75). -/

namespace Sys2Proof.Machine

/-! ## Derived values and their hand-offs (R14 to R18) -/

/-- The derived values of a string are recomputed and stored (R2, R14 to R16, R9). -/
def State.recompute (s : State) (str : Str) : State :=
  s.modReading str fun r =>
    { r with
      freshCells := s.judgeFreshCells str
      ts := s.judgeTs str
      spread := s.judgeSpread str
      dry := s.judgeDry str }

/-- An operation made on the slot of a string, if it is bound. -/
def State.onSlotOf (s : State) (str : Str) (f : SlotId → State → State) : State :=
  match (s.control str).slot with
  | some sl => f sl s
  | none => s

/-- Changes of fresh_cells, T_s and spread from `old` are handed on, in the order of R18's table (log 4). -/
def State.handDerived (s : State) (str : Str) (old : Reading) : State :=
  let new := s.reading str
  let s := if new.freshCells = old.freshCells then s
    else (s.markScan).onSlotOf str fun sl s => s.reviewReasons sl
  let s := if new.ts = old.ts then s
    else (s.markScan).onSlotOf str fun sl s => s.temperatureArrives sl new.ts
  if new.spread = old.spread then s
  else (s.judgeSpreadTimer str).onSlotOf str fun sl s => s.judgeCriterion sl

/-- A change of dry from `old` is handed on: the Scheduler scans, and dry becoming set has water due judged (R9, R18, R39). -/
def State.handDry (s : State) (str : Str) (old : Reading) : State :=
  let new := s.reading str
  if new.dry = old.dry then s
  else if new.dry then s.markScan.judgeWaterDue str else s.markScan

/-! ## CELL readings (R5 to R9) -/

/-- The level class a code names (R6). -/
def levelOf : Nat → Option Level
  | 1 => some .high
  | 2 => some .normal
  | 3 => some .low
  | 4 => some .dry
  | _ => none

/-- A cell record after a CELL reading taken at `now`, with the level class it carries for a position with a probe
(R5 to R7). -/
def Cell.take (now staleMs : Nat) (r : CellReading) (lv : Option Level) (c : Cell) : Cell :=
  let c := match r.voltage with
    | some v => { c with voltage := some v, lastV := some now, vExpiry := some (now + staleMs) }
    | none => c
  let c := match r.temp with
    | some t => { c with temp := some t, lastT := some now, tExpiry := some (now + staleMs) }
    | none => c
  match lv with
  | some .high => { c with level := .high, deficit := 0 }
  | some l => { c with level := l }
  | none => c

/-- An absorbed CELL reading (R4 to R9, R18). -/
def State.absorbCell (s : State) (str : Str) (p : Pos) (r : CellReading) : State :=
  if r.sensorFault then s
  else
    let lv := if (s.cfg str).hasProbe p then levelOf r.levelCode else none
    let oldLevel := (s.cellAt str p).level
    let old := s.reading str
    let s := (s.modCell (cellIx str p) (Cell.take s.now s.staleMs r lv)).recompute str
    let s := if lv = some .dry ∧ oldLevel ≠ .dry then s.noticeCell str p .dry else s
    let s := match r.voltage with
      | some v => s.onSlotOf str fun sl s => s.cellVoltageArrives sl v
      | none => s
    let s := s.handDerived str old
    let s := match lv with
      | some l => s.levelArrives str p l
      | none => s
    s.handDry str old

/-! ## SHUNT readings (R10) -/

/-- An absorbed SHUNT reading: the terminal voltage is stored and the bus voltage recomputed, then the current, the terminal
voltage and a change of the bus voltage are handed on (R4, R10, R17, R18). -/
def State.absorbShunt (s : State) (str : Str) (r : ShuntReading) : State :=
  if r.sensorFault then s
  else
    let busBefore := s.busVoltage
    let s := match r.terminalV with
      | some v =>
        let s := s.modReading str fun q =>
          { q with terminalV := some v, lastTV := some s.now, tvExpiry := some (s.now + s.staleMs) }
        if s.inState str .onBus then { s with busVoltage := s.judgeBusVoltage } else s
      | none => s
    let s := s.integrateReading str r.current
    let s := if r.terminalV.isSome then s.judgeWindow str else s
    s.handBus busBefore

/-! ## POSITION readings (R11, R65, R69, R75) -/

/-- An EQ position in CALLED: the string is EQUALISING, the confirmation stops and the slot starts at entry 0 (R65). -/
def State.setupConfirmed (s : State) (str : Str) : State :=
  let s := s.modControl str fun c => { c with state := .equalising, confirmLeft := none }
  (s.stateChanged str .called).onSlotOf str fun sl s => s.startRound sl

/-- A BUS position in EQUALISING: the round ends with CONTACTOR and the string is ON_BUS at once (R75). -/
def State.busInEqualising (s : State) (str : Str) : State :=
  (((s.setEnd str .contactor).stopSlotOf str).stringRect str .off).toBusAndFree str

/-- String Control takes a position arrival according to the string's state (R75). -/
def State.positionArrives (s : State) (str : Str) (c : Contact) : State :=
  match (s.control str).state, c with
  | .onBus, .openPos => s.enterFaulted str
  | .onBus, .eq => s.enterFaulted str
  | .called, .openPos => s.enterFaulted str
  | .called, .eq => s.setupConfirmed str
  | .equalising, .openPos => s.enterFaulted str
  | .equalising, .bus => s.busInEqualising str
  | .returning, .openPos => s.enterFaulted str
  | .returning, .bus => s.completeReturn str
  | _, _ => s

/-- An absorbed POSITION reading (R11). -/
def State.absorbPosition (s : State) (str : Str) (r : PositionReading) : State :=
  if r.fault then s
  else match contactOf r.code with
    | some c => (s.modReading str fun q => { q with lastPosition := some c }).positionArrives str c
    | none => s

/-! ## Absorption (R3) -/

/-- The role an address has as the source of a reading (R3). -/
inductive Role where
  | cell (str : Str) (p : Pos)
  | shunt (str : Str)
  | contactor (str : Str)
  deriving DecidableEq, Repr

/-- The position of address `a` in the cell range of a string. -/
def StringCfg.posOf (c : StringCfg) (a : Byte) : Option Pos :=
  if c.inCellRange a then
    if h : a.toNat - c.cellBase.toNat < 24 then some ⟨a.toNat - c.cellBase.toNat, h⟩ else none
  else none

/-- The role of `a` for one present string (R3). -/
def State.roleFor (s : State) (a : Byte) (i : Str) : Option Role :=
  if s.present i then
    match (s.cfg i).posOf a with
    | some p => some (.cell i p)
    | none =>
      if a = (s.cfg i).shuntAddr then some (.shunt i)
      else if a = (s.cfg i).contactorAddr then some (.contactor i)
      else none
  else none

/-- The role of an address (R3); the commit checks of R180 give each bound address one string and one role. -/
def State.roleOf (s : State) (a : Byte) : Option Role :=
  allStrs.findSome? fun i => s.roleFor a i

/-- A reading is absorbed when its source and kind agree with a role and its payload is long enough (R3). -/
def State.absorb (s : State) (f : Frame) : State :=
  match s.roleOf f.src with
  | some (.cell i p) =>
    if f.kind = kindCell then
      match readCell f.payload with
      | some r => s.absorbCell i p r
      | none => s
    else s
  | some (.shunt i) =>
    if f.kind = kindShunt then
      match readShunt f.payload with
      | some r => s.absorbShunt i r
      | none => s
    else s
  | some (.contactor i) =>
    if f.kind = kindPosition then
      match readPosition f.payload with
      | some r => s.absorbPosition i r
      | none => s
    else s
  | none => s

/-! ## Freshness expiries (R12) -/

/-- The expiry of a measured value (R12). -/
def State.expiryOf (s : State) : Measured → Option Nat
  | .cellVoltage i => (s.cell i).vExpiry
  | .cellTemp i => (s.cell i).tExpiry
  | .terminal i => (s.reading i).tvExpiry

/-- A measured value becomes stale, and the derived values it counted in are recomputed and handed on (R12). -/
def State.becomeStale (s : State) (m : Measured) : State :=
  match m with
  | .cellVoltage i =>
    let old := s.reading (cellStr i)
    let s := (s.modCell i fun c => { c with vExpiry := none }).recompute (cellStr i)
    (s.handDerived (cellStr i) old).handDry (cellStr i) old
  | .cellTemp i =>
    let old := s.reading (cellStr i)
    let s := (s.modCell i fun c => { c with tExpiry := none }).recompute (cellStr i)
    (s.handDerived (cellStr i) old).handDry (cellStr i) old
  | .terminal i =>
    let s := s.modReading i fun r => { r with tvExpiry := none }
    if s.inState i .onBus then s.recomputeBus else s

end Sys2Proof.Machine
end

