-- ==== Sys2Proof/Machine/SiteEvents.lean ====
section
/-! DEFINITION. The effects of the site lines and timers (R120 to R122, R144 to R154), of the site clock (R34, R37, R39, R147,
R148, R186), and of the sight stage (R168 to R170). -/

namespace Sys2Proof.Machine

/-! ## Gas (R153, R154) -/

/-- The filtered GAS line rises: with the latch clear it is set and all its stops are handed together (R153).
DESIGN CHOICE: the strings take the cause from S0 to S7 (log 40), and String Control takes it before the Watering Unit, so that a
slot in WATER_WAIT is stopped before the watering round of its string ends (log 47). -/
def State.gasTrips (s : State) : State :=
  if s.site.gasLatch then s
  else
    let s := s.modSite fun t => { t with gasLatch := true }
    let s := s.eachStr fun i s => s.endCause i .gas
    ((s.endWateringEarly .gas).setGasStop).noticeAlarm .gas

/-- The latch is cleared and the clearing handed on (R154). -/
def State.gasClears (s : State) : State :=
  ((s.modSite fun t => { t with gasLatch := false }).clearGasStop).markScan

/-! ## SRC, RESLOW and TRIG (R120 to R122, R139, R144, R146) -/

/-- A filtered SRC change reaches the slots, A first (log 41), and a rise cancels a DELAY (R94, R146). -/
def State.srcChanges (s : State) : State :=
  let s := s.eachSlot fun sl s => s.reviewReasons sl
  if s.site.src.level ∧ s.site.genState = .delay then s.genIdle else s

/-- A RESLOW rise ends a watering round and clamps the account to the reserve, in the order of R144 (R134, R139; log 4). -/
def State.reslowRises (s : State) : State :=
  let s := s.endWateringEarly .reslow
  s.setReservoir (s.reserveClamp s.water.reservoir)

/-- The string holds a round in CALLED or EQUALISING that was admitted through a TRIG gate (R121, R122). -/
def State.triggered (s : State) (str : Str) : Bool :=
  (s.inState str .called || s.inState str .equalising) &&
    match (s.control str).slot with
    | some sl => (s.slot sl).triggerStarted
    | none => false

/-- `cause` is handed for every string whose round was triggered (R121, R122). DESIGN CHOICE (log 40): the strings take it from
S0 to S7. -/
def State.endTriggered (s : State) (cause : EndReason) : State :=
  s.eachStr fun i s => if s.triggered i then s.endCause i cause else s

/-- A filtered TRIG edge reaches the Scheduler (R120 to R122). -/
def State.trigChanges (s : State) (high : Bool) : State :=
  let s := { s with trigLevel := high }
  let s := match s.lim.triggerMode, high with
    | .edge, true =>
      if allStrs.any fun i => s.triggered i then s.endTriggered .trigCancel
      else { s with marks := { s.marks with gate := true } }
    | .level, false => s.endTriggered .trigFall
    | _, _ => s
  s.markScan

/-! ## Fan tachometer (R145, R151, R152) -/

/-- A rising edge on FANTACH: debounced, and counted while measuring (R145). The count of a window stops at 65535, the end of
its range in R143 (DEDUCED, log 29). -/
def Site.edge (debounce : Bool) (now : Nat) (t : Site) : Site :=
  let tooSoon := debounce && match t.lastEdge with | some e => now < e + 2 | none => false
  if tooSoon then t
  else
    { t with
      lastEdge := some now
      window := if t.measuring then t.window.map fun w => { w with count := satAdd sat16 w.count 1 } else t.window }

/-- The window counts after a window of `count` edges (R151). The counts range to 120 (R143). -/
def Site.judgeWindow (fanMinRate count : Nat) (t : Site) : Site :=
  if count < fanMinRate then { t with lowWindows := min 120 (t.lowWindows + 1), okWindows := 0 }
  else { t with okWindows := min 120 (t.okWindows + 1), lowWindows := 0 }

/-- FAN_FAIL becomes set: gassing rounds end, slot A first (log 41), and an ALARM notice (R99, R152). -/
def State.fanFails (s : State) : State :=
  let s := s.modSite fun t => { t with fanFail := true, lowWindows := 0 }
  let s := s.eachSlot fun sl s =>
    if (s.slot sl).inStretch && (s.stretch sl).gassing then s.slotEnds sl .fanFail else s
  s.noticeAlarm .fanFail

/-- FAN_FAIL becomes clear: a site condition clearing (R152). -/
def State.fanRecovers (s : State) : State :=
  (s.modSite fun t => { t with fanFail := false, okWindows := 0 }).markScan

/-- The end of a tachometer window; the next begins as it ends (R145, R151). -/
def State.windowEnds (s : State) (w : TachWindow) : State :=
  let s := s.modSite fun t => { t.judgeWindow s.lim.fanMinRate w.count with window := some ⟨w.start + 1000, 0⟩ }
  if s.lim.fanFailS ≤ s.site.lowWindows ∧ !s.site.fanFail then s.fanFails
  else if s.lim.fanFailS ≤ s.site.okWindows ∧ s.site.fanFail then s.fanRecovers
  else s

/-! ## The site clock (R34, R37, R39, R147, R148, R186) -/

/-- The minute after `t`; day 65535 is followed by day 0 (R186). -/
def Stamp.next (t : Stamp) : Stamp :=
  if t.minute = 1439 then ⟨(t.day + 1) % 65536, 0⟩ else ⟨t.day, t.minute + 1⟩

/-- The allowance is exhausted: each running slot in a source-needing stretch ends its round (R98, R148), slot A
first (log 41). -/
def State.allowanceExhausted (s : State) : State :=
  s.eachSlot fun sl s =>
    if (s.slot sl).inStretch && (s.stretch sl).source then s.slotEnds sl .allowance else s

/-- The Site Line Unit's part of a site-minute (R147, R148). -/
def State.allowanceMinute (s : State) (rollover : Bool) : State :=
  let s :=
    if rollover then s.modSite fun t => { t with allowance := s.lim.allowanceMin }
    else if s.site.spendMark ∧ 0 < s.site.allowance then
      let s := s.modSite fun t => { t with allowance := t.allowance - 1 }
      if s.site.allowance = 0 then s.allowanceExhausted else s
    else s
  s.modSite fun t => { t with spendMark := t.src.level && s.judgeSpending }

/-- The Charge Account Unit's part of a site-minute: the day count at a rollover, the holdoffs the clock has reached, the due
reasons, then water due, each over S0 to S7 (R34, R37, R39). DESIGN CHOICE (log 34): all the equalise requests are handed
before the water requests, where R107 lets requests that arrive together be taken in either order. -/
def State.accountMinute (s : State) (rollover : Bool) : State :=
  let s := if rollover then
      s.eachStr fun i s => if s.present i then
        s.modCharge i fun c => { c with daysSinceEq := satAdd sat16 c.daysSinceEq 1 } else s
    else s
  let s := s.eachStr fun i s => s.clearHoldoff i
  let s := s.eachStr fun i s => s.evaluateDue i
  s.eachStr fun i s => s.judgeWaterDue i

/-- The site clock advances one minute and the advance is handed to its blocks (R186). -/
def State.minutePasses (s : State) : State :=
  let s := s.modMgmt fun m => { m with clock := m.clock.next, minuteEnd := m.minuteEnd + 60000 }
  let rollover := s.mgmt.clock.minute == 0
  ((s.accountMinute rollover).allowanceMinute rollover).markScan

/-! ## Sight (R168 to R170) -/

/-- Sight returns to SEEING and the change is handed on (R169): to the lamp, which judges its pattern (R155; log 5), and to the
slots, A first (log 41); a warm restart sends no notice (R172). -/
def State.restoreSight (s : State) (notify : Bool) : State :=
  if s.ring.sight = .seeing then s
  else
    let wasBlind := s.ring.sight = .blind
    let s := (s.modRing fun r => { r with sight := .seeing, repeatDue := none }).followSite
    let s := (s.eachSlot fun sl s => s.reviewReasons sl).markScan
    if wasBlind ∧ notify then s.noticeAlarm .sightRestored else s

/-- SEEING to WARN (R168, R169); slot A takes it first (log 41). -/
def State.goWarn (s : State) : State :=
  (s.modRing fun r => { r with sight := .warn }).eachSlot fun sl s => s.reviewReasons sl

/-- The safe orders: RECT OFF and CONTACTOR BUS for each string in RETURNING or FAULTED with a slot (R170). DESIGN CHOICE
(log 36): they are handed from S0 to S7, RECT before CONTACTOR; R170 gives no order. -/
def State.safeOrders (s : State) : State :=
  s.eachStr fun i s =>
    match (s.control i).slot with
    | some sl =>
      if s.inState i .returning || s.inState i .faulted then (s.handRect sl .off).handContactor i targetBus else s
    | none => s

/-- The safe orders are handed and the next repeat set (R170). -/
def State.blindOrders (s : State) : State :=
  s.safeOrders.modRing fun r => { r with repeatDue := some (s.now + s.lim.blindRepeatS * 1000) }

/-- Sight becomes BLIND (R170). DESIGN CHOICE: the strings take the cause from S0 to S7 (log 40), the slots the change A first
(log 41), and String Control takes the cause before the Watering Unit, so that a slot in WATER_WAIT is stopped before the
watering round of its string ends (log 47). -/
def State.goBlind (s : State) : State :=
  let wasSeeing := s.ring.sight = .seeing
  let s := s.modRing fun r => { r with sight := .blind }
  let s := s.eachStr fun i s => s.endCause i .blind
  let s := s.endWateringEarly .blind
  let s := if wasSeeing then s.eachSlot fun sl s => s.reviewReasons sl else s
  let s := s.noticeAlarm .blind
  if s.engaged then s.blindOrders else s

/-- The end of the silence that makes sight WARN, and BLIND (R168). -/
def State.warnDue (s : State) : Option Nat :=
  s.ring.lastGood.map (· + s.lim.silenceWarnMs)

def State.blindDue (s : State) : Option Nat :=
  s.ring.lastGood.map (· + s.lim.silenceBlindS * 1000)

/-- A threshold that the silence has already passed is reached at a LIMITS commit (R168). -/
def State.reviewSilence (s : State) : State :=
  if s.reached s.blindDue ∧ s.ring.sight ≠ .blind then s.goBlind
  else if s.reached s.warnDue ∧ s.ring.sight = .seeing then s.goWarn
  else s

end Sys2Proof.Machine
end

