-- ==== Sys2Proof/Machine/Commit.lean ====
section
/-! DEFINITION. Table images: the structural checks (R45, R48, R179, R180), the clamps (R46, R179, R180), and the applying of an
image (R13, R20, R41, R50, R80, R112, R139, R148, R151, R162, R168, R181, R182). -/

namespace Sys2Proof.Machine

/-! ## Structural checks -/

/-- The first failing check of a list of checks, each a failure condition with its field index. -/
def firstFail : List (Bool × Nat) → Option Nat
  | [] => none
  | (bad, ix) :: rest => if bad then some ix else firstFail rest

/-- The structural checks of a LIMITS image, in layout order (R179). -/
def State.checkLimits (s : State) (b : List Byte) : Option Nat :=
  let own := s.ring.ownAddress
  let a := b.getD 1 0
  let c := b.getD 2 0
  let slots := (if a = 0xFF then 0 else 1) + (if c = 0xFF then 0 else 1)
  let bound (x : Byte) := s.presentStrs.any fun i => (s.cfg i).claims x
  firstFail [
    (b.getD 0 0 == 0xFF || b.getD 0 0 == own, 0),
    (a != 0xFF && (a == own || a == c || bound a), 1),
    (c != 0xFF && (c == own || c == a || bound c), 2),
    (2 < u8 b 3 || slots < u8 b 3, 3),
    (u8 b 4 == 0 || 7 < u8 b 4, 4),
    (2 < u8 b 5, 5)]

/-- The addresses of a cell range (R180). -/
def StringCfg.cellRange (c : StringCfg) : List Byte :=
  (List.range c.cells).map fun k => BitVec.ofNat 8 (c.cellBase.toNat + k)

/-- An address is own_address or a slot address of the committed LIMITS image that is not 0xFF (R180). -/
def State.ownOrSlot (s : State) (a : Byte) : Bool :=
  a == s.ring.ownAddress || (a != 0xFF && (a == s.lim.slotARect || a == s.lim.slotBRect))

/-- The structural checks of one STRING entry at `off`, against the entries before it (R180). An address taken for its own
string's or an earlier string's role is named on the later field; a cell range that holds a taken address is named on
cell_base (log 13). -/
def State.checkString (s : State) (b : List Byte) (off : Nat) (earlier : List StringCfg) : Option Nat :=
  let c := StringCfg.ofEntry b off
  let taken (a : Byte) := s.ownOrSlot a || earlier.any fun e => e.claims a
  let sh := c.shuntAddr
  let co := c.contactorAddr
  let ma := c.manifoldAddr
  if 1 < bits (u8 b off) 1 0 then some off
  else if !c.present then none
  else firstFail [
    (c.cells < 6 || 24 < c.cells, off + 1),
    (0xFE < c.cellBase.toNat + c.cells - 1 || c.cellRange.any taken, off + 2),
    (sh == 0xFF || taken sh || c.inCellRange sh, off + 3),
    (co == 0xFF || taken co || c.inCellRange co || co == sh, off + 4),
    (ma != 0xFF && (taken ma || c.inCellRange ma || ma == sh || ma == co), off + 5),
    (c.capacityAh < 10 || 3000 < c.capacityAh, off + 6)]

/-- The structural checks of a STRING image, entry by entry from S0 (R180). -/
def State.checkStrings (s : State) (b : List Byte) : Option Nat :=
  allStrs.findSome? fun i =>
    s.checkString b (20 * i.val)
      (((allStrs.filter fun j => j.val < i.val).map fun j => StringCfg.ofImage b j).filter fun e => e.present)

/-- The structural checks of one phase record at `off` (R45). -/
def checkPhase (b : List Byte) (off : Nat) : Option Nat :=
  let p := PhaseRec.ofEntry b off
  let outside (v : Nat) := v < 2000 || 2700 < v
  if phaseUnusedAt b off then none
  else firstFail [
    (u8 b off == 0 || 4 < u8 b off, off),
    (outside p.vSet, off + 1),
    (outside p.vMin, off + 2),
    (outside p.vMax, off + 4),
    (p.vMax < p.vMin, off + 2),
    (p.vSet < p.vMin || p.vMax < p.vSet, off + 1),
    (2 < u8 b (off + 10), off + 10)]

/-- The structural checks of a PHASE image, records 1 to 16 in order (R45). -/
def checkPhases (b : List Byte) : Option Nat :=
  (List.range 16).findSome? fun k => checkPhase b (12 * k)

/-- The check of one recipe entry at index `i`, and of those after it up to the first END (R48). -/
def checkEntries (b phases : List Byte) (r i : Nat) : Nat → Option Nat
  | 0 => none
  | n + 1 =>
    let off := recipeOffset r i
    let arg := u8 b (off + 1)
    match u8 b off with
    | 0 => none
    | 1 => if arg = 0 ∨ 16 < arg ∨ phaseUnused phases arg then some off else checkEntries b phases r (i + 1) n
    | 2 => if arg = 0 ∨ 127 < arg then some off else checkEntries b phases r (i + 1) n
    | 3 => checkEntries b phases r (i + 1) n
    | _ => some off

/-- The structural checks of a RECIPE image, against the committed PHASE image (R48). -/
def checkRecipes (b phases : List Byte) : Option Nat :=
  [1, 2, 3, 4, 5, 6, 7, 8].findSome? fun r => checkEntries b phases r 0 12

/-- The structural checks of a PASS image, entry by entry (R179). -/
def checkPass (b : List Byte) : Option Nat :=
  (List.range 16).findSome? fun e =>
    let off := 6 * e
    let a := u8 b (off + 5)
    if 1 < u8 b off then some off
    else if u8 b off = 0 then none
    else firstFail [
      (1 < bits (u8 b (off + 2)) 1 0, off + 2),
      (2 < bits a 7 6 || (bits a 7 6 == 2 && (bits a 4 0 < 2 || 16 < bits a 4 0)), off + 5)]

/-- The structural checks of a table's image: the field index of the first that fails (R178 step 2). -/
def State.checkImage (s : State) (t : TableId) (b : List Byte) : Option Nat :=
  match t with
  | .limits => s.checkLimits b
  | .string => s.checkStrings b
  | .phase => checkPhases b
  | .recipe => checkRecipes b s.images.phase
  | .pass => checkPass b

/-! ## Clamps (R46, R179, R180) -/

/-- A row of R179's table: the field at `off` of `n` bytes with its range. -/
structure ClampRow where
  off : Nat
  n : Nat
  lo : Int
  hi : Int

/-- The tuning fields of LIMITS with their ranges (R179), by their offsets (11.4). -/
def limitsRanges : List ClampRow := [
  ⟨6, 2, 0, 400⟩, ⟨8, 1, 0, 99⟩, ⟨9, 2, 2100, 2400⟩, ⟨11, 2, 2200, 2600⟩, ⟨13, 2, 2200, 2700⟩, ⟨15, 2, 2250, 2750⟩,
  ⟨17, 2, 10, 1000⟩, ⟨19, 2, 10, 3600⟩, ⟨25, 2, 5, 600⟩, ⟨27, 1, 0, 12⟩,
  ⟨28, 2, 500, 10000⟩, ⟨30, 2, 0, 1000⟩, ⟨32, 1, 1, 240⟩, ⟨33, 2, 10, 3000⟩, ⟨35, 1, 1, 255⟩, ⟨36, 2, 0, 1440⟩,
  ⟨38, 2, 0, 6500⟩, ⟨40, 2, 1, 500⟩, ⟨42, 1, 1, 60⟩, ⟨43, 1, 1, 60⟩, ⟨44, 1, 1, 60⟩, ⟨45, 1, 1, 240⟩, ⟨46, 1, 1, 240⟩,
  ⟨47, 1, 0, 255⟩, ⟨48, 1, 1, 255⟩, ⟨49, 2, 0, 1440⟩, ⟨51, 1, 0, 15⟩, ⟨52, 1, 0, 15⟩, ⟨53, 1, 0, 255⟩, ⟨54, 1, 1, 255⟩,
  ⟨55, 1, 1, 120⟩, ⟨56, 1, 0, 1⟩, ⟨57, 2, 100, 60000⟩, ⟨59, 2, 1, 3600⟩, ⟨61, 1, 1, 255⟩, ⟨62, 4, 0, 1000000⟩,
  ⟨66, 4, 0, 1000000⟩, ⟨70, 1, 1, 200⟩, ⟨71, 1, 1, 4⟩, ⟨72, 2, 1, 500⟩, ⟨74, 1, 1, 255⟩, ⟨75, 2, 1, 999⟩,
  ⟨77, 1, 0, 255⟩, ⟨78, 1, 1, 255⟩, ⟨79, 1, 1, 255⟩, ⟨80, 2, 1, 1440⟩, ⟨82, 2, 0, 1440⟩]

/-- The signed tuning fields of LIMITS: hot_limit and cold_limit (R179, 11.4). -/
def limitsSignedRanges : List ClampRow := [⟨21, 2, 200, 850⟩, ⟨23, 2, -400, 150⟩]

/-- An unsigned field brought into its range. -/
def ClampRow.apply (r : ClampRow) (b : List Byte) : List Byte :=
  putBytes b r.off (bytesSigned r.n (clampInt (field b r.off r.n) r.lo r.hi))

/-- A signed field brought into its range. -/
def ClampRow.applySigned (r : ClampRow) (b : List Byte) : List Byte :=
  putBytes b r.off (bytesSigned r.n (clampInt (sfield b r.off r.n) r.lo r.hi))

/-- cell_cut_mv is raised above cell_ceiling_mv, then reservoir_reserve_ml lowered to the capacity (R179). -/
def adjustLimits (b : List Byte) : List Byte :=
  let b := if field b 15 2 ≤ field b 13 2 then putBytes b 15 (bytesBE 2 (field b 13 2 + 50)) else b
  if field b 62 4 < field b 66 4 then putBytes b 66 (bytesBE 4 (field b 62 4)) else b

/-- The clamps of a LIMITS image (R179). -/
def clampLimits (b : List Byte) : List Byte :=
  adjustLimits (limitsSignedRanges.foldl (fun b r => r.applySigned b) (limitsRanges.foldl (fun b r => r.apply b) b))

/-- A threshold that is 0 or within lo…hi: other values below lo are raised to it (R180). -/
def clampOrZero (v lo hi : Nat) : Nat :=
  if v = 0 then 0 else clampNat v lo hi

/-- The clamps of one STRING entry at `off`; an entry that is not present is kept as loaded (R180, R190). -/
def clampString (b : List Byte) (off : Nat) : List Byte :=
  let c := StringCfg.ofEntry b off
  if !c.present then b
  else
    let flags := bits (u8 b off) 2 0 + 8 * (clampNat c.etaPct 80 100 - 80)
    let cap := 16 * c.capacityAh + clampNat c.autoRecipe 1 8
    let probes := c.probeMask % 2 ^ c.cells
    let due := (clampNat c.dueDays 0 365) * 2 ^ 31 + (clampOrZero c.spreadMv 10 500) * 2 ^ 22
      + (clampNat c.spreadMin 1 1440) * 2 ^ 11 + clampOrZero c.throughputPct 50 2000
    let b := putBytes b off (bytesBE 1 flags)
    let b := putBytes b (off + 6) (bytesBE 2 cap)
    let b := putBytes b (off + 12) (bytesBE 3 probes)
    putBytes b (off + 15) (bytesBE 5 due)

/-- The clamps of a STRING image (R180). -/
def clampStrings (b : List Byte) : List Byte :=
  allStrs.foldl (fun b i => clampString b (20 * i.val)) b

/-- The clamps of one phase record at `off` (R46). -/
def clampPhase (b : List Byte) (off : Nat) : List Byte :=
  let p := PhaseRec.ofEntry b off
  if phaseUnusedAt b off then b
  else
    let value := match p.criterion with
      | .none => 0
      | .taper => min p.critValue 3000
      | .spread => min p.critValue 500
    let hold := match p.criterion with
      | .none => 0
      | _ => clampNat p.critHoldMin 1 240
    let b := putBytes b (off + 4) (bytesBE 3 (p.vMax * 4096 + min p.iSet 3000))
    let b := putBytes b (off + 7) (bytesBE 3 (clampNat p.durationMin 1 1440 * 4096 + value))
    putBytes b (off + 11) (bytesBE 1 hold)

/-- The clamps of a PHASE image (R46). -/
def clampPhases (b : List Byte) : List Byte :=
  (List.range 16).foldl (fun b k => clampPhase b (12 * k)) b

/-- The clamps of a table's image; RECIPE and PASS have none (R48, R178 step 3). -/
def clampImage (t : TableId) (b : List Byte) : List Byte :=
  match t with
  | .limits => clampLimits b
  | .string => clampStrings b
  | .phase => clampPhases b
  | .recipe => b
  | .pass => b

/-! ## Applying a LIMITS image -/

/-- A freshness expiry after stale_s changes to `staleMs`: a value that is fresh takes a new expiry, at or before now it
becomes stale; a stale value stays stale (R13). -/
def State.reExpire (s : State) (staleMs : Nat) (arrival expiry : Option Nat) : Option Nat :=
  match arrival with
  | some t => if s.fresh expiry ∧ s.now < t + staleMs then some (t + staleMs) else none
  | none => none

def State.reExpireCell (s : State) (staleMs : Nat) (c : Cell) : Cell :=
  { c with
    vExpiry := s.reExpire staleMs c.lastV c.vExpiry
    tExpiry := s.reExpire staleMs c.lastT c.tExpiry }

/-- A vector with `f` made on every element, by structural recursion. -/
def mapVector {α β : Type} {n : Nat} (f : α → β) (v : Vector α n) : Vector β n :=
  ⟨⟨v.toList.map f⟩, by simp⟩

/-- The derived values of every present string are recomputed and handed on, from S0 to S7 (log 40), then the bus voltage
(R13, R20). -/
def State.recomputeAll (s : State) : State :=
  (s.eachStr fun i s =>
    if s.present i then
      let old := s.reading i
      ((s.recompute i).handDerived i old).handDry i old
    else s).recomputeBus

/-- A change of stale_s from `before` ms moves the expiries of the fresh values (R13). -/
def State.staleChanged (s : State) (before : Nat) : State :=
  if s.staleMs = before then s
  else
    let cells := mapVector (s.reExpireCell s.staleMs) s.cells
    let strings := mapVector (fun (r : StringRec) =>
      { r with reading :=
          { r.reading with tvExpiry := s.reExpire s.staleMs r.reading.lastTV r.reading.tvExpiry } }) s.strings
    { s with cells := cells, strings := strings }.recomputeAll

/-- The blocks act on a new LIMITS image (R13, R139, R148, R151, R168, R181 step 2); `staleBefore` is stale_s in ms before it. -/
def State.limitsApplied (s : State) (staleBefore : Nat) : State :=
  let s := s.staleChanged staleBefore
  let s := s.setReservoir (s.reserveClamp (min s.water.reservoir s.lim.reservoirCapacityMl))
  let s := s.modSite fun t =>
    { t with
      allowance := s.lim.allowanceMin, lowWindows := 0, okWindows := 0
      window := if t.measuring then some ⟨s.now, 0⟩ else none }
  s.reviewSilence

/-! ## Applying a STRING image -/

/-- The level of a position under the probe rule (R20). -/
def probeLevel (probe : Bool) (lv : Level) : Level :=
  if probe then (if lv = .noProbe then .unknown else lv) else .noProbe

/-- The cell record of position `p` after a STRING commit replaces `old` by `new` (R20). -/
def commitCell (old new : StringCfg) (p : Pos) (c : Cell) : Cell :=
  if !new.present then {}
  else
    let moved := !old.present || old.cellBase != new.cellBase || old.cells != new.cells
    let c := if moved then {} else c
    if new.cells ≤ p.val then c
    else if moved || old.probeMask != new.probeMask then { c with level := probeLevel (new.hasProbe p) c.level }
    else c

/-- The charge half after a STRING commit (R41). -/
def commitCharge (old new : StringCfg) (c : Charge) : Charge :=
  if !new.present || !old.present then {}
  else if c.qBal < -(new.capacityC : Int) then
    { c with tPrev := none, qBal := -(new.capacityC : Int), floor := true }
  else { c with tPrev := none }

/-- The reading half after a STRING commit, before the derived values are recomputed (R20). -/
def commitReading (old new : StringCfg) (r : Reading) : Reading :=
  if !new.present || !old.present then {}
  else
    let r := if old.shuntAddr = new.shuntAddr then r else { r with terminalV := none, lastTV := none, tvExpiry := none }
    if old.contactorAddr = new.contactorAddr then r else { r with lastPosition := none }

/-- The control half after a STRING commit (R80). -/
def commitControl (old new : StringCfg) (c : Control) : Control :=
  if !new.present then {}
  else if !old.present then { state := .onBus }
  else c

/-- The records of one string after a STRING commit (R20, R41, R80). -/
def State.commitString (s : State) (old : List Byte) (i : Str) : State :=
  let o := StringCfg.ofImage old i
  let n := s.cfg i
  let s := allPos.foldl (fun s p => s.modCell (cellIx i p) (commitCell o n p)) s
  s.modStr i fun r => ⟨commitReading o n r.reading, commitCharge o n r.charge, commitControl o n r.control⟩

/-- Entries leave the queue at a commit: those for which `gone` holds without a notice, those for which `dropped` holds with
a QUEUE DROPPED notice each, in queue order (R112). -/
def State.removeAtCommit (s : State) (gone dropped : Entry → Bool) : State :=
  let notices := s.queue.filter fun e => !gone e && dropped e
  let s := { s with queue := s.queue.filter fun e => !(gone e || dropped e) }
  notices.foldl (fun s e => s.noticeDropped e.string e.kind) s

/-- The blocks act on a new STRING image that replaces `old` (R20, R41, R80, R112, R181 step 2). -/
def State.stringsApplied (s : State) (old : List Byte) : State :=
  let s := s.eachStr fun i s => s.commitString old i
  let s := s.recomputeAll
  let s := s.eachStr fun i s => if s.present i then s.judgeSpreadTimer i else s
  let s := s.rejudgeDischarge
  s.removeAtCommit (fun e => !s.present e.string) (fun e => e.kind == .water && !(s.cfg e.string).hasManifold)

/-! ## Applying any image (R181) -/

/-- The recipes that are empty, as handed to the Scheduler after a PHASE or RECIPE commit, and their entries' removal (R50,
R112). -/
def State.recipesJudged (s : State) : State :=
  s.removeAtCommit (fun _ => false) (fun e => e.kind == .equalise && s.recipeIsEmpty e.recipe)

/-- The image replaces the committed image of its table (R181 step 1). -/
def Images.put (i : Images) (t : TableId) (b : List Byte) : Images :=
  match t with
  | .limits => { i with limits := b }
  | .string => { i with string := b }
  | .phase => { i with phase := b }
  | .recipe => { i with recipe := b }
  | .pass => { i with pass := b }

/-- The committed image of a table (R175). -/
def Images.get (i : Images) : TableId → List Byte
  | .limits => i.limits
  | .string => i.string
  | .phase => i.phase
  | .recipe => i.recipe
  | .pass => i.pass

/-- A table joins loaded (R173). -/
def Loaded.add (l : Loaded) : TableId → Loaded
  | .limits => { l with limits := true }
  | .string => { l with string := true }
  | .phase => { l with phase := true }
  | .recipe => { l with recipe := true }
  | .pass => { l with pass := true }

/-- The blocks act on the image of `t` just put in place of `old` (R181 step 2). -/
def State.blocksAct (s : State) (t : TableId) (old : List Byte) (staleBefore : Nat) : State :=
  match t with
  | .limits => s.limitsApplied staleBefore
  | .string => s.stringsApplied old
  | .phase => s.recipesJudged
  | .recipe => s.recipesJudged
  | .pass => s.modRing fun r => { r with thin := Vector.replicate 16 0 }

/-- staging becomes EMPTY (R176, R181 step 3, R187). -/
def Mgmt.emptied (m : Mgmt) : Mgmt :=
  { m with staging := .empty, stagedTable := none, stagedTotal := none, staged := [] }

/-- The mode becomes ENGAGED: a site condition clearing (R182). -/
def State.engage (s : State) : State :=
  (s.modMgmt fun m => { m with mode := .engaged, engagedOnce := true }).markScan

/-- The mode becomes TRANSPARENT: the order queue is emptied (R171, R182). DESIGN CHOICE (log 44): the notices already in the
reply queue stay and are sent. -/
def State.disengage (s : State) : State :=
  (s.modMgmt fun m => { m with mode := .transparent }).modRing fun r => { r with orders := [] }

/-- An image is applied, in the order of R181. -/
def State.applyImage (s : State) (t : TableId) (b : List Byte) : State :=
  let old := s.images.get t
  let stale := s.staleMs
  let s := { s with images := s.images.put t b }.modMgmt fun m => { m with loaded := m.loaded.add t }
  let s := s.blocksAct t old stale
  let s := s.modMgmt Mgmt.emptied
  let s := if !s.mgmt.engagedOnce && s.mgmt.loaded.limits && s.mgmt.loaded.string then s.engage else s
  s.markScan

/-- A pending image is applied when no string is bound and the Watering Unit is IDLE (R181). -/
def State.applyPending (s : State) : State :=
  match s.commitPending && s.mayApply, s.mgmt.stagedTable with
  | true, some t => s.applyImage t s.mgmt.staged
  | _, _ => s

/-! ## What follows every event (log 5) -/

/-- A deferred commit made applicable by this event is applied as part of it (R181). -/
def State.deferredCommit (s : State) : State :=
  let t := { s with marks := { s.marks with commit := false } }
  if s.marks.commit then t.applyPending else t

end Sys2Proof.Machine
end

