-- ==== Sys2Proof/Machine/Output.lean ====
section
/-! DEFINITION. The output arbiter (R167), and the settlement that ends every event (log 5): the outputs of the Site Line Unit, a
deferred commit that the event made applicable, the scans it started, and the arbiter. -/

namespace Sys2Proof.Machine

/-! ## The arbiter (R167) -/

/-- The three places from which the arbiter takes a frame. -/
inductive Place where
  | reply | forward | order
  deriving DecidableEq, Repr

/-- The choice at a frame boundary: the first line of R167's table that applies; none while no place holds a frame. -/
def Ring.choose (r : Ring) : Option Place :=
  if !r.replies.isEmpty && 8 ≤ r.replyWait then some .reply
  else if !r.forward.isEmpty && 2 ≤ r.fwdSkip then some .forward
  else if !r.orders.isEmpty then some .order
  else if !r.forward.isEmpty then some .forward
  else if !r.replies.isEmpty then some .reply
  else none

/-- reply_wait after a frame from the forward buffer or the order queue has begun (R167). -/
def Ring.waitUp (r : Ring) : Nat :=
  if r.replies.isEmpty then r.replyWait else min 8 (r.replyWait + 1)

/-- fwd_skip after an inserted frame has begun (R167). -/
def Ring.skipUp (r : Ring) : Nat :=
  if r.forward.isEmpty then r.fwdSkip else min 2 (r.fwdSkip + 1)

/-- The head of the forward buffer begins transmission (R163, R167). -/
def Ring.beginForward (now : Nat) (r : Ring) : Ring :=
  match r.forward with
  | [] => r
  | f :: fs =>
    let r := { r with forward := fs, sending := some ⟨f, none, now⟩ }
    { r with replyWait := r.waitUp, fwdSkip := 0 }

/-- The head of the order queue begins transmission (R164, R167). -/
def Ring.beginOrder (now : Nat) (r : Ring) : Ring :=
  match r.orders with
  | [] => r
  | o :: os =>
    let r := { r with orders := os, sending := some ⟨o.frame, some o.number, now⟩ }
    { r with replyWait := r.waitUp, fwdSkip := r.skipUp }

/-- The head of the reply queue begins transmission (R166, R167). -/
def Ring.beginReply (now : Nat) (r : Ring) : Ring :=
  match r.replies with
  | [] => r
  | f :: fs =>
    let r := { r with replies := fs, sending := some ⟨f, none, now⟩ }
    { r with replyWait := 0, fwdSkip := r.skipUp }

/-- The arbiter at a frame boundary: it acts only while the output is idle (R167). -/
def Ring.arbitrate (now : Nat) (r : Ring) : Ring :=
  match r.sending with
  | some _ => r
  | none =>
    match r.choose with
    | some .reply => r.beginReply now
    | some .forward => r.beginForward now
    | some .order => r.beginOrder now
    | none => r

def State.arbitrate (s : State) : State :=
  s.modRing (Ring.arbitrate s.now)

/-! ## Settlement (log 5) -/

/-- The end of an event: the deferred commit, the scans and the arbiter, with the site outputs judged before and after the commit
and after the scans, and the event-local marks cleared. Before the commit, because a slot hands its stop before its string's slot
is freed (R75, R100), and only the freeing lets the commit be applied (R70, R181): the run-on that a stop starts takes the
run_on_min of before the commit (R150). Before the scans, because R145, R149 and R155 judge at every change of their inputs: a
lamp that the event puts out starts anew when a scan lights it again. -/
def State.settle (s : State) : State :=
  { s.followSite.deferredCommit.followSite.scan.followSite.arbitrate with marks := {} }

/-- An event whose effect hands nothing to another block: `dt` ms pass and the effect takes place. -/
def quietEvent (dt : Nat) (eff : State → State) (s : State) : Result :=
  .next (eff (s.begin dt))

/-- An event: `dt` ms pass, the effect takes place, and the event settles. -/
def event (dt : Nat) (eff : State → State) (s : State) : Result :=
  .next (eff (s.begin dt)).settle

/-- An event that the part takes only when its condition holds after `dt` ms; otherwise nothing but the time passes
(log 2). -/
def eventIf (dt : Nat) (cond : State → Bool) (eff : State → State) (s : State) : Result :=
  if cond (s.begin dt) then event dt eff s else .next (s.begin dt)

end Sys2Proof.Machine
end

