-- ==== Sys2Proof/Machine/Window.lean ====
section
/-! DEFINITION. The records of the window and the data of STATUS as the part sends them (11.5), by the codes of 11.3. -/

namespace Sys2Proof.Machine

/-! ## Codes (11.3) -/

def StringState.code : StringState → Nat
  | .absent => 0
  | .onBus => 1
  | .called => 2
  | .equalising => 3
  | .returning => 4
  | .faulted => 5
  | .out => 6

def EntryState.code : EntryState → Nat
  | .run => 1
  | .suspended => 2
  | .wait => 3
  | .waterWait => 4
  | .direct => 5

def ResumeState.code : ResumeState → Nat
  | .run => 1
  | .direct => 2

def Level.code : Level → Nat
  | .unknown => 0
  | .high => 1
  | .normal => 2
  | .low => 3
  | .dry => 4
  | .noProbe => 5

def Sight.code : Sight → Nat
  | .seeing => 0
  | .warn => 1
  | .blind => 2

def Staging.code : Staging → Nat
  | .empty => 0
  | .receiving => 1
  | .pending => 2

def TableId.code : TableId → Nat
  | .limits => 1
  | .string => 2
  | .phase => 3
  | .recipe => 4
  | .pass => 5

def Mode.code : Mode → Nat
  | .transparent => 0
  | .engaged => 1

def Variant.code : Variant → Nat
  | .normal => 1
  | .gas => 2
  | .fast => 3

/-- The command of a RECT order in a record: 0 absent, 1 OFF, 2 ON (the SLOT row of 11.5). -/
def commandCode : Option RectOrder → Nat
  | none => 0
  | some .off => 1
  | some (.on _ _) => 2

/-- The string of a slot in a record: 15 for none (11.5). -/
def boundCode : Option Str → Nat
  | some i => i.val
  | none => 15

/-! ## Fields -/

/-- One byte of a record. -/
def byteOf (n : Nat) : Byte :=
  BitVec.ofNat 8 n

/-- A 2-byte unsigned item, 0xFFFF when absent (11.5). -/
def optWord (v : Option Nat) : List Byte :=
  bytesBE 2 (v.getD 0xFFFF)

/-- A signed temperature, 0x7FFF when absent (11.5). -/
def optTemp (v : Option Int) : List Byte :=
  bytesSigned 2 (v.getD 0x7FFF)

/-- A voltage limit and a current limit of a RECT order, 2 bytes each; an OFF order carries zeros (R59, 11.5). -/
def orderLimits : Option RectOrder → List Byte
  | none => optWord none ++ optWord none
  | some .off => bytesBE 2 0 ++ bytesBE 2 0
  | some (.on v i) => bytesBE 2 v ++ bytesBE 2 i

/-- The time left to `t` in units of `unit` ms, rounded up (11.5). -/
def State.timeLeft (s : State) (unit t : Nat) : Nat :=
  ceilDiv (t - s.now) unit

/-- A time of the SLOT record in whole seconds; the manual states no rounding (log 16). -/
def slotSeconds (ms : Nat) : Nat :=
  if ms % 1000 = 0 then ms / 1000
  else if Config.slotSecondsRoundUp ms then ms / 1000 + 1
  else ms / 1000

/-! ## The CELL record, 11 bytes -/

/-- Byte 4 of a CELL record: level, the two freshness flags, watering_fault and unconfirmed. -/
def State.cellFlags (s : State) (c : Cell) : Nat :=
  c.level.code + flag (s.fresh c.vExpiry) 3 + flag (s.fresh c.tExpiry) 4 + flag c.wateringFault 5 + 64 * c.unconfirmed

/-- Minutes to confirm_deadline, rounded up; 0xFF when absent. -/
def State.deadlineByte (s : State) (c : Cell) : Byte :=
  match c.confirmDeadline with
  | some t => byteOf (s.timeLeft 60000 t)
  | none => 0xFF

def State.cellRecord (s : State) (c : Cell) : List Byte :=
  optWord c.voltage ++ optTemp c.temp ++ [byteOf (s.cellFlags c)] ++ bytesBE 3 c.deficit ++ bytesBE 2 c.lastDose
    ++ [s.deadlineByte c]

/-! ## The QUEUE record, 6 bytes -/

def queueRecord (e : Entry) : List Byte :=
  [byteOf (e.string.val + 8 * e.kind.code + 16 * e.priority.code + 32 * e.origin.code),
    byteOf (16 * e.recipe + e.reason.code)] ++ stampBytes (some e.stamp)

/-! ## The SLOT record, 22 bytes -/

/-- Byte 2 of a SLOT record. -/
def SlotRec.stateByte (r : SlotRec) : Nat :=
  (match r.entryState with | some e => e.code | none => 0) + 8 * (match r.resumeState with | some e => e.code | none => 0)
    + flag r.cut 5 + flag r.waterCalled 6 + flag r.triggerStarted 7

/-- The priority bit of a SLOT record; the manual names no value for an absent one (log 17). -/
def SlotRec.priorityBit (r : SlotRec) : Bool :=
  match r.priority with
  | some p => p == .urgent
  | none => Config.absentPriority

/-- Byte 3 of a SLOT record: the reasons from bit 0, the priority, and the command of last_order. -/
def SlotRec.reasonsByte (r : SlotRec) : Nat :=
  flag r.reasons.source 0 + flag r.reasons.stale 1 + flag r.reasons.hot 2 + flag r.reasons.blind 3
    + flag r.priorityBit 4 + 32 * commandCode r.lastOrder

/-- Byte 4 of a SLOT record: the reason, and the presence flags from bit 0 upward (log 23). -/
def SlotRec.presenceByte (r : SlotRec) : Nat :=
  16 * reasonCode r.reason + flag r.sourceWaitStart.isSome 0 + flag r.critStart.isSome 1 + flag r.settleEnd.isSome 2
    + flag r.entryEnd.isSome 3

def slotRecord (r : SlotRec) : List Byte :=
  [byteOf (16 * boundCode r.string + r.recipe), byteOf (16 * r.index + r.entriesCompleted), byteOf r.stateByte,
    byteOf r.reasonsByte, byteOf r.presenceByte]
    ++ bytesBE 2 r.limit ++ orderLimits r.lastOrder ++ bytesBE 2 r.dEff ++ bytesBE 3 (slotSeconds r.runElapsed)
    ++ bytesBE 2 (slotSeconds r.suspendedTotal) ++ bytesBE 2 r.directV ++ bytesBE 2 r.directI

/-! ## The STRING record, 46 bytes -/

/-- The slot of a string in the STRING record: 0 none, 1 A, 2 B. -/
def slotField : Option SlotId → Nat
  | none => 0
  | some .A => 1
  | some .B => 2

/-- Byte 0 of a STRING record. -/
def Control.stateByte (c : Control) : Nat :=
  c.state.code + 8 * slotField c.slot + 32 * (match c.variant with | some v => v.code | none => 0)
    + flag (c.step == some .confirm) 7

/-- Byte 1 of a STRING record, from bit 0 upward. -/
def StringRec.flagsByte (r : StringRec) : Nat :=
  flag r.charge.assumed 0 + flag r.charge.gap 1 + flag r.charge.floor 2 + flag r.charge.discharging 3
    + flag r.reading.dry 4 + flag r.control.heldOrder.isSome 5 + flag r.charge.fullTimer.isSome 6
    + flag r.charge.spreadTimer.isSome 7

/-- Byte 2 of a STRING record. 11.5 lists no codes for its rect_order command: those of the SLOT row are taken (DEDUCED,
log 48). -/
def StringRec.endByte (r : StringRec) : Nat :=
  endReasonCode r.control.endReason + 32 * commandCode r.control.rectOrder + flag r.charge.disStart.isSome 7

/-- The position of a contactor in bits 7:5, 7 for absent. -/
def positionCode : Option Contact → Nat
  | some c => c.code
  | none => 7

/-- confirm_left in seconds rounded up, 0xFF when absent. -/
def confirmByte : Option Nat → Byte
  | some t => byteOf (ceilDiv t 1000)
  | none => 0xFF

/-- Bytes 35 to 41: last_eq_outcome. Without an outcome its reason and its end reason are the 0 of an absent code (11.3, R188);
the other assigned bits are free (log 17). -/
def eqOutcomeBytes : Option OutcomeRecord → List Byte
  | some o => [byteOf (16 * o.recipe + o.entries), byteOf (16 * reasonCode o.reason + flag o.cut 0),
      byteOf (endReasonCode o.endReason)] ++ bytesBE 4 o.amount
  | none => [Config.absentEqOutcome 35, Config.absentEqOutcome 36 &&& 0x01, 0, Config.absentEqOutcome 38,
      Config.absentEqOutcome 39, Config.absentEqOutcome 40, Config.absentEqOutcome 41]

/-- Bytes 42 to 45: last_water_outcome. Without an outcome its reason and its end reason are the 0 of an absent code (11.3, R188),
its other assigned bits are free, and its round_ml is the absent value of a 2-byte field (log 17). -/
def waterOutcomeBytes : Option OutcomeRecord → List Byte
  | some o => bytesBE 2 (2048 * endReasonCode o.endReason + 128 * reasonCode o.reason + flag o.cut 6 + o.entries)
      ++ bytesBE 2 o.amount
  | none => bytesBE 2 (Config.absentWaterOutcome &&& 0x5F).toNat ++ optWord none

/-- A STRING record; terminal_v is shown as it is stored, fresh or stale (R12). -/
def State.stringRecord (s : State) (i : Str) : List Byte :=
  let r := s.str i
  [byteOf r.control.stateByte, byteOf r.flagsByte, byteOf r.endByte]
    ++ bytesSigned 4 r.charge.qBal ++ bytesSigned 2 r.charge.fine ++ bytesBE 2 r.charge.wAcc
    ++ bytesBE 4 r.charge.oTotal ++ bytesBE 4 r.charge.dDis
    ++ bytesSigned 2 r.charge.current ++ bytesBE 2 r.charge.daysSinceEq ++ stampBytes r.control.holdoffUntil
    ++ optWord r.reading.terminalV ++ optTemp r.reading.ts ++ optWord r.reading.spread
    ++ [byteOf (r.reading.freshCells + 32 * positionCode r.reading.lastPosition), confirmByte r.control.confirmLeft]
    ++ eqOutcomeBytes r.control.lastEqOutcome ++ waterOutcomeBytes r.control.lastWaterOutcome

/-! ## The record at an index (R183) -/

/-- The record of a space at an index; none past the end of the space. -/
def State.record (s : State) (sp : Space) (ix : Nat) : Option (List Byte) :=
  match sp with
  | .cell => if h : ix < 192 then some (s.cellRecord (s.cell ⟨ix, h⟩)) else none
  | .string => if h : ix < 8 then some (s.stringRecord ⟨ix, h⟩) else none
  | .queue => s.queue[ix]?.map queueRecord
  | .slot => match ix with
    | 0 => some (slotRecord s.slotA)
    | 1 => some (slotRecord s.slotB)
    | _ => none

/-- The number of records of a space (R183). -/
def State.spaceSize (s : State) : Space → Nat
  | .cell => 192
  | .string => 8
  | .queue => s.queue.length
  | .slot => 2

/-- The number of records of a space that one READ carries: as many as fit in 46 bytes (R183, 11.5). -/
def Space.perRead : Space → Nat
  | .cell => 4
  | .string => 1
  | .queue => 7
  | .slot => 2

/-- `n` records from an index on. -/
def State.records (s : State) (sp : Space) (ix : Nat) : Nat → List Byte
  | 0 => []
  | n + 1 => (s.record sp ix).getD [] ++ s.records sp (ix + 1) n

/-! ## STATUS, 31 bytes (R175) -/

/-- Bytes 3 and 4 of STATUS: a slot's string and that string's state. -/
def State.slotStatus (s : State) (sl : SlotId) : Byte :=
  match (s.slot sl).string with
  | some i => byteOf (16 * i.val + (s.control i).state.code)
  | none => byteOf (16 * 15)

/-- The part code of STATUS (11.5). -/
def partCode : Nat := 0x4820

def State.statusData (s : State) : List Byte :=
  [byteOf (s.mgmt.mode.code + 2 * s.ring.sight.code + flag s.site.gasLatch 3 + flag s.site.fanFail 4
      + flag s.discharge 5 + flag s.holdoffEnd.isSome 6 + flag s.ring.noticeLost 7),
    byteOf (s.mgmt.staging.code + 4 * (match s.mgmt.stagedTable with | some t => t.code | none => 0)
      + flag (s.water.state == .idle) 5),
    byteOf s.mgmt.staged.length, s.slotStatus .A, s.slotStatus .B, byteOf s.queue.length]
    ++ bytesBE 4 s.water.reservoir ++ bytesBE 2 s.site.allowance ++ bytesBE 2 s.mgmt.clock.day
    ++ bytesBE 2 s.mgmt.clock.minute ++ bytesBE 2 s.ring.counts.runt ++ bytesBE 2 s.ring.counts.badCheck
    ++ bytesBE 2 s.ring.counts.overflow ++ bytesBE 2 s.ring.counts.requestDrop ++ bytesBE 2 s.ring.counts.policed
    ++ bytesBE 2 s.ring.counts.orderDrop ++ bytesBE 2 partCode ++ [Config.revision]

end Sys2Proof.Machine
end

