-- ==== Sys2Proof/Machine/Manage.lean ====
section
/-! DEFINITION. The Management Agent's requests (R174 to R187) and String Control's and the Scheduler's answers to them (R77,
R78, R110, R111), one definition per request, and the placing of the reply (R160, R166, R172). -/

namespace Sys2Proof.Machine

/-! ## Answers (R174, R189) -/

/-- Status codes of a reply (11.3). -/
inductive Status where
  | ok | deferred | ended | busy | notAllowed | badArg | incomplete | badTable | unknown
  deriving DecidableEq, Repr

def Status.code : Status → Nat
  | .ok => 0
  | .deferred => 1
  | .ended => 2
  | .busy => 3
  | .notAllowed => 4
  | .badArg => 5
  | .incomplete => 7
  | .badTable => 8
  | .unknown => 9

/-- What a request comes to: the state it leaves, and its reply's status, record count and data. -/
structure Answer where
  state : State
  status : Status
  count : Nat := 0
  data : List Byte := []

/-- A refusal: no state changes (R174, 00 section 3.6). -/
def State.refuse (s : State) (st : Status) : Answer :=
  ⟨s, st, 0, []⟩

/-- A request that is answered OK without data. -/
def State.accept (s : State) : Answer :=
  ⟨s, .ok, 0, []⟩

/-- A request that names a string: BAD_ARG for an index above 7 or a string that is not present (R185). -/
def State.withStr (s : State) (b : Byte) (f : Str → Answer) : Answer :=
  match strOf b with
  | some i => if s.present i then f i else s.refuse .badArg
  | none => s.refuse .badArg

/-! ## STATUS and TABLE_READ (R175) -/

/-- STATUS: the snapshot, and notice_lost cleared by its building (R166, R175). -/
def State.askStatus (s : State) : Answer :=
  ⟨s.modRing fun r => { r with noticeLost := false }, .ok, 0, s.statusData⟩

/-- TABLE_READ (R175). -/
def State.askTableRead (s : State) (table offset n : Byte) : Answer :=
  match tableOf table with
  | none => s.refuse .badArg
  | some t =>
    if n.toNat = 0 ∨ 44 < n.toNat ∨ t.size < offset.toNat + n.toNat then s.refuse .badArg
    else ⟨s, .ok, 0, ((s.images.get t).drop offset.toNat).take n.toNat⟩

/-! ## Loading a table (R176 to R178) -/

/-- LOAD_BEGIN (R176). -/
def State.askLoadBegin (s : State) (table : Byte) (total : Nat) : Answer :=
  match tableOf table with
  | none => s.refuse .badArg
  | some t =>
    if s.mgmt.staging ≠ .empty then s.refuse .busy
    else if total ≠ t.size then s.refuse .badArg
    else (s.modMgmt fun m =>
      { m with staging := .receiving, stagedTable := some t, stagedTotal := some total, staged := [] }).accept

/-- LOAD_PART (R176, R177). -/
def State.askLoadPart (s : State) (offset : Nat) (data : List Byte) : Answer :=
  if data.length = 0 ∨ 44 < data.length then s.refuse .badArg
  else if s.mgmt.staging ≠ .receiving then s.refuse .notAllowed
  else if offset ≠ s.mgmt.staged.length ∨ s.mgmt.stagedTotal.getD 0 < offset + data.length then s.refuse .badArg
  else ⟨s.modMgmt fun m => { m with staged := m.staged ++ data }, .ok, 0, [byteOf (offset + data.length)]⟩

/-- A complete staged image of table `t` is checked, clamped, and applied or left pending (R178 steps 2 to 4). -/
def State.commitStaged (s : State) (t : TableId) : Answer :=
  match s.checkImage t s.mgmt.staged with
  | some ix => ⟨s.modMgmt Mgmt.emptied, .badTable, 0, [byteOf ix]⟩
  | none =>
    let b := clampImage t s.mgmt.staged
    if s.mayApply then (s.applyImage t b).accept
    else ⟨s.modMgmt fun m => { m with staging := .pending, staged := b }, .deferred, 0, []⟩

/-- LOAD_COMMIT (R176, R178). -/
def State.askLoadCommit (s : State) : Answer :=
  match s.mgmt.staging, s.mgmt.stagedTable with
  | .receiving, some t =>
    if some s.mgmt.staged.length = s.mgmt.stagedTotal then s.commitStaged t else s.refuse .incomplete
  | _, _ => s.refuse .notAllowed

/-- Staging is emptied; dropping a pending image ends the admission hold, which starts a scan (R119, R176). -/
def State.discardStaging (s : State) : State :=
  let t := s.modMgmt Mgmt.emptied
  if s.commitPending then t.markScan else t

/-- LOAD_DISCARD (R176). -/
def State.askLoadDiscard (s : State) : Answer :=
  s.discardStaging.accept

/-! ## The record window (R183, R184) -/

/-- CURSOR (R183). -/
def State.askCursor (s : State) (space index : Byte) : Answer :=
  match spaceOf space with
  | none => s.refuse .badArg
  | some sp =>
    if sp.lastIndex < index.toNat then s.refuse .badArg
    else if s.mgmt.held then s.refuse .notAllowed
    else (s.modMgmt fun m => { m with cursor := ⟨sp, index.toNat⟩ }).accept

/-- The cursor advances by `n` records. -/
def Mgmt.advance (n : Nat) (m : Mgmt) : Mgmt :=
  { m with cursor := { m.cursor with index := m.cursor.index + n } }

/-- The number of records a READ of `n` carries (R183). -/
def State.readCount (s : State) (n : Nat) : Nat :=
  min (min n s.mgmt.cursor.space.perRead) (s.spaceSize s.mgmt.cursor.space - s.mgmt.cursor.index)

/-- READ (R183). -/
def State.askRead (s : State) (n : Byte) : Answer :=
  let c := s.mgmt.cursor
  if n.toNat = 0 then s.refuse .badArg
  else if s.spaceSize c.space ≤ c.index then s.refuse .ended
  else
    let k := s.readCount n.toNat
    ⟨if s.mgmt.held then s else s.modMgmt (Mgmt.advance k), .ok, k, s.records c.space c.index k⟩

/-- HOLD (R183). -/
def State.askHold (s : State) : Answer :=
  (s.modMgmt fun m => { m with mark := some m.cursor, held := true }).accept

/-- RELEASE (R183). -/
def State.askRelease (s : State) : Answer :=
  if s.mgmt.held then
    (s.modMgmt fun m => { m with cursor := m.mark.getD m.cursor, mark := none, held := false }).accept
  else s.refuse .notAllowed

/-- The cell record after a WRITE (R184). -/
def Cell.written (mg : Nat) (c : Cell) : Cell :=
  { c with deficit := min 999999 mg, wateringFault := false, unconfirmed := 0 }

/-- A cell index is the record of a position of a present string (R1, R184). -/
def State.cellUsed (s : State) (i : CellIx) : Bool :=
  s.present (cellStr i) && decide ((cellPos i).val < (s.cfg (cellStr i)).cells)

/-- A WRITE to the cell record at index `ix` (R184). -/
def State.writeCell (s : State) (ix : Nat) (mg : Nat) : Answer :=
  if h : ix < 192 then
    if s.cellUsed ⟨ix, h⟩ then ((s.modCell ⟨ix, h⟩ (Cell.written mg)).modMgmt (Mgmt.advance 1)).accept
    else s.refuse .notAllowed
  else s.refuse .ended

/-- Q_bal of an account after a WRITE (R29). -/
def Charge.writeBalance (capacityC : Nat) (v : Int) (c : Charge) : Charge :=
  { c with
    qBal := clampInt v (-(capacityC : Int)) 0, fine := 0, assumed := false, floor := false, gap := false }

/-- The items of a STRING WRITE that `select` carries are written together, and the changes handed on (R29). -/
def State.writeItems (s : State) (i : Str) (select : Nat) (q : Int) (days : Nat) : State :=
  let old := s.charge i
  let s := if bit select 0 then s.modCharge i (Charge.writeBalance (s.cfg i).capacityC q) else s
  let s := if bit select 1 then s.modCharge i fun c => { c with daysSinceEq := days } else s
  let s := if bit select 2 then s.modControl i fun c => { c with holdoffUntil := none } else s
  s.accountChanged i old

/-- A WRITE to the string record at index `ix` (R184). -/
def State.writeString (s : State) (ix select : Nat) (q : Int) (days : Nat) : Answer :=
  if h : ix < 8 then
    if s.present ⟨ix, h⟩ then ((s.writeItems ⟨ix, h⟩ select q days).modMgmt (Mgmt.advance 1)).accept
    else s.refuse .notAllowed
  else s.refuse .ended

/-- WRITE (R184). The argument bytes are those of the space the cursor stands in (11.2). -/
def State.askWrite (s : State) (a : List Byte) : Answer :=
  let c := s.mgmt.cursor
  match c.space with
  | .cell => if a.length < 4 then s.refuse .badArg else s.writeCell c.index (field a 0 4)
  | .string =>
    if a.length < 7 then s.refuse .badArg else s.writeString c.index (u8 a 0) (sfield a 1 4) (field a 5 2)
  | .queue => if s.queue.length ≤ c.index then s.refuse .ended else s.refuse .notAllowed
  | .slot => if 2 ≤ c.index then s.refuse .ended else s.refuse .notAllowed

/-! ## Rounds and strings (R77, R78, R110, R111, R185) -/

/-- The BAD_ARG conditions of an ENQUEUE for a present string (R110, R185). -/
def State.enqueueBad (s : State) (i : Str) (k : RoundKind) (recipe : Nat) : Bool :=
  8 < recipe ||
    match k with
    | .equalise => s.recipeIsEmpty recipe
    | .water => !(s.cfg i).hasManifold

/-- The Scheduler's refusal of an ENQUEUE (R110). -/
def State.enqueueBarred (s : State) (i : Str) (k : RoundKind) : Bool :=
  (k == .equalise && s.bound i) || s.inState i .out

/-- The entry of an ENQUEUE; a WATER entry holds recipe 0 (R110). -/
def State.requestedEntry (s : State) (i : Str) (k : RoundKind) (recipe : Nat) (p : Priority) : Entry where
  string := i
  kind := k
  recipe := match k with | .equalise => recipe | .water => 0
  reason := .request
  priority := p
  origin := .request
  stamp := s.mgmt.clock

/-- ENQUEUE (R110, R185). -/
def State.askEnqueue (s : State) (string kind recipe priority : Byte) : Answer :=
  s.withStr string fun i =>
    match roundKindOf kind, priorityOf priority with
    | some k, some p =>
      if s.enqueueBad i k recipe.toNat then s.refuse .badArg
      else if s.enqueueBarred i k then s.refuse .notAllowed
      else (s.enqueue (s.requestedEntry i k recipe.toNat p)).accept
    | _, _ => s.refuse .badArg

/-- An entry leaves the queue by CANCEL; the cancellation of a WATER entry is reported to a slot in WATER_WAIT (R111). -/
def State.cancelEntry (s : State) (i : Str) (k : RoundKind) : State :=
  let s := (s.removeEntry i k).markScan
  match k with
  | .water => s.reportToSlot i
  | .equalise => s

/-- CANCEL (R111). -/
def State.askCancel (s : State) (string kind : Byte) : Answer :=
  match strOf string, roundKindOf kind with
  | some i, some k => if s.queued i k then (s.cancelEntry i k).accept else s.refuse .notAllowed
  | _, _ => s.refuse .badArg

/-- The string holds a round in CALLED or EQUALISING. -/
def State.inRound (s : State) (i : Str) : Bool :=
  s.inState i .called || s.inState i .equalising

/-- ABORT_REQUEST ends the string's equalising round, then its watering round (R134, R185); that String Control takes it first
is DEDUCED (log 4). -/
def State.abortRounds (s : State) (i : Str) : State :=
  let t := if s.inRound i then s.endCause i .abortRequest else s
  if s.watering i then t.endWateringEarly .abortRequest else t

/-- ABORT (R185). -/
def State.askAbort (s : State) (string : Byte) : Answer :=
  s.withStr string fun i =>
    if s.inRound i || s.watering i then (s.abortRounds i).accept else s.refuse .notAllowed

/-- The slot in which the string runs a DIRECT round (R102, R185). -/
def State.directSlot (s : State) (i : Str) : Option SlotId :=
  if s.inState i .equalising then
    match (s.control i).slot with
    | some sl => if (s.slot sl).recipe = 0 then some sl else none
    | none => none
  else none

/-- DIRECT (R102, R185). -/
def State.askDirect (s : State) (string : Byte) (v i : Nat) : Answer :=
  s.withStr string fun str =>
    match s.directSlot str with
    | some sl => (s.directRequest sl v i).accept
    | none => s.refuse .notAllowed

/-- EXCLUDE is taken from ON_BUS and from FAULTED without a slot, unless the string is being watered (R77). -/
def State.mayExclude (s : State) (i : Str) : Bool :=
  (s.inState i .onBus || (s.inState i .faulted && !s.bound i)) && !s.watering i

/-- The string leaves the queue and becomes OUT (R77, R112). -/
def State.excludeStr (s : State) (i : Str) : State :=
  let before := (s.control i).state
  let s := (s.removeEntry i .equalise).removeEntry i .water
  (s.modControl i fun c => { c with state := .out }).stateChanged i before

/-- EXCLUDE (R77). -/
def State.askExclude (s : State) (string : Byte) : Answer :=
  s.withStr string fun i => if s.mayExclude i then (s.excludeStr i).accept else s.refuse .notAllowed

/-- The string becomes ON_BUS without a slot and the change is handed on (R77, R78). -/
def State.toBus (s : State) (i : Str) : State :=
  let before := (s.control i).state
  (s.modControl i fun c => { c with state := .onBus }).stateChanged i before

/-- INCLUDE (R77). -/
def State.askInclude (s : State) (string : Byte) : Answer :=
  s.withStr string fun i =>
    if s.inState i .out ∧ (s.reading i).lastPosition = some .bus then (s.toBus i).accept else s.refuse .notAllowed

/-- CLEAR_FAULT (R78). -/
def State.askClearFault (s : State) (string : Byte) : Answer :=
  s.withStr string fun i =>
    if !s.inState i .faulted then s.refuse .notAllowed
    else match (s.reading i).lastPosition, s.bound i with
      | some .bus, true => (s.toBusAndFree i).accept
      | some .bus, false => (s.toBus i).accept
      | some .eq, true => (s.startReturn i (s.variantFor false s.discharge) false).accept
      | _, _ => s.refuse .notAllowed

/-! ## Site requests (R139, R154, R182, R186) -/

/-- CLEAR_GAS (R154). -/
def State.askClearGas (s : State) : Answer :=
  if s.site.gas.level then s.refuse .notAllowed
  else if s.site.gasLatch then s.gasClears.accept
  else s.accept

/-- SET_TIME (R186). -/
def State.askSetTime (s : State) (day minute : Nat) : Answer :=
  if 1439 < minute then s.refuse .badArg
  else (s.modMgmt fun m => { m with clock := ⟨day, minute⟩, minuteEnd := s.now + 60000 }).accept

/-- REFILL (R139, R186): the reply carries the account after the request. -/
def State.askRefill (s : State) (ml : Nat) : Answer :=
  ⟨s.refillTo ml, .ok, 0, bytesBE 4 (s.refillTo ml).water.reservoir⟩

/-- SET_MODE (R182). -/
def State.askSetMode (s : State) (mode : Byte) : Answer :=
  match modeOf mode with
  | none => s.refuse .badArg
  | some m =>
    if s.mgmt.mode = m then s.accept
    else match m with
      | .transparent => if s.mayApply then s.disengage.accept else s.refuse .notAllowed
      | .engaged =>
        if s.mgmt.loaded.limits && s.mgmt.loaded.string then s.engage.accept else s.refuse .notAllowed

/-! ## RESTART (R187) -/

/-- String Control hands the orders that stand for a bound string (R80). -/
def State.standingOrders (s : State) (i : Str) : State :=
  let c := s.control i
  if c.slot.isNone then s
  else if c.state = .faulted then s.stringRect i .off
  else
    let s := match c.rectOrder with
      | some o => s.stringRect i o
      | none => s
    if c.state = .returning ∧ c.step = some .confirm then s.handContactor i targetBus else s

/-- The Ring Port empties its queues and buffer (R172 steps 1 and 2). -/
def Ring.emptied (r : Ring) : Ring :=
  { r with forward := [], replies := [], noticeLost := false, orders := [] }

/-- The Ring Port's counters at a warm restart (R172 step 5). -/
def Ring.countersCleared (r : Ring) : Ring :=
  { r with replyWait := 0, fwdSkip := 0, counts := {}, thin := Vector.replicate 16 0 }

/-- A warm restart as one event (R42, R80, R105, R112, R141, R146, R172, R187; log 24). The rounds end
and the standing orders are handed from S0 to S7 (log 40). -/
def State.warmRestart (s : State) : State :=
  let s := s.modRing Ring.emptied
  let s := s.eachStr fun i s => s.endCause i .restart
  let s := s.eachStr fun i s => s.standingOrders i
  let s := (s.modWater fun w => { w with unsent := [] }).restartWatering
  let s := s.genIdle
  let s := s.eachStr fun i s => s.modCharge i fun c => { c with tPrev := none }
  let s := { s with queue := [] }
  let s := s.discardStaging.modMgmt fun m => { m with cursor := {}, held := false, mark := none }
  let s := (s.modRing Ring.countersCleared).restoreSight false
  s.modRing fun r => { r with lastGood := some s.now, repeatDue := none }

/-- RESTART (R187). -/
def State.askRestart (s : State) : Answer :=
  s.warmRestart.accept

/-! ## Taking a request (R160, R174) -/

/-- A request past steps 1 and 2 is judged and acted on (R174 steps 3 and 4). -/
def State.act (s : State) : Request → Answer
  | .status => s.askStatus
  | .tableRead t o n => s.askTableRead t o n
  | .loadBegin t n => s.askLoadBegin t n
  | .loadPart o d => s.askLoadPart o d
  | .loadCommit => s.askLoadCommit
  | .loadDiscard => s.askLoadDiscard
  | .cursor sp ix => s.askCursor sp ix
  | .read n => s.askRead n
  | .write a => s.askWrite a
  | .hold => s.askHold
  | .release => s.askRelease
  | .enqueue st k r p => s.askEnqueue st k r p
  | .cancel st k => s.askCancel st k
  | .abort st => s.askAbort st
  | .direct st v i => s.askDirect st v i
  | .excludeStr st => s.askExclude st
  | .includeStr st => s.askInclude st
  | .clearFault st => s.askClearFault st
  | .clearGas => s.askClearGas
  | .setTime d m => s.askSetTime d m
  | .refill ml => s.askRefill ml
  | .setMode m => s.askSetMode m
  | .restart => s.askRestart

/-- Step 1 fails: LIMITS is loaded and the source is not controller_addr (R174). -/
def State.sourceBarred (s : State) (source : Byte) : Bool :=
  s.limitsLoaded && source != s.lim.controllerAddr

/-- A request is judged in the order of R174. -/
def State.answer (s : State) (source : Byte) (p : Parsed) : Answer :=
  if s.sourceBarred source then s.refuse .notAllowed
  else match p with
    | .unknown _ => s.refuse .unknown
    | .tooShort _ => s.refuse .badArg
    | .request r => s.act r

/-- The REPLY frame of an answer (R174, R189). -/
def replyFrame (own source code : Byte) (a : Answer) : Frame :=
  ⟨source, own, kindReply, code :: byteOf (a.status.code + 16 * a.count) :: a.data⟩

/-- `l` with `f` in place `n`, or at its end when it has no such place. -/
def placeAt (n : Nat) (f : Frame) (l : List Frame) : List Frame :=
  if n < l.length then l.set n f else l ++ [f]

/-- A request taken: its reply holds its place in the reply queue ahead of the notices of its event (R160, R166). The place
is taken by an empty frame until the reply is built. -/
def State.takeRequest (s : State) (source : Byte) (p : Parsed) : State :=
  let n := s.ring.replies.length
  let held := s.modRing fun r => { r with replies := r.replies ++ [⟨source, r.ownAddress, kindReply, []⟩] }
  let a := held.answer source p
  a.state.modRing fun r => { r with replies := placeAt n (replyFrame s.ring.ownAddress source p.code a) r.replies }

/-- A request offered by the Ring Port: taken while the reply queue has room, otherwise counted as dropped (R160). -/
def State.offer (s : State) (source : Byte) (p : Parsed) : State :=
  if s.ring.replies.length < replyCap then s.takeRequest source p
  else s.modRing fun r => { r with counts := { r.counts with requestDrop := countUp r.counts.requestDrop } }

end Sys2Proof.Machine
end

