-- ==== Sys2Proof/Machine/RingPort.lean ====
section
/-! DEFINITION. Reception (R157, R158) and classification (R159 to R162) of the Ring Port. -/

namespace Sys2Proof.Machine

/-! ## Counts -/

def Ring.countBadCheck (r : Ring) : Ring :=
  { r with counts := { r.counts with badCheck := countUp r.counts.badCheck } }

def Ring.countRunt (r : Ring) : Ring :=
  { r with counts := { r.counts with runt := countUp r.counts.runt } }

def Ring.countPoliced (r : Ring) : Ring :=
  { r with counts := { r.counts with policed := countUp r.counts.policed } }

/-! ## Policing (R161) -/

/-- What policing does with an order. -/
inductive Policing where
  | free | drop
  | recall (str : Str)
  deriving DecidableEq, Repr

/-- The frame's DST names address `a`, or every address of its kind (R161). -/
def Frame.reaches (f : Frame) (a : Byte) : Bool :=
  f.dst == a || f.dst == broadcast

/-- A RECT frame is policed: its rectifier's slot is present, and bound, or the command is ON under the gas latch. -/
def State.policesRect (s : State) (f : Frame) : Bool :=
  allSlots.any fun sl =>
    s.slotPresent sl && f.reaches (s.rectAddr sl)
      && ((s.slot sl).string.isSome || (f.isRectOn && s.site.gasLatch))

/-- The string is in CALLED, EQUALISING or RETURNING. -/
def State.awayFromBus (s : State) (i : Str) : Bool :=
  s.inState i .called || s.inState i .equalising || s.inState i .returning

/-- The string whose contactor a CONTACTOR frame would move against the part (R161). -/
def State.policedContactor (s : State) (f : Frame) : Option Str :=
  allStrs.find? fun i => s.awayFromBus i && f.reaches (s.cfg i).contactorAddr

/-- A VALVE frame is policed: its manifold is that of the string being watered. -/
def State.policesValve (s : State) (f : Frame) : Bool :=
  allStrs.any fun i => s.watering i && (s.cfg i).hasManifold && f.reaches (s.cfg i).manifoldAddr

/-- Policing of a CONTACTOR frame: a broadcast is no recall (R161). -/
def State.policeContactor (s : State) (f : Frame) : Policing :=
  match s.policedContactor f with
  | none => .free
  | some i => if f.isBusTarget && f.dst != broadcast then .recall i else .drop

/-- Policing of an order from another source (R161). -/
def State.police (s : State) (f : Frame) : Policing :=
  if f.src = s.ring.ownAddress then .free
  else if f.kind = kindRect then (if s.policesRect f then .drop else .free)
  else if f.kind = kindContactor then s.policeContactor f
  else if f.kind = kindValve then (if s.policesValve f then .drop else .free)
  else .free

/-- A recalled frame becomes the string's held order and, before RETURNING, a RECALL end cause (R76). -/
def State.recall (s : State) (i : Str) (f : Frame) : State :=
  let s := s.modControl i fun c => { c with heldOrder := some f }
  if s.inRound i then s.endCause i .recall else s

/-! ## The Pass Table (R162) -/

/-- A Pass Table entry of the committed PASS image. -/
def State.passEntry (s : State) (e : Fin 16) : PassEntry :=
  PassEntry.ofImage s.images.pass e.val

/-- The first enabled entry that matches the frame. -/
def State.passMatch (s : State) (f : Frame) : Option (Fin 16) :=
  (List.finRange 16).find? fun e => (s.passEntry e).matchesFrame f

/-- A thinning counter takes a new value. -/
def State.setThin (s : State) (e : Fin 16) (n : Nat) : State :=
  s.modRing fun r => { r with thin := r.thin.set e.val n }

/-- A THIN entry of count `n` decides the frame (R162). -/
def State.thinFrame (s : State) (e : Fin 16) (n : Nat) (f : Frame) : State :=
  if s.ring.thin[e.val] + 1 = n then (s.setThin e 0).forwardFrame f
  else s.setThin e (s.ring.thin[e.val] + 1)

/-- Steps 4 and 5 of classification: the Pass Table decides, or the frame is forwarded (R159, R162). -/
def State.passOn (s : State) (f : Frame) : State :=
  match s.passMatch f with
  | none => s.forwardFrame f
  | some e =>
    match (s.passEntry e).action with
    | .pass => s.forwardFrame f
    | .strip => s
    | .thin n => s.thinFrame e n f

/-! ## Classification (R159, R160) -/

/-- Steps 3 to 5 in ENGAGED mode, 3 and 5 in TRANSPARENT mode (R159). -/
def State.absorbAndPass (s : State) (f : Frame) : State :=
  if s.engaged then (s.absorb f).passOn f else (s.absorb f).forwardFrame f

/-- Steps 2 to 5 for a frame that step 1 does not keep (R159, R161). -/
def State.classifyOther (s : State) (f : Frame) : State :=
  match (if s.engaged then s.police f else .free) with
  | .drop => s.modRing Ring.countPoliced
  | .recall i => (s.modRing Ring.countPoliced).recall i f
  | .free => s.absorbAndPass f

/-- The classification of a good frame (R159, R160). -/
def State.classify (s : State) (f : Frame) : State :=
  if f.dst = s.ring.ownAddress then
    if f.kind = kindRequest then s.offer f.src (parsePayload f.payload) else s
  else if f.dst = broadcast ∧ f.kind = kindRequest then (s.offer f.src (parsePayload f.payload)).forwardFrame f
  else s.classifyOther f

/-- A good frame arrives: the silence restarts, a return to SEEING is handed on, its scan taken and the site outputs judged for
what the scan leaves (R155; log 5, log 31), and the frame is classified (R158). -/
def State.goodFrame (s : State) (f : Frame) : State :=
  let t := s.modRing fun r => { r with lastGood := some s.now }
  let t := if s.ring.sight = .seeing then t else (t.restoreSight true).scan.followSite
  t.classify f

/-! ## Reception (R157, R158) -/

/-- The LEN byte of a frame in reception, once it has arrived. -/
def rxLen (got : List Byte) : Nat :=
  u8 got 3

/-- The frame whose bytes from DST on are `got`, check bytes included (11.2). -/
def frameOf (got : List Byte) : Frame :=
  ⟨got.getD 0 0, got.getD 1 0, got.getD 2 0, (got.drop 4).take (rxLen got)⟩

/-- The check of the received bytes agrees with the CRC (R158). -/
def checkAgrees (got : List Byte) : Bool :=
  (crc16 (got.take (4 + rxLen got))).toNat == field got (4 + rxLen got) 2

/-- The next byte is the second check byte of the frame in reception (R157). -/
def completes (got : List Byte) : Bool :=
  4 ≤ got.length && got.length == 5 + rxLen got

/-- The receiver awaits the second check byte. -/
def State.awaitsCheck (s : State) : Bool :=
  match s.ring.rx with
  | .receiving got => completes got
  | .hunt => false

/-- The second check byte has arrived: the frame is judged (R158). -/
def State.frameComplete (s : State) (got : List Byte) : State :=
  let s := s.modRing fun r => { r with rx := .hunt }
  if checkAgrees got then s.goodFrame (frameOf got) else s.modRing Ring.countBadCheck

/-- The receiver takes the second check byte, when it awaits one (R157). -/
def State.takeCheck (s : State) (b : Byte) : State :=
  match s.ring.rx with
  | .receiving got => s.frameComplete (got ++ [b])
  | .hunt => s

/-- The receiver after a byte that completes no frame (R157). -/
def Ring.takeByte (now : Nat) (b : Byte) (r : Ring) : Ring :=
  match r.rx with
  | .hunt => if b = 0xA5 then { r with rx := .receiving [], rxLast := now } else r
  | .receiving got =>
    if got.length = 3 ∧ 48 < b.toNat then { r with rx := .hunt }.countBadCheck
    else { r with rx := .receiving (got ++ [b]), rxLast := now }

/-- More than 2 ms have passed without a byte inside a frame (R157). -/
def State.rxSilent (s : State) : Bool :=
  match s.ring.rx with
  | .receiving _ => s.ring.rxLast + 2 < s.now
  | .hunt => false

end Sys2Proof.Machine
end

