-- ==== Sys2Proof/Machine/ExecLines.lean ====
section
/-! DEFINITION. The meanings of the reset and site-line commands (R19, R42, R105, R112, R120, R141, R143 to R156, R171). -/

namespace Sys2Proof.Machine

/-! ## COLD_RESET -/

/-- The Site Line Unit at the end of a cold reset: cold values, the raw lines as they are (R143, R144). -/
def Site.coldReset (now : Nat) (t : Site) : Site where
  src := t.src.afterReset (Line.period .src) now
  gas := t.gas.afterReset (Line.period .gas) now
  reslow := t.reslow.afterReset (Line.period .reslow) now
  trig := t.trig.afterReset (Line.period .trig) now
  lampStart := now

/-- The own address strapped on ADDR1:0 (R156). -/
def strappedAddress (straps : BitVec 2) : Byte :=
  0xF0 + straps.setWidth 8

/-- A cold reset: every item at its cold-reset value, own_address sampled, minute_end 60,000 ms after the end of the reset;
the time base, the raw lines and the waiting commands are outside what it resets (log 1, log 6). -/
def State.coldReset (s : State) (straps : BitVec 2) : State :=
  { State.reset with
    pending := s.pending
    now := s.now
    site := s.site.coldReset s.now
    ring := { State.reset.ring with ownAddress := strappedAddress straps }
    mgmt := { State.reset.mgmt with minuteEnd := s.now + 60000 } }

/-- COLD_RESET. -/
def execColdReset (dt : Nat) (straps : BitVec 2) (s : State) : Result :=
  quietEvent dt (fun s => s.coldReset straps) s

/-! ## Lines (R144) -/

/-- A raw line takes a level (R144). -/
def State.rawLine (s : State) (l : Line) (high : Bool) : State :=
  s.modSite fun t => t.withFilter l ((t.filter l).rawChange (Line.period l) s.now high)

/-- RAW_LINE_CHANGE (R144). -/
def execRawLineChange (dt : Nat) (line : Line) (high : Bool) (s : State) : Result :=
  quietEvent dt (fun s => s.rawLine line high) s

/-- SRC_CHANGE (R94, R144, R146, R147). -/
def execSrcChange (dt : Nat) (s : State) : Result :=
  eventIf dt (fun s => s.settled .src true || s.settled .src false) (fun s => (s.takeLevel .src).srcChanges) s

/-- GAS_RISE (R144, R153). -/
def execGasRise (dt : Nat) (s : State) : Result :=
  eventIf dt (fun s => s.settled .gas true) (fun s => (s.takeLevel .gas).gasTrips) s

/-- GAS_FALL (R144, R154): the fall only permits a later CLEAR_GAS. -/
def execGasFall (dt : Nat) (s : State) : Result :=
  eventIf dt (fun s => s.settled .gas false) (fun s => s.takeLevel .gas) s

/-- RESLOW_RISE (R134, R139, R144). -/
def execReslowRise (dt : Nat) (s : State) : Result :=
  eventIf dt (fun s => s.settled .reslow true) (fun s => (s.takeLevel .reslow).reslowRises) s

/-- RESLOW_FALL (R113, R144): a site condition clearing; the account does not rise. -/
def execReslowFall (dt : Nat) (s : State) : Result :=
  eventIf dt (fun s => s.settled .reslow false) (fun s => (s.takeLevel .reslow).markScan) s

/-- TRIG_EDGE (R120 to R122, R144). -/
def execTrigEdge (dt : Nat) (s : State) : Result :=
  eventIf dt (fun s => s.settled .trig true || s.settled .trig false)
    (fun s => (s.takeLevel .trig).trigChanges s.site.trig.raw) s

/-! ## Tachometer (R145, R151, R152) -/

/-- TACH_EDGE (R145). -/
def execTachEdge (dt : Nat) (s : State) : Result :=
  quietEvent dt (fun s => s.modSite (Site.edge s.lim.tachDebounce s.now)) s

/-- The tachometer window that has ended, while measuring (R145). -/
def State.endedWindow (s : State) : Option TachWindow :=
  match s.site.window with
  | some w => if s.site.measuring ∧ w.start + 1000 ≤ s.now then some w else none
  | none => none

/-- The end of the window in progress is taken (R151). -/
def State.takeWindowEnd (s : State) : State :=
  match s.endedWindow with
  | some w => s.windowEnds w
  | none => s

/-- TACH_WINDOW_END (R145, R151, R152). -/
def execTachWindowEnd (dt : Nat) (s : State) : Result :=
  eventIf dt (fun s => s.endedWindow.isSome) State.takeWindowEnd s

/-! ## Generator and run-on (R146, R150) -/

/-- gen_end is reached: DELAY to PULSE, PULSE to IDLE (R146). -/
def State.genEnds (s : State) : State :=
  match s.site.genState with
  | .delay => s.genPulse
  | .pulse => s.genIdle
  | .idle => s

/-- GEN_END (R146). -/
def execGenEnd (dt : Nat) (s : State) : Result :=
  eventIf dt (fun s => s.reached s.site.genEnd) State.genEnds s

/-- RUN_ON_END (R150). -/
def execRunOnEnd (dt : Nat) (s : State) : Result :=
  eventIf dt (fun s => s.reached s.site.runOnEnd) (fun s => s.modSite fun t => { t with runOnEnd := none }) s

end Sys2Proof.Machine
end

