-- ==== Sys2Proof/Machine/ExecRequests.lean ====
section
/-! DEFINITION. The meanings of the request commands (R174 to R187) and of APPLY_PENDING_COMMIT (R181). Each is a request that
the Ring Port offers to the Management Agent (R160, log 8). -/

namespace Sys2Proof.Machine

/-- A request from `source` is offered after `dt` ms (R160). -/
def requestEvent (dt : Nat) (source : Byte) (p : Parsed) (s : State) : Result :=
  event dt (fun s => s.offer source p) s

/-- REQUEST_UNKNOWN (R174). -/
def execRequestUnknown (dt : Nat) (source : Byte) (payload : List Byte) (s : State) : Result :=
  requestEvent dt source (.unknown (payload.headD 0)) s

/-- STATUS (R175). -/
def execStatus (dt : Nat) (source : Byte) (s : State) : Result :=
  requestEvent dt source (.request .status) s

/-- TABLE_READ (R175). -/
def execTableRead (dt : Nat) (source table offset n : Byte) (s : State) : Result :=
  requestEvent dt source (.request (.tableRead table offset n)) s

/-- LOAD_BEGIN (R176). -/
def execLoadBegin (dt : Nat) (source table : Byte) (total : Word16) (s : State) : Result :=
  requestEvent dt source (.request (.loadBegin table total.toNat)) s

/-- LOAD_PART (R177). -/
def execLoadPart (dt : Nat) (source : Byte) (offset : Word16) (data : List Byte) (s : State) : Result :=
  requestEvent dt source (.request (.loadPart offset.toNat data)) s

/-- LOAD_COMMIT (R178 to R181). -/
def execLoadCommit (dt : Nat) (source : Byte) (s : State) : Result :=
  requestEvent dt source (.request .loadCommit) s

/-- LOAD_DISCARD (R176). -/
def execLoadDiscard (dt : Nat) (source : Byte) (s : State) : Result :=
  requestEvent dt source (.request .loadDiscard) s

/-- CURSOR (R183). -/
def execCursor (dt : Nat) (source space index : Byte) (s : State) : Result :=
  requestEvent dt source (.request (.cursor space index)) s

/-- READ (R183). -/
def execRead (dt : Nat) (source n : Byte) (s : State) : Result :=
  requestEvent dt source (.request (.read n)) s

/-- WRITE (R184). -/
def execWrite (dt : Nat) (source : Byte) (args : List Byte) (s : State) : Result :=
  requestEvent dt source (.request (.write args)) s

/-- HOLD (R183). -/
def execHold (dt : Nat) (source : Byte) (s : State) : Result :=
  requestEvent dt source (.request .hold) s

/-- RELEASE (R183). -/
def execRelease (dt : Nat) (source : Byte) (s : State) : Result :=
  requestEvent dt source (.request .release) s

/-- ENQUEUE (R110). -/
def execEnqueue (dt : Nat) (source string kind recipe priority : Byte) (s : State) : Result :=
  requestEvent dt source (.request (.enqueue string kind recipe priority)) s

/-- CANCEL (R111). -/
def execCancel (dt : Nat) (source string kind : Byte) (s : State) : Result :=
  requestEvent dt source (.request (.cancel string kind)) s

/-- ABORT (R185). -/
def execAbort (dt : Nat) (source string : Byte) (s : State) : Result :=
  requestEvent dt source (.request (.abort string)) s

/-- DIRECT (R102). -/
def execDirect (dt : Nat) (source string : Byte) (vCellMv i : Word16) (s : State) : Result :=
  requestEvent dt source (.request (.direct string vCellMv.toNat i.toNat)) s

/-- EXCLUDE (R77). -/
def execExcludeStr (dt : Nat) (source string : Byte) (s : State) : Result :=
  requestEvent dt source (.request (.excludeStr string)) s

/-- INCLUDE (R77). -/
def execIncludeStr (dt : Nat) (source string : Byte) (s : State) : Result :=
  requestEvent dt source (.request (.includeStr string)) s

/-- CLEAR_FAULT (R78). -/
def execClearFault (dt : Nat) (source string : Byte) (s : State) : Result :=
  requestEvent dt source (.request (.clearFault string)) s

/-- CLEAR_GAS (R154). -/
def execClearGas (dt : Nat) (source : Byte) (s : State) : Result :=
  requestEvent dt source (.request .clearGas) s

/-- SET_TIME (R186). -/
def execSetTime (dt : Nat) (source : Byte) (day minute : Word16) (s : State) : Result :=
  requestEvent dt source (.request (.setTime day.toNat minute.toNat)) s

/-- REFILL (R139). -/
def execRefill (dt : Nat) (source : Byte) (ml : Word32) (s : State) : Result :=
  requestEvent dt source (.request (.refill ml.toNat)) s

/-- SET_MODE (R182). -/
def execSetMode (dt : Nat) (source mode : Byte) (s : State) : Result :=
  requestEvent dt source (.request (.setMode mode)) s

/-- RESTART (R187). -/
def execRestart (dt : Nat) (source : Byte) (s : State) : Result :=
  requestEvent dt source (.request .restart) s

/-- A pending image may be applied: no string is bound and the Watering Unit is IDLE (R181). -/
def State.appliesPending (s : State) : Bool :=
  s.commitPending && s.mayApply && s.mgmt.stagedTable.isSome

/-- APPLY_PENDING_COMMIT (R181). -/
def execApplyPendingCommit (dt : Nat) (s : State) : Result :=
  eventIf dt State.appliesPending State.applyPending s

end Sys2Proof.Machine
end

