-- ==== Sys2Proof/Machine/ExecRing.lean ====
section
/-! DEFINITION. The meanings of the Ring Port's commands (R157 to R172). -/

namespace Sys2Proof.Machine

/-! ## Reception -/

/-- RX_TIMEOUT (R157): the frame in reception is abandoned. -/
def execRxTimeout (dt : Nat) (s : State) : Result :=
  eventIf dt State.rxSilent (fun s => s.modRing fun r => { r with rx := .hunt }.countRunt) s

/-- FRAME_RECEIVED (R158 to R163): the second check byte of the frame in reception. -/
def execFrameReceived (dt : Nat) (check : Byte) (s : State) : Result :=
  eventIf dt State.awaitsCheck (fun s => s.takeCheck check) s

/-- RING_INPUT_BYTE (R157): the receiver takes the byte; the second check byte completes the frame (R158; log 7). -/
def execRingInputByte (dt : Nat) (byte : Byte) (s : State) : Result :=
  if (s.begin dt).awaitsCheck then event dt (fun s => s.takeCheck byte) s
  else quietEvent dt (fun s => s.modRing (Ring.takeByte s.now byte)) s

/-! ## The output (R167) -/

/-- The frame being sent has left: an order is reported sent, and the output is at a frame boundary (R164, R167). -/
def State.outputEnds (s : State) : State :=
  match s.ring.sending with
  | none => s
  | some x =>
    let s := s.modRing fun r => { r with sending := none }
    match x.order with
    | some n => s.orderSent n x.frame
    | none => s

/-- OUTPUT_FRAME_END (R164, R167). -/
def execOutputFrameEnd (dt : Nat) (s : State) : Result :=
  eventIf dt (fun s => s.ring.sending.isSome) State.outputEnds s

/-! ## Sight (R168 to R170) -/

/-- The WARN expiry is due (R168). -/
def State.warns (s : State) : Bool :=
  s.limitsLoaded && s.ring.sight == .seeing && s.reached s.warnDue

/-- The WARN expiry is taken; where both expiries fall together sight goes from SEEING to BLIND (R168). -/
def State.takeWarn (s : State) : State :=
  if s.lim.silenceWarnMs = s.lim.silenceBlindS * 1000 then s.goBlind else s.goWarn

/-- WARN_EXPIRY (R168, R169). -/
def execWarnExpiry (dt : Nat) (s : State) : Result :=
  eventIf dt State.warns State.takeWarn s

/-- The BLIND expiry is due (R168). -/
def State.blinds (s : State) : Bool :=
  s.limitsLoaded && s.ring.sight != .blind && s.reached s.blindDue

/-- BLIND_EXPIRY (R168, R170). -/
def execBlindExpiry (dt : Nat) (s : State) : Result :=
  eventIf dt State.blinds State.goBlind s

/-- BLIND_REPEAT (R170). -/
def execBlindRepeat (dt : Nat) (s : State) : Result :=
  eventIf dt (fun s => s.ring.sight == .blind && s.reached s.ring.repeatDue) State.blindOrders s

end Sys2Proof.Machine
end

