-- ==== Sys2Proof/Machine/ExecTimers.lean ====
section
/-! DEFINITION. The meanings of the clock, record, string, slot and watering expiries (R12, R33, R68, R69, R79, R85 to R102, R130,
R132, R137, R186). -/

namespace Sys2Proof.Machine

/-! ## Clock and records -/

/-- SITE_MINUTE (R186). -/
def execSiteMinute (dt : Nat) (s : State) : Result :=
  eventIf dt (fun s => s.mgmt.minuteEnd ≤ s.now) State.minutePasses s

/-- FRESHNESS_EXPIRY (R12). -/
def execFreshnessExpiry (dt : Nat) (value : Measured) (s : State) : Result :=
  eventIf dt (fun s => s.reached (s.expiryOf value)) (fun s => s.becomeStale value) s

/-- DISCHARGE_HOLDOFF_END (R33). -/
def execDischargeHoldoffEnd (dt : Nat) (s : State) : Result :=
  eventIf dt (fun s => s.reached s.holdoffEnd) State.holdoffEnds s

/-! ## Strings -/

/-- A contactor confirmation is counting: CALLED, or RETURNING in the CONFIRM step, with sight SEEING (R64, R66, R69). -/
def State.confirming (s : State) (i : Str) : Bool :=
  s.ring.sight == .seeing
    && (s.inState i .called || (s.inState i .returning && (s.control i).step == some .confirm))

/-- CONFIRM_EXPIRY (R65, R66, R69, R74). -/
def execConfirmExpiry (dt : Nat) (str : Str) (s : State) : Result :=
  eventIf dt (fun s => s.confirming str && (s.control str).confirmLeft == some 0) (fun s => s.enterFaulted str) s

/-- The MATCH step of a return has reached match_deadline (R68). -/
def State.matchOver (s : State) (i : Str) : Bool :=
  s.inState i .returning && (s.control i).step == some .matching && s.reached (s.control i).matchDeadline

/-- MATCH_DEADLINE (R68). -/
def execMatchDeadline (dt : Nat) (str : Str) (s : State) : Result :=
  eventIf dt (fun s => s.matchOver str) (fun s => s.toConfirm str) s

/-- order_refresh_s in ms after a RECT order (R79, R90). -/
def State.refreshDue (s : State) (handed : Option Nat) : Bool :=
  s.reached (handed.map (· + s.lim.orderRefreshS * 1000))

/-- String Control's refresh of its RECT order is due (R79). -/
def State.rectRefreshDue (s : State) (i : Str) : Bool :=
  let c := s.control i
  c.slot.isSome && c.state != .equalising && c.rectOrder.isSome && s.refreshDue c.lastRectTime

/-- String Control hands rect_order again (R79). -/
def State.refreshRect (s : State) (i : Str) : State :=
  match (s.control i).rectOrder with
  | some o => s.stringRect i o
  | none => s

/-- RECT_REFRESH (R79). -/
def execRectRefresh (dt : Nat) (str : Str) (s : State) : Result :=
  eventIf dt (fun s => s.rectRefreshDue str) (fun s => s.refreshRect str) s

/-! ## Slots -/

/-- The slot's refresh of its RECT order is due (R90). -/
def State.slotRefreshDue (s : State) (sl : SlotId) : Bool :=
  let r := s.slot sl
  r.entryState.isSome && r.lastOrder.isSome && s.refreshDue r.lastOrderTime

/-- The slot hands last_order again (R90). -/
def State.refreshSlot (s : State) (sl : SlotId) : State :=
  match (s.slot sl).lastOrder with
  | some o => (s.modSlot sl fun r => { r with lastOrderTime := some s.now }).handRect sl o
  | none => s

/-- SLOT_REFRESH (R90). -/
def execSlotRefresh (dt : Nat) (slot : SlotId) (s : State) : Result :=
  eventIf dt (fun s => s.slotRefreshDue slot) (fun s => s.refreshSlot slot) s

/-- The phase record the slot runs, while its entry is a PHASE in RUN (R84, R85). -/
def State.runningPhase (s : State) (sl : SlotId) : Option PhaseRec :=
  if (s.slot sl).entryState = some .run ∧ (s.slot sl).recipe ≠ 0 then
    match s.slotEntry sl with
    | .phase id => some (s.phase id)
    | _ => none
  else none

/-- run_elapsed has reached d_eff × 60,000 ms (R85). -/
def State.phaseTimeup (s : State) (sl : SlotId) : Bool :=
  (s.runningPhase sl).isSome && decide ((s.slot sl).dEff * 60000 ≤ (s.slot sl).runElapsed)

/-- PHASE_TIMEUP (R85). -/
def execPhaseTimeup (dt : Nat) (slot : SlotId) (s : State) : Result :=
  eventIf dt (fun s => s.phaseTimeup slot) (fun s => s.nextEntry slot) s

/-- The criterion of the running phase has held for crit_hold_min (R92). -/
def State.criterionMet (s : State) (sl : SlotId) : Bool :=
  match s.runningPhase sl, (s.slot sl).critStart with
  | some p, some c => p.criterion != .none && decide (c + p.critHoldMin * 60000 ≤ (s.slot sl).runElapsed)
  | _, _ => false

/-- CRITERION_MET (R85, R92). -/
def execCriterionMet (dt : Nat) (slot : SlotId) (s : State) : Result :=
  eventIf dt (fun s => s.criterionMet slot) (fun s => s.nextEntry slot) s

/-- WAIT_END (R86). -/
def execWaitEnd (dt : Nat) (slot : SlotId) (s : State) : Result :=
  eventIf dt (fun s => (s.slot slot).entryState == some .wait && s.reached (s.slot slot).entryEnd)
    (fun s => s.nextEntry slot) s

/-- The water wait has expired: a queued WATER entry of the string is withdrawn and the entry ends (R88). -/
def State.waterWaitOver (s : State) (sl : SlotId) : State :=
  match (s.slot sl).string with
  | some i => (s.withdrawWater i).endWaterWait sl
  | none => s.endWaterWait sl

/-- WATER_WAIT_EXPIRY (R88). -/
def execWaterWaitExpiry (dt : Nat) (slot : SlotId) (s : State) : Result :=
  eventIf dt (fun s => (s.slot slot).entryState == some .waterWait && s.reached (s.slot slot).entryEnd)
    (fun s => s.waterWaitOver slot) s

/-- SUSPEND_LIMIT (R96). -/
def execSuspendLimit (dt : Nat) (slot : SlotId) (s : State) : Result :=
  eventIf dt (fun s => (s.slot slot).entryState == some .suspended && decide (s.suspendMs ≤ (s.slot slot).suspendedTotal))
    (fun s => s.slotEnds slot .suspendLimit) s

/-- SOURCE has been in force for source_wait_min (R97). -/
def State.sourceWaitOver (s : State) (sl : SlotId) : Bool :=
  let r := s.slot sl
  r.entryState.isSome && r.reasons.source && s.reached (r.sourceWaitStart.map (· + s.lim.sourceWaitMin * 60000))

/-- NO_SOURCE (R97). -/
def execNoSource (dt : Nat) (slot : SlotId) (s : State) : Result :=
  eventIf dt (fun s => s.sourceWaitOver slot) (fun s => s.slotEnds slot .noSource) s

/-- DIRECT_TIMEUP (R101). -/
def execDirectTimeup (dt : Nat) (slot : SlotId) (s : State) : Result :=
  eventIf dt
    (fun s => (s.slot slot).entryState == some .direct && decide (s.lim.directMaxMin * 60000 ≤ (s.slot slot).runElapsed))
    (fun s => s.slotEnds slot .timeup) s

/-! ## Watering -/

/-- The open valve at a position whose close time has been reached, with the string being watered (R129, R130). -/
def State.valveDue (s : State) (p : Pos) : Option (Str × GroupItem) :=
  match s.water.string, s.groupItem? p with
  | some i, some g =>
    if s.water.state = .dosing ∧ s.water.openSet.contains p ∧ s.reached (g.sent.map (· + g.openMs)) then some (i, g)
    else none
  | _, _ => none

/-- The valve at a position closes at its close time with its full dose (R130). -/
def State.closeDue (s : State) (p : Pos) : State :=
  match s.valveDue p with
  | some (i, g) => s.closeValve i p g.dose false
  | none => s

/-- VALVE_CLOSE (R130, R132). -/
def execValveClose (dt : Nat) (pos : Pos) (s : State) : Result :=
  eventIf dt (fun s => (s.valveDue pos).isSome) (fun s => s.closeDue pos) s

/-- The gap of the string being watered has ended (R132). -/
def State.gapOver (s : State) : State :=
  match s.water.string with
  | some i => s.endGap i
  | none => s

/-- GAP_END (R132). -/
def execGapEnd (dt : Nat) (s : State) : Result :=
  eventIf dt (fun s => s.water.state == .gap && s.water.string.isSome && s.reached s.water.gapEnd) State.gapOver s

/-- CONFIRM_DEADLINE_EXPIRY (R137). -/
def execConfirmDeadlineExpiry (dt : Nat) (cell : CellIx) (s : State) : Result :=
  eventIf dt (fun s => s.reached (s.cell cell).confirmDeadline) (fun s => s.deadlineExpires cell) s

end Sys2Proof.Machine
end

