-- ==== Sys2Proof/Machine/Dispatch.lean ====
section
/-! DEFINITION. The dispatch: one arm per command, each one direct call of its meaning. -/

namespace Sys2Proof.Machine

def exec (i : Instr) (s : State) : Host.Outcome State Fault Refusal :=
  match i with
  | .coldReset dt straps => Sys2Proof.Machine.execColdReset dt straps s
  | .rawLineChange dt line high => Sys2Proof.Machine.execRawLineChange dt line high s
  | .srcChange dt => Sys2Proof.Machine.execSrcChange dt s
  | .gasRise dt => Sys2Proof.Machine.execGasRise dt s
  | .gasFall dt => Sys2Proof.Machine.execGasFall dt s
  | .reslowRise dt => Sys2Proof.Machine.execReslowRise dt s
  | .reslowFall dt => Sys2Proof.Machine.execReslowFall dt s
  | .trigEdge dt => Sys2Proof.Machine.execTrigEdge dt s
  | .tachEdge dt => Sys2Proof.Machine.execTachEdge dt s
  | .tachWindowEnd dt => Sys2Proof.Machine.execTachWindowEnd dt s
  | .rxTimeout dt => Sys2Proof.Machine.execRxTimeout dt s
  | .frameReceived dt check => Sys2Proof.Machine.execFrameReceived dt check s
  | .requestUnknown dt source payload => Sys2Proof.Machine.execRequestUnknown dt source payload s
  | .status dt source => Sys2Proof.Machine.execStatus dt source s
  | .tableRead dt source table offset n => Sys2Proof.Machine.execTableRead dt source table offset n s
  | .loadBegin dt source table total => Sys2Proof.Machine.execLoadBegin dt source table total s
  | .loadPart dt source offset data => Sys2Proof.Machine.execLoadPart dt source offset data s
  | .loadCommit dt source => Sys2Proof.Machine.execLoadCommit dt source s
  | .applyPendingCommit dt => Sys2Proof.Machine.execApplyPendingCommit dt s
  | .loadDiscard dt source => Sys2Proof.Machine.execLoadDiscard dt source s
  | .cursor dt source space index => Sys2Proof.Machine.execCursor dt source space index s
  | .read dt source n => Sys2Proof.Machine.execRead dt source n s
  | .write dt source args => Sys2Proof.Machine.execWrite dt source args s
  | .hold dt source => Sys2Proof.Machine.execHold dt source s
  | .release dt source => Sys2Proof.Machine.execRelease dt source s
  | .enqueue dt source string kind recipe priority => Sys2Proof.Machine.execEnqueue dt source string kind recipe priority s
  | .cancel dt source string kind => Sys2Proof.Machine.execCancel dt source string kind s
  | .abort dt source string => Sys2Proof.Machine.execAbort dt source string s
  | .direct dt source string vCellMv amps => Sys2Proof.Machine.execDirect dt source string vCellMv amps s
  | .excludeStr dt source string => Sys2Proof.Machine.execExcludeStr dt source string s
  | .includeStr dt source string => Sys2Proof.Machine.execIncludeStr dt source string s
  | .clearFault dt source string => Sys2Proof.Machine.execClearFault dt source string s
  | .clearGas dt source => Sys2Proof.Machine.execClearGas dt source s
  | .setTime dt source day minute => Sys2Proof.Machine.execSetTime dt source day minute s
  | .refill dt source ml => Sys2Proof.Machine.execRefill dt source ml s
  | .setMode dt source mode => Sys2Proof.Machine.execSetMode dt source mode s
  | .restart dt source => Sys2Proof.Machine.execRestart dt source s
  | .siteMinute dt => Sys2Proof.Machine.execSiteMinute dt s
  | .freshnessExpiry dt value => Sys2Proof.Machine.execFreshnessExpiry dt value s
  | .dischargeHoldoffEnd dt => Sys2Proof.Machine.execDischargeHoldoffEnd dt s
  | .confirmExpiry dt str => Sys2Proof.Machine.execConfirmExpiry dt str s
  | .matchDeadline dt str => Sys2Proof.Machine.execMatchDeadline dt str s
  | .rectRefresh dt str => Sys2Proof.Machine.execRectRefresh dt str s
  | .slotRefresh dt slot => Sys2Proof.Machine.execSlotRefresh dt slot s
  | .phaseTimeup dt slot => Sys2Proof.Machine.execPhaseTimeup dt slot s
  | .criterionMet dt slot => Sys2Proof.Machine.execCriterionMet dt slot s
  | .waitEnd dt slot => Sys2Proof.Machine.execWaitEnd dt slot s
  | .waterWaitExpiry dt slot => Sys2Proof.Machine.execWaterWaitExpiry dt slot s
  | .suspendLimit dt slot => Sys2Proof.Machine.execSuspendLimit dt slot s
  | .noSource dt slot => Sys2Proof.Machine.execNoSource dt slot s
  | .directTimeup dt slot => Sys2Proof.Machine.execDirectTimeup dt slot s
  | .valveClose dt pos => Sys2Proof.Machine.execValveClose dt pos s
  | .gapEnd dt => Sys2Proof.Machine.execGapEnd dt s
  | .confirmDeadlineExpiry dt cell => Sys2Proof.Machine.execConfirmDeadlineExpiry dt cell s
  | .genEnd dt => Sys2Proof.Machine.execGenEnd dt s
  | .runOnEnd dt => Sys2Proof.Machine.execRunOnEnd dt s
  | .warnExpiry dt => Sys2Proof.Machine.execWarnExpiry dt s
  | .blindExpiry dt => Sys2Proof.Machine.execBlindExpiry dt s
  | .blindRepeat dt => Sys2Proof.Machine.execBlindRepeat dt s
  | .outputFrameEnd dt => Sys2Proof.Machine.execOutputFrameEnd dt s
  | .ringInputByte dt byte => Sys2Proof.Machine.execRingInputByte dt byte s

end Sys2Proof.Machine
end

