-- ==== Sys2Proof/Machine/Timers.lean ====
section
/-! DEFINITION. The expiries that are due in a state, as commands, and the tick of an idle part (log 3). -/

namespace Sys2Proof.Machine

/-- A command that is due when the condition holds. -/
def dueIf (b : Bool) (c : Instr) : List Instr :=
  if b then [c] else []

/-- The filtered changes whose stability period has ended (R144). -/
def State.dueLines (s : State) : List Instr :=
  dueIf (s.settled .src true || s.settled .src false) (.srcChange 0)
    ++ dueIf (s.settled .gas true) (.gasRise 0) ++ dueIf (s.settled .gas false) (.gasFall 0)
    ++ dueIf (s.settled .reslow true) (.reslowRise 0) ++ dueIf (s.settled .reslow false) (.reslowFall 0)
    ++ dueIf (s.settled .trig true || s.settled .trig false) (.trigEdge 0)

/-- The site-wide expiries that are due. -/
def State.dueSite (s : State) : List Instr :=
  dueIf s.endedWindow.isSome (.tachWindowEnd 0) ++ dueIf (s.reached s.site.genEnd) (.genEnd 0)
    ++ dueIf (s.reached s.site.runOnEnd) (.runOnEnd 0) ++ dueIf (s.reached s.holdoffEnd) (.dischargeHoldoffEnd 0)
    ++ dueIf (s.mgmt.minuteEnd ≤ s.now) (.siteMinute 0)

/-- The time a frame of `n` payload bytes takes on the ring, in µs: 7 + n bytes of 10 bit times at 250 kbit/s (R167). -/
def frameMicros (n : Nat) : Nat :=
  40 * (7 + n)

/-- The frame being sent has reached its last byte (R167, log 22). -/
def State.outputDue (s : State) : Bool :=
  match s.ring.sending with
  | some x => x.begun * 1000 + frameMicros x.frame.payload.length ≤ s.now * 1000
  | none => false

/-- The Ring Port's expiries that are due. -/
def State.dueRing (s : State) : List Instr :=
  dueIf s.rxSilent (.rxTimeout 0) ++ dueIf s.outputDue (.outputFrameEnd 0) ++ dueIf s.warns (.warnExpiry 0)
    ++ dueIf s.blinds (.blindExpiry 0)
    ++ dueIf (s.ring.sight == .blind && s.reached s.ring.repeatDue) (.blindRepeat 0)

/-- The expiries of one cell record that are due. -/
def State.dueCell (s : State) (i : CellIx) : List Instr :=
  dueIf (s.reached (s.cell i).vExpiry) (.freshnessExpiry 0 (.cellVoltage i))
    ++ dueIf (s.reached (s.cell i).tExpiry) (.freshnessExpiry 0 (.cellTemp i))
    ++ dueIf (s.reached (s.cell i).confirmDeadline) (.confirmDeadlineExpiry 0 i)

/-- The expiries of one string that are due. -/
def State.dueStr (s : State) (i : Str) : List Instr :=
  dueIf (s.reached (s.reading i).tvExpiry) (.freshnessExpiry 0 (.terminal i))
    ++ dueIf (s.confirming i && (s.control i).confirmLeft == some 0) (.confirmExpiry 0 i)
    ++ dueIf (s.matchOver i) (.matchDeadline 0 i) ++ dueIf (s.rectRefreshDue i) (.rectRefresh 0 i)

/-- The expiries of one slot that are due. -/
def State.dueSlot (s : State) (sl : SlotId) : List Instr :=
  let r := s.slot sl
  dueIf (s.slotRefreshDue sl) (.slotRefresh 0 sl) ++ dueIf (s.phaseTimeup sl) (.phaseTimeup 0 sl)
    ++ dueIf (s.criterionMet sl) (.criterionMet 0 sl)
    ++ dueIf (r.entryState == some .wait && s.reached r.entryEnd) (.waitEnd 0 sl)
    ++ dueIf (r.entryState == some .waterWait && s.reached r.entryEnd) (.waterWaitExpiry 0 sl)
    ++ dueIf (r.entryState == some .suspended && decide (s.suspendMs ≤ r.suspendedTotal)) (.suspendLimit 0 sl)
    ++ dueIf (s.sourceWaitOver sl) (.noSource 0 sl)
    ++ dueIf (r.entryState == some .direct && decide (s.lim.directMaxMin * 60000 ≤ r.runElapsed)) (.directTimeup 0 sl)

/-- The expiries of the Watering Unit, and a deferred commit, that are due. -/
def State.dueUnit (s : State) : List Instr :=
  (allPos.flatMap fun p => dueIf (s.valveDue p).isSome (.valveClose 0 p))
    ++ dueIf (s.water.state == .gap && s.water.string.isSome && s.reached s.water.gapEnd) (.gapEnd 0)
    ++ dueIf s.appliesPending (.applyPendingCommit 0)

/-- Every expiry that is due, as a command that takes no further time. -/
def State.dueEvents (s : State) : List Instr :=
  s.dueLines ++ s.dueSite ++ s.dueRing ++ allStrs.flatMap s.dueStr ++ allSlots.flatMap s.dueSlot ++ s.dueUnit
    ++ (List.finRange 192).flatMap s.dueCell

/-- A tick of an idle part: 1 ms passes, and the expiries then due are put into the queue (log 3). -/
def State.tick (s : State) : State :=
  { s.elapse 1 with pending := (s.elapse 1).dueEvents }

end Sys2Proof.Machine
end

