-- ==== Sys2Proof/WellFormed.lean ====
section
/-! DEFINITION. Which commands are well formed: those the ring can carry. A REQUEST payload holds at most 48 bytes (R157,
11.2), its first the request code. -/

namespace Sys2Proof

/-- The request codes of 11.2. -/
def requestCodes : List Byte :=
  [0x01, 0x02, 0x10, 0x11, 0x12, 0x13, 0x20, 0x21, 0x22, 0x23, 0x24, 0x30, 0x31, 0x32, 0x33, 0x40, 0x41, 0x42, 0x43, 0x50,
    0x51, 0x52, 0x53]

/-- A payload fits a frame: LEN is at most 48 (R157). -/
def payloadFits (p : List Byte) : Bool :=
  p.length ≤ 48

/-- The payload carries no known request code: it is empty or its first byte is none of them (R174). -/
def codeUnknown : List Byte → Bool
  | [] => true
  | c :: _ => !requestCodes.contains c

/-- The data of a LOAD_PART fits its payload after the code and the 2-byte offset. -/
def partFits (data : List Byte) : Bool :=
  data.length ≤ 45

/-- The argument bytes of a WRITE fit its payload after the code. -/
def argsFit (args : List Byte) : Bool :=
  args.length ≤ 47

/-- A command that can be given. Every operand of a fixed width admits each of its values: an argument outside its range is
answered BAD_ARG (R174). -/
def Instr.wellFormed : Instr → Bool
  | .requestUnknown _ _ payload => payloadFits payload && codeUnknown payload
  | .loadPart _ _ _ data => partFits data
  | .write _ _ args => argsFit args
  | .coldReset .. => true
  | .rawLineChange .. => true
  | .srcChange .. => true
  | .gasRise .. => true
  | .gasFall .. => true
  | .reslowRise .. => true
  | .reslowFall .. => true
  | .trigEdge .. => true
  | .tachEdge .. => true
  | .tachWindowEnd .. => true
  | .rxTimeout .. => true
  | .frameReceived .. => true
  | .status .. => true
  | .tableRead .. => true
  | .loadBegin .. => true
  | .loadCommit .. => true
  | .applyPendingCommit .. => true
  | .loadDiscard .. => true
  | .cursor .. => true
  | .read .. => true
  | .hold .. => true
  | .release .. => true
  | .enqueue .. => true
  | .cancel .. => true
  | .abort .. => true
  | .direct .. => true
  | .excludeStr .. => true
  | .includeStr .. => true
  | .clearFault .. => true
  | .clearGas .. => true
  | .setTime .. => true
  | .refill .. => true
  | .setMode .. => true
  | .restart .. => true
  | .siteMinute .. => true
  | .freshnessExpiry .. => true
  | .dischargeHoldoffEnd .. => true
  | .confirmExpiry .. => true
  | .matchDeadline .. => true
  | .rectRefresh .. => true
  | .slotRefresh .. => true
  | .phaseTimeup .. => true
  | .criterionMet .. => true
  | .waitEnd .. => true
  | .waterWaitExpiry .. => true
  | .suspendLimit .. => true
  | .noSource .. => true
  | .directTimeup .. => true
  | .valveClose .. => true
  | .gapEnd .. => true
  | .confirmDeadlineExpiry .. => true
  | .genEnd .. => true
  | .runOnEnd .. => true
  | .warnExpiry .. => true
  | .blindExpiry .. => true
  | .blindRepeat .. => true
  | .outputFrameEnd .. => true
  | .ringInputByte .. => true

end Sys2Proof
end

