-- ==== Sys2Proof/Safety.lean ====
section
/-! DEFINITION. The vocabulary of the claims: the bounds and exclusions that hold in every state of a run (R8, R106, R107,
R132, R146, R150, R156, R163 to R166, R173), the reply a request earns, the events that are due, the conditions that bar an
entry from admission, the fresh values (R9, R12), the codes of records (11.3), the alterations of a VALVE order, what an
early end of a watering round leaves (R130, R131, R134, R135), the faults and ranges of an image, what its applying leaves
(R181), and the orders that are policed (R161). -/

namespace Sys2Proof.Machine

/-! ## The Ring Port's places (R156, R163 to R167) -/

/-- No two waiting orders name one destination (R164). -/
def oneOrderEach (q : List Order) : Prop :=
  (q.map fun o => o.frame.dst).Nodup

/-- No waiting order is a RECT order with command ON (R165). -/
def noRectOn (q : List Order) : Prop :=
  ∀ o ∈ q, o.frame.isRectOn = false

/-- The three places and the two counters of the arbiter lie within their ranges (R156), each destination has at most one
order waiting (R164), and under the gas stop no RECT ON waits (R165). -/
structure Ring.Ok (r : Ring) : Prop where
  forward : r.forward.length ≤ forwardCap
  orders : r.orders.length ≤ orderCap
  replies : r.replies.length ≤ replyCap
  replyWait : r.replyWait ≤ 8
  fwdSkip : r.fwdSkip ≤ 2
  oneEach : oneOrderEach r.orders
  gas : r.gasStop = true → noRectOn r.orders

/-- The six counts lie in their 16-bit ranges (R156). -/
def Counts.Ok (c : Counts) : Prop :=
  c.runt ≤ sat16 ∧ c.badCheck ≤ sat16 ∧ c.overflow ≤ sat16 ∧ c.requestDrop ≤ sat16 ∧ c.policed ≤ sat16
    ∧ c.orderDrop ≤ sat16

/-! ## Records and clock (R1, R8, R173) -/

/-- deficit_mg and unconfirmed lie in their ranges (R1, R8). -/
def Cell.Ok (c : Cell) : Prop :=
  c.deficit ≤ 999999 ∧ c.unconfirmed ≤ 2

/-- Every cell record lies in its ranges. -/
def State.CellsOk (s : State) : Prop :=
  ∀ i : CellIx, (s.cell i).Ok

/-- The site clock lies in its ranges: day 0–65535, minute 0–1439 (00 section 3.4, R173). -/
def Stamp.Ok (t : Stamp) : Prop :=
  t.day ≤ 65535 ∧ t.minute ≤ 1439

/-! ## The Round Queue (R106, R107) -/

/-- The pair of string and kind names an entry uniquely (R106). -/
def namesOnce (q : List Entry) : Prop :=
  (q.map fun e => (e.string, e.kind)).Nodup

/-- Every URGENT entry stands before every NORMAL entry (R107). -/
def urgentFirst (q : List Entry) : Prop :=
  q.Pairwise fun a b => b.priority = .urgent → a.priority = .urgent

/-- The order and the uniqueness of the Round Queue (R106, R107). -/
structure QueueOk (q : List Entry) : Prop where
  once : namesOnce q
  urgent : urgentFirst q

/-! ## Site lines and pump (R132, R143, R146) -/

/-- GENREQ is high exactly in PULSE (R146). -/
def Site.GenOk (t : Site) : Prop :=
  t.genreq = (t.genState == .pulse)

/-- No run-on stands beside a gassing run: one that begins makes run_on_end absent, and the next run-on is set when it ends
(R150). -/
def Site.RunOnOk (t : Site) : Prop :=
  t.gassingRun = true → t.runOnEnd = none

/-- GENREQ follows the sequence, the window counts lie in 0–120, and no run-on stands beside a gassing run (R143, R146,
R150). -/
def Site.Ok (t : Site) : Prop :=
  t.GenOk ∧ t.lowWindows ≤ 120 ∧ t.okWindows ≤ 120 ∧ t.RunOnOk

/-- PUMP is on exactly in DOSING (R129, R132, R135). -/
def Water.PumpOk (w : Water) : Prop :=
  w.pump = (w.state == .dosing)

/-- gas_stop is set exactly while the gas latch is (R156, R165). -/
def State.GasOk (s : State) : Prop :=
  s.ring.gasStop = s.site.gasLatch

/-- The bounds that every step of a run keeps. -/
structure State.Ok (s : State) : Prop where
  ring : s.ring.Ok
  counts : s.ring.counts.Ok
  cells : s.CellsOk
  clock : s.mgmt.clock.Ok
  gas : s.GasOk
  queue : QueueOk s.queue
  site : s.site.Ok
  pump : s.water.PumpOk

/-! ## Bindings (R61, R63, R83, R87, R88, R100, R106) -/

/-- A string and a slot name each other or neither; the strings in CALLED, EQUALISING and RETURNING hold a slot and those in
ON_BUS, in OUT or with no state hold none; an entry runs only in the slot of an EQUALISING string; water_called is set only in
WATER_WAIT; no EQUALISE entry waits for a bound string. -/
structure State.BoundOk (s : State) : Prop where
  agree : ∀ sl i, (s.slot sl).string = some i ↔ (s.control i).slot = some sl
  away : ∀ i, (s.control i).state = .called ∨ (s.control i).state = .equalising ∨ (s.control i).state = .returning →
    (s.control i).slot ≠ none
  home : ∀ i, (s.control i).state = .onBus ∨ (s.control i).state = .out ∨ (s.control i).state = .absent →
    (s.control i).slot = none
  runs : ∀ sl, (s.slot sl).entryState ≠ none → ∃ i, (s.slot sl).string = some i ∧ (s.control i).state = .equalising
  calls : ∀ sl, (s.slot sl).waterCalled = true → (s.slot sl).entryState = some .waterWait
  waits : ∀ e ∈ s.queue, e.kind = .equalise → (s.control e.string).slot = none

/-! ## Requests (R160, R174, R189) -/

/-- The Ring Port offers a request from `source`, and step 1 of R174 passes it. -/
def State.takesFrom (s : State) (source : Byte) : Prop :=
  s.ring.replies.length < replyCap ∧ s.sourceBarred source = false

/-- The state with a reply at the tail of the reply queue (R166, R189). -/
def State.replied (s : State) (source code : Byte) (st : Status) (count : Nat) (data : List Byte) : State :=
  s.modRing fun r =>
    { r with
      replies := r.replies ++
        [⟨source, r.ownAddress, kindReply, code :: byteOf (st.code + 16 * count) :: data⟩] }

/-- Of the request rows, the source and what the request asks; none for the rows that are no request. -/
def requestOf : Instr → Option (Byte × Parsed)
  | .requestUnknown _ src p => some (src, .unknown (p.headD 0))
  | .status _ src => some (src, .request .status)
  | .tableRead _ src t o n => some (src, .request (.tableRead t o n))
  | .loadBegin _ src t n => some (src, .request (.loadBegin t n.toNat))
  | .loadPart _ src o d => some (src, .request (.loadPart o.toNat d))
  | .loadCommit _ src => some (src, .request .loadCommit)
  | .loadDiscard _ src => some (src, .request .loadDiscard)
  | .cursor _ src sp ix => some (src, .request (.cursor sp ix))
  | .read _ src n => some (src, .request (.read n))
  | .write _ src a => some (src, .request (.write a))
  | .hold _ src => some (src, .request .hold)
  | .release _ src => some (src, .request .release)
  | .enqueue _ src st k r p => some (src, .request (.enqueue st k r p))
  | .cancel _ src st k => some (src, .request (.cancel st k))
  | .abort _ src st => some (src, .request (.abort st))
  | .direct _ src st v i => some (src, .request (.direct st v.toNat i.toNat))
  | .excludeStr _ src st => some (src, .request (.excludeStr st))
  | .includeStr _ src st => some (src, .request (.includeStr st))
  | .clearFault _ src st => some (src, .request (.clearFault st))
  | .clearGas _ src => some (src, .request .clearGas)
  | .setTime _ src d m => some (src, .request (.setTime d.toNat m.toNat))
  | .refill _ src ml => some (src, .request (.refill ml.toNat))
  | .setMode _ src m => some (src, .request (.setMode m))
  | .restart _ src => some (src, .request .restart)
  | _ => none

/-- The payload of the REQUEST frame that carries a request row: its code and its arguments in the order of 11.2, a figure of
more bytes high byte first (R188). -/
def requestPayload : Instr → List Byte
  | .requestUnknown _ _ p => p
  | .status _ _ => [0x01]
  | .tableRead _ _ t o n => [0x02, t, o, n]
  | .loadBegin _ _ t n => 0x10 :: t :: bytesBE 2 n.toNat
  | .loadPart _ _ o d => 0x11 :: bytesBE 2 o.toNat ++ d
  | .loadCommit _ _ => [0x12]
  | .loadDiscard _ _ => [0x13]
  | .cursor _ _ sp ix => [0x20, sp, ix]
  | .read _ _ n => [0x21, n]
  | .write _ _ a => 0x22 :: a
  | .hold _ _ => [0x23]
  | .release _ _ => [0x24]
  | .enqueue _ _ st k r p => [0x30, st, k, r, p]
  | .cancel _ _ st k => [0x31, st, k]
  | .abort _ _ st => [0x32, st]
  | .direct _ _ st v i => 0x33 :: st :: bytesBE 2 v.toNat ++ bytesBE 2 i.toNat
  | .excludeStr _ _ st => [0x40, st]
  | .includeStr _ _ st => [0x41, st]
  | .clearFault _ _ st => [0x42, st]
  | .clearGas _ _ => [0x43]
  | .setTime _ _ d m => 0x50 :: bytesBE 2 d.toNat ++ bytesBE 2 m.toNat
  | .refill _ _ ml => 0x51 :: bytesBE 4 ml.toNat
  | .setMode _ _ m => [0x52, m]
  | .restart _ _ => [0x53]
  | _ => []

/-- The bytes of a request's code and arguments: a payload below that length is too short for the code (R174 step 3). The data
of LOAD_PART and the arguments of WRITE, whose length depends on the cursor's space, are judged by their own rules. -/
def leastPayload : Instr → Nat
  | .loadPart _ _ _ _ => 3
  | .write _ _ _ => 1
  | c => (requestPayload c).length

/-- The requests whose payload may go on behind their arguments: what follows is not read (R188). -/
def closedPayload : Instr → Bool
  | .requestUnknown _ _ _ => false
  | .loadPart _ _ _ _ => false
  | .write _ _ _ => false
  | _ => true

/-- The rows that can bring the last byte of a frame, whatever the frame asks. -/
def mayEndFrame : Instr → Bool
  | .frameReceived _ _ => true
  | .ringInputByte _ _ => true
  | _ => false

/-- The ms that pass before a command's event (log 1). -/
def dtOf : Instr → Nat
  | .coldReset dt _ => dt
  | .rawLineChange dt _ _ => dt
  | .srcChange dt => dt
  | .gasRise dt => dt
  | .gasFall dt => dt
  | .reslowRise dt => dt
  | .reslowFall dt => dt
  | .trigEdge dt => dt
  | .tachEdge dt => dt
  | .tachWindowEnd dt => dt
  | .rxTimeout dt => dt
  | .frameReceived dt _ => dt
  | .requestUnknown dt _ _ => dt
  | .status dt _ => dt
  | .tableRead dt _ _ _ _ => dt
  | .loadBegin dt _ _ _ => dt
  | .loadPart dt _ _ _ => dt
  | .loadCommit dt _ => dt
  | .applyPendingCommit dt => dt
  | .loadDiscard dt _ => dt
  | .cursor dt _ _ _ => dt
  | .read dt _ _ => dt
  | .write dt _ _ => dt
  | .hold dt _ => dt
  | .release dt _ => dt
  | .enqueue dt _ _ _ _ _ => dt
  | .cancel dt _ _ _ => dt
  | .abort dt _ _ => dt
  | .direct dt _ _ _ _ => dt
  | .excludeStr dt _ _ => dt
  | .includeStr dt _ _ => dt
  | .clearFault dt _ _ => dt
  | .clearGas dt _ => dt
  | .setTime dt _ _ _ => dt
  | .refill dt _ _ => dt
  | .setMode dt _ _ => dt
  | .restart dt _ => dt
  | .siteMinute dt => dt
  | .freshnessExpiry dt _ => dt
  | .dischargeHoldoffEnd dt => dt
  | .confirmExpiry dt _ => dt
  | .matchDeadline dt _ => dt
  | .rectRefresh dt _ => dt
  | .slotRefresh dt _ => dt
  | .phaseTimeup dt _ => dt
  | .criterionMet dt _ => dt
  | .waitEnd dt _ => dt
  | .waterWaitExpiry dt _ => dt
  | .suspendLimit dt _ => dt
  | .noSource dt _ => dt
  | .directTimeup dt _ => dt
  | .valveClose dt _ => dt
  | .gapEnd dt => dt
  | .confirmDeadlineExpiry dt _ => dt
  | .genEnd dt => dt
  | .runOnEnd dt => dt
  | .warnExpiry dt => dt
  | .blindExpiry dt => dt
  | .blindRepeat dt => dt
  | .outputFrameEnd dt => dt
  | .ringInputByte dt _ => dt

/-! ## What is due -/

/-- The time has reached an expiry. -/
def State.past (s : State) (expiry : Option Nat) : Prop :=
  ∃ e, expiry = some e ∧ e ≤ s.now

/-- A filtered line whose stability period has ended away from its filtered level (R144). -/
def State.lineDue (s : State) (f : Filter) (high : Bool) : Prop :=
  s.past f.stableEnd ∧ f.raw = high ∧ f.level = !high

/-- The rows that the part's own time brings, and when each is due. -/
def State.dueNow (s : State) : Instr → Prop
  | .srcChange _ => ∃ high, s.lineDue s.site.src high
  | .gasRise _ => s.lineDue s.site.gas true
  | .gasFall _ => s.lineDue s.site.gas false
  | .reslowRise _ => s.lineDue s.site.reslow true
  | .reslowFall _ => s.lineDue s.site.reslow false
  | .trigEdge _ => ∃ high, s.lineDue s.site.trig high
  | .tachWindowEnd _ => s.site.measuring = true ∧ ∃ w, s.site.window = some w ∧ w.start + 1000 ≤ s.now
  | .genEnd _ => s.past s.site.genEnd
  | .runOnEnd _ => s.past s.site.runOnEnd
  | .dischargeHoldoffEnd _ => s.past s.holdoffEnd
  | .siteMinute _ => s.mgmt.minuteEnd ≤ s.now
  | .rxTimeout _ => s.ring.rx ≠ .hunt ∧ s.ring.rxLast + 2 < s.now
  | .outputFrameEnd _ =>
    ∃ x, s.ring.sending = some x ∧ x.begun * 1000 + 40 * (7 + x.frame.payload.length) ≤ s.now * 1000
  | .warnExpiry _ => s.mgmt.loaded.limits = true ∧ s.ring.sight = .seeing
      ∧ ∃ g, s.ring.lastGood = some g ∧ g + s.lim.silenceWarnMs ≤ s.now
  | .blindExpiry _ => s.mgmt.loaded.limits = true ∧ s.ring.sight ≠ .blind
      ∧ ∃ g, s.ring.lastGood = some g ∧ g + s.lim.silenceBlindS * 1000 ≤ s.now
  | .blindRepeat _ => s.ring.sight = .blind ∧ s.past s.ring.repeatDue
  | .freshnessExpiry _ (.cellVoltage i) => s.past (s.cell i).vExpiry
  | .freshnessExpiry _ (.cellTemp i) => s.past (s.cell i).tExpiry
  | .freshnessExpiry _ (.terminal i) => s.past (s.reading i).tvExpiry
  | .confirmDeadlineExpiry _ i => s.past (s.cell i).confirmDeadline
  | .confirmExpiry _ i => s.ring.sight = .seeing
      ∧ ((s.control i).state = .called ∨ (s.control i).state = .returning ∧ (s.control i).step = some .confirm)
      ∧ (s.control i).confirmLeft = some 0
  | .matchDeadline _ i => (s.control i).state = .returning ∧ (s.control i).step = some .matching
      ∧ s.past (s.control i).matchDeadline
  | .rectRefresh _ i => (s.control i).slot ≠ none ∧ (s.control i).state ≠ .equalising ∧ (s.control i).rectOrder ≠ none
      ∧ ∃ t, (s.control i).lastRectTime = some t ∧ t + s.lim.orderRefreshS * 1000 ≤ s.now
  | .slotRefresh _ sl => (s.slot sl).entryState ≠ none ∧ (s.slot sl).lastOrder ≠ none
      ∧ ∃ t, (s.slot sl).lastOrderTime = some t ∧ t + s.lim.orderRefreshS * 1000 ≤ s.now
  | .phaseTimeup _ sl => (s.slot sl).entryState = some .run ∧ (s.slot sl).recipe ≠ 0 ∧ (∃ id, s.slotEntry sl = .phase id)
      ∧ (s.slot sl).dEff * 60000 ≤ (s.slot sl).runElapsed
  | .criterionMet _ sl => (s.slot sl).entryState = some .run ∧ (s.slot sl).recipe ≠ 0
      ∧ ∃ id c, s.slotEntry sl = .phase id ∧ (s.phase id).criterion ≠ .none ∧ (s.slot sl).critStart = some c
        ∧ c + (s.phase id).critHoldMin * 60000 ≤ (s.slot sl).runElapsed
  | .waitEnd _ sl => (s.slot sl).entryState = some .wait ∧ s.past (s.slot sl).entryEnd
  | .waterWaitExpiry _ sl => (s.slot sl).entryState = some .waterWait ∧ s.past (s.slot sl).entryEnd
  | .suspendLimit _ sl => (s.slot sl).entryState = some .suspended
      ∧ s.lim.suspendMaxMin * 60000 ≤ (s.slot sl).suspendedTotal
  | .noSource _ sl => (s.slot sl).entryState ≠ none ∧ (s.slot sl).reasons.source = true
      ∧ ∃ t, (s.slot sl).sourceWaitStart = some t ∧ t + s.lim.sourceWaitMin * 60000 ≤ s.now
  | .directTimeup _ sl => (s.slot sl).entryState = some .direct
      ∧ s.lim.directMaxMin * 60000 ≤ (s.slot sl).runElapsed
  | .valveClose _ p => s.water.state = .dosing ∧ s.water.string ≠ none ∧ p ∈ s.water.openSet
      ∧ ∃ g t, s.groupItem? p = some g ∧ g.sent = some t ∧ t + g.openMs ≤ s.now
  | .gapEnd _ => s.water.state = .gap ∧ s.water.string ≠ none ∧ s.past s.water.gapEnd
  | .applyPendingCommit _ => s.mgmt.staging = .pending ∧ s.mgmt.stagedTable ≠ none ∧ s.water.state = .idle
      ∧ ∀ i, (s.control i).slot = none
  | _ => False

/-! ## Fresh values (R12, R14 to R17) -/

/-- Position `p` of the string holds the fresh voltage `v`. -/
def State.measured (s : State) (i : Str) (p : Pos) (v : Nat) : Prop :=
  p.val < (s.cfg i).cells ∧ (s.cellAt i p).voltage = some v ∧ ∃ e, (s.cellAt i p).vExpiry = some e ∧ s.now ≤ e

/-- Position `p` of the string is fresh and holds the fresh temperature `t`. -/
def State.warm (s : State) (i : Str) (p : Pos) (t : Int) : Prop :=
  p.val < (s.cfg i).cells ∧ (s.cellAt i p).temp = some t ∧ (∃ e, (s.cellAt i p).vExpiry = some e ∧ s.now ≤ e)
    ∧ ∃ e, (s.cellAt i p).tExpiry = some e ∧ s.now ≤ e

/-- The string is present, in ON_BUS, and its terminal_v is `v` and fresh. -/
def State.onBusAt (s : State) (i : Str) (v : Nat) : Prop :=
  (s.cfg i).present = true ∧ (s.control i).state = .onBus ∧ (s.reading i).terminalV = some v
    ∧ ∃ e, (s.reading i).tvExpiry = some e ∧ s.now ≤ e

/-- The derived values of the string are those that its cells give now (R9, R14 to R16). -/
def State.derivedAt (s : State) (i : Str) : Prop :=
  (s.reading i).freshCells = s.judgeFreshCells i ∧ (s.reading i).ts = s.judgeTs i ∧ (s.reading i).spread = s.judgeSpread i
    ∧ ((s.reading i).dry = true ↔ ∃ p : Pos, p.val < (s.cfg i).cells ∧ (s.cellAt i p).level = .dry)

/-! ## Codes of records (11.3) -/

/-- The place of a named value in a list of 11.3. -/
def codeIn {α : Type} [BEq α] (l : List α) (x : α) : Nat :=
  l.idxOf x

/-- The levels, from code 0. -/
def levelCodes : List Level := [.unknown, .high, .normal, .low, .dry, .noProbe]

/-- The string states, from code 0. -/
def stateCodes : List StringState := [.absent, .onBus, .called, .equalising, .returning, .faulted, .out]

/-- The entry states, from code 1; 0 is absent. -/
def entryCodes : List EntryState := [.run, .suspended, .wait, .waterWait, .direct]

/-- The reasons, from code 1; 0 is absent. -/
def reasonCodes : List Reason := [.dueDays, .dueSpread, .dueThroughput, .dry, .level, .deficit, .request, .waterPoint]

/-- The end reasons, from code 1; 0 is absent. -/
def endCodes : List EndReason :=
  [.complete, .timeup, .allowance, .noSource, .suspendLimit, .discharge, .gas, .fanFail, .blind, .trigCancel, .trigFall,
    .recall, .abortRequest, .contactor, .restart, .reservoir, .reslow, .nothing]

/-! ## Watering -/

/-- The alterations of the VALVE order that opens or closes `ps` on the manifold of `i`: those not yet sent to it, but for `ps`,
and those of `ps` (R128). -/
def State.altersTo (s : State) (i : Str) (opened : Bool) (ps : List Pos) : List Alter :=
  (if s.water.lastValveDst = some (s.cfg i).manifoldAddr then s.water.unsent.filter fun u => !ps.contains u.pos else [])
    ++ ps.map fun p => ⟨p, opened⟩

/-- The alterations of the VALVE order that opens `ps` (R128, R129). -/
def State.altersOpening (s : State) (i : Str) (ps : List Pos) : List Alter :=
  s.altersTo i true ps

/-- The positions of open_set, in position order. -/
def State.openPositions (s : State) : List Pos :=
  (List.finRange 24).filter fun p => decide (p ∈ s.water.openSet)

/-- The alterations of the one VALVE order of an early end: every open position to closed, in position order (R128, R134). -/
def State.altersClosing (s : State) (i : Str) : List Alter :=
  s.altersTo i false s.openPositions

/-- What an early end at `now` gives the cell of position `p` (R131, R134): trunc(t_open × flow_x10 / 10,000) ml, at most the
planned dose; 0 for a valve whose opening has not left the output, for one that is not open, and outside DOSING. -/
def State.earlyMl (s : State) (now : Nat) (p : Pos) : Nat :=
  if s.water.state = .dosing ∧ p ∈ s.water.openSet then
    match s.groupItem? p with
    | some g => match g.sent with
      | some t => min g.dose ((now - t) * s.lim.flowX10 / 10000)
      | none => 0
    | none => 0
  else 0

/-- What an early end gives in all. -/
def State.earlyTotal (s : State) (now : Nat) : Nat :=
  ((List.finRange 24).map (s.earlyMl now)).sum

/-- The outcome record of the round that an early end with `cause` ends (R134, R135): round_ml and cells_dosed take in what the
open valves gave. -/
def State.earlyOutcome (s : State) (now : Nat) (cause : EndReason) : OutcomeRecord where
  kind := .water
  recipe := 0
  reason := s.water.reason
  start := s.water.startStamp
  endReason := some cause
  endStamp := some s.mgmt.clock
  amount := s.water.roundMl + s.earlyTotal now
  cut := s.water.roundCut
  entries := s.water.cellsDosed + ((List.finRange 24).filter fun p => decide (0 < s.earlyMl now p)).length

/-- The watering round of `i` that stood in `s` has ended early at `now` with `cause` in `w` (R130, R131, R134, R135): the open
valves are closed by one order and accounted for with their pro-rated amounts, the unit is IDLE, and the outcome is stored. A
RESLOW rise clamps the account behind the end (R139, R144). -/
structure State.WateringEnded (s w : State) (now : Nat) (i : Str) (cause : EndReason) : Prop where
  state : w.water.state = .idle
  pump : w.water.pump = false
  openSet : w.water.openSet = []
  plan : w.water.plan = []
  group : w.water.group = []
  gapEnd : s.water.state = .gap → w.water.gapEnd = none
  unsent : w.water.unsent = if s.water.state = .dosing then s.altersClosing i else s.water.unsent
  reservoir : w.water.reservoir = if cause = .reslow then min (s.water.reservoir - s.earlyTotal now) s.lim.reservoirReserveMl
    else s.water.reservoir - s.earlyTotal now
  outcome : (w.control i).lastWaterOutcome = some (s.earlyOutcome now cause)
  given : ∀ p g, s.water.state = .dosing → p ∈ s.water.openSet → s.groupItem? p = some g →
    w.cellAt i p = { s.cellAt i p with
      deficit := (s.cellAt i p).deficit - s.earlyMl now p * 1000
      lastDose := s.earlyMl now p
      confirmDeadline := if 0 < s.earlyMl now p ∧ (s.cfg i).hasProbe p = true then some (now + s.lim.confirmMin * 60000)
        else (s.cellAt i p).confirmDeadline }
  others : ∀ j, (s.water.state = .dosing → cellStr j = i → cellPos j ∉ s.water.openSet) → w.cell j = s.cell j

/-! ## Ends of events -/

/-- The end of an event that started no scan and made no commit applicable: the site outputs follow and the arbiter acts
(log 5). -/
def State.quietEnd (s : State) : State :=
  { s.followSite.arbitrate with marks := {} }

/-- The Ring Port at the next frame boundary: the frame sent has left, further frames have joined the forward buffer and the
reply queue, the orders waiting are what they may be, and the arbiter has acted. -/
def Ring.nextBoundary (r : Ring) (fs rs : List Frame) (os : List Order) (now : Nat) : Ring :=
  { r with sending := none, forward := r.forward ++ fs, replies := r.replies ++ rs, orders := os }.arbitrate now

/-! ## Conditions and outcomes of events -/

/-- The line's stability period has ended with the raw line at `high` once `dt` ms have passed (R144). -/
def State.lineSettles (s : State) (l : Line) (high : Bool) (dt : Nat) : Prop :=
  (s.site.filter l).raw = high ∧ (s.site.filter l).level = !high
    ∧ ∃ e, (s.site.filter l).stableEnd = some e ∧ e ≤ s.now + dt

/-- The string's slot is `sl`, and the slot holds the string (R61, R63). -/
def State.holds (s : State) (sl : SlotId) (i : Str) : Prop :=
  (s.slot sl).string = some i ∧ (s.control i).slot = some sl

/-- No entry runs in the other slot. -/
def State.otherIdle (s : State) (sl : SlotId) : Prop :=
  ∀ sl', sl' ≠ sl → (s.slot sl').entryState = none

/-- The round of `i` that stood in `s` has ended with `cause` and its return has begun in `w`: the end stands in the string
record (R67), the slot has stopped (R100) and the variant is the one R67 gives. -/
structure State.EndedFor (s w : State) (i : Str) (cause : EndReason) : Prop where
  state : (w.control i).state = .returning
  endReason : (w.control i).endReason = some cause
  endStamp : (w.control i).endStamp = some s.mgmt.clock
  slot : (w.control i).slot = (s.control i).slot
  stopped : ∀ sl, (s.control i).slot = some sl →
    (w.slot sl).entryState = none ∧ (w.slot sl).reasons = {} ∧ (w.slot sl).lastOrder = none ∧ (w.slot sl).runElapsed = 0
  variant : (w.control i).variant = some
    (if cause = .gas ∨ s.site.gasLatch = true then .gas
      else if cause = .discharge ∧ s.busLowOrAbsent = true then .fast else .normal)

/-- No string other than `i` is away from the bus (R61). -/
def State.onlyAway (s : State) (i : Str) : Prop :=
  ∀ j, j ≠ i →
    (s.control j).state ≠ .called ∧ (s.control j).state ≠ .equalising ∧ (s.control j).state ≠ .returning

/-! ## Admission (R114, R115, R117) -/

/-- The string is EQUALISING with its slot in WATER_WAIT. -/
def State.atWaterPoint (s : State) (i : Str) : Prop :=
  (s.control i).state = .equalising ∧ ∃ sl, (s.control i).slot = some sl ∧ (s.slot sl).entryState = some .waterWait

/-- Some condition of an EQUALISE entry fails, of the site (R114) or of its string (R115). -/
def State.equaliseBarred (s : State) (e : Entry) : Prop :=
  s.mgmt.mode = .transparent ∨ s.mgmt.staging = .pending ∨ s.site.gasLatch = true ∨ s.site.fanFail = true
    ∨ s.discharge = true ∨ s.holdoffEnd ≠ none ∨ s.ring.sight ≠ .seeing
    ∨ (s.lim.triggerMode = .edge ∧ s.marks.gate = false) ∨ (s.lim.triggerMode = .level ∧ s.trigLevel = false)
    ∨ (∀ sl, s.rectAddr sl = 0xFF ∨ (s.slot sl).string ≠ none) ∨ s.lim.maxOut ≤ s.boundCount
    ∨ (s.control e.string).state ≠ .onBus ∨ (s.reading e.string).dry = true
    ∨ (e.recipe ≠ 0 ∧ ((s.charge e.string).qBal ≠ 0 ∨ (s.charge e.string).assumed = true))
    ∨ (s.reading e.string).ts = none
    ∨ (∃ t, (s.reading e.string).ts = some t ∧ (t < s.lim.coldLimit ∨ s.lim.hotLimit ≤ t))
    ∨ (s.reading e.string).freshCells + s.lim.staleAllow < (s.cfg e.string).cells
    ∨ s.othersOnBus e.string < s.lim.minOnBus
    ∨ (s.needsSourceAtStart e.recipe = true ∧ s.site.allowance = 0)

/-- Some condition of a WATER entry fails (R117). -/
def State.waterBarred (s : State) (e : Entry) : Prop :=
  s.mgmt.mode = .transparent ∨ s.mgmt.staging = .pending ∨ s.water.state ≠ .idle ∨ s.site.gasLatch = true
    ∨ s.ring.sight ≠ .seeing ∨ s.site.reslow.level = true
    ∨ s.water.reservoir < s.lim.reservoirReserveMl + s.lim.doseMinMl ∨ (s.cfg e.string).manifoldAddr = 0xFF
    ∨ (¬ s.atWaterPoint e.string
        ∧ (e.origin = .recipe ∨ (s.control e.string).state ≠ .onBus ∨ (s.charge e.string).qBal ≠ 0))

/-- An entry that a scan passes over. -/
def State.barred (s : State) (e : Entry) : Prop :=
  match e.kind with
  | .equalise => s.equaliseBarred e
  | .water => s.waterBarred e

/-! ## Table images (R45 to R48, R179, R180) -/

/-- `a` lies in the address set of a string: its cell range, its shunt, its contactor, its manifold (R180). -/
def StringCfg.addresses (c : StringCfg) (a : Byte) : Prop :=
  (c.cellBase.toNat ≤ a.toNat ∧ a.toNat < c.cellBase.toNat + c.cells) ∨ a = c.shuntAddr ∨ a = c.contactorAddr
    ∨ (c.manifoldAddr ≠ 0xFF ∧ a = c.manifoldAddr)

/-- A fault of a LIMITS image at field index `p` (R179). -/
def State.limitsFault (s : State) (b : List Byte) (p : Nat) : Prop :=
  let a := b.getD 1 0
  let c := b.getD 2 0
  let used (x : Byte) := x = s.ring.ownAddress ∨ ∃ i, (s.cfg i).present = true ∧ (s.cfg i).addresses x
  (p = 0 ∧ (b.getD 0 0 = 0xFF ∨ b.getD 0 0 = s.ring.ownAddress))
    ∨ (p = 1 ∧ a ≠ 0xFF ∧ (used a ∨ a = c))
    ∨ (p = 2 ∧ c ≠ 0xFF ∧ (used c ∨ c = a))
    ∨ (p = 3 ∧ (2 < u8 b 3 ∨ (a = 0xFF ∧ c = 0xFF ∧ 0 < u8 b 3) ∨ ((a = 0xFF ∨ c = 0xFF) ∧ 1 < u8 b 3)))
    ∨ (p = 4 ∧ (u8 b 4 = 0 ∨ 7 < u8 b 4))
    ∨ (p = 5 ∧ 2 < u8 b 5)

/-- A fault of the entry of `i` of a STRING image at the entry's offset `j` (R180, log 13). -/
def State.stringFault (s : State) (b : List Byte) (i : Str) (j : Nat) : Prop :=
  let c := StringCfg.ofImage b i
  let taken (x : Byte) := x = s.ring.ownAddress ∨ (x ≠ 0xFF ∧ (x = s.lim.slotARect ∨ x = s.lim.slotBRect))
    ∨ ∃ k, k < i ∧ (StringCfg.ofImage b k).present = true ∧ (StringCfg.ofImage b k).addresses x
  let inCells (x : Byte) := c.cellBase.toNat ≤ x.toNat ∧ x.toNat < c.cellBase.toNat + c.cells
  (j = 0 ∧ 1 < u8 b (20 * i.val) % 4)
    ∨ (c.present = true ∧
      ((j = 1 ∧ (c.cells < 6 ∨ 24 < c.cells))
        ∨ (j = 2 ∧ (0xFE < c.cellBase.toNat + c.cells - 1 ∨ ∃ x, inCells x ∧ taken x))
        ∨ (j = 3 ∧ (c.shuntAddr = 0xFF ∨ taken c.shuntAddr ∨ inCells c.shuntAddr))
        ∨ (j = 4 ∧ (c.contactorAddr = 0xFF ∨ taken c.contactorAddr ∨ inCells c.contactorAddr
            ∨ c.contactorAddr = c.shuntAddr))
        ∨ (j = 5 ∧ c.manifoldAddr ≠ 0xFF ∧ (taken c.manifoldAddr ∨ inCells c.manifoldAddr
            ∨ c.manifoldAddr = c.shuntAddr ∨ c.manifoldAddr = c.contactorAddr))
        ∨ (j = 6 ∧ (c.capacityAh < 10 ∨ 3000 < c.capacityAh))))

/-- Record `k` of a PHASE image, counted from 0, fails check `n` of R45's table, counted from 0; a record of zeros is unused and
fails none. -/
def phaseFault (b : List Byte) (k n : Nat) : Prop :=
  let p := PhaseRec.ofEntry b (12 * k)
  let outside (v : Nat) := v < 2000 ∨ 2700 < v
  field b (12 * k) 12 ≠ 0 ∧
    ((n = 0 ∧ (u8 b (12 * k) = 0 ∨ 4 < u8 b (12 * k))) ∨ (n = 1 ∧ outside p.vSet) ∨ (n = 2 ∧ outside p.vMin)
      ∨ (n = 3 ∧ outside p.vMax) ∨ (n = 4 ∧ p.vMax < p.vMin) ∨ (n = 5 ∧ (p.vSet < p.vMin ∨ p.vMax < p.vSet))
      ∨ (n = 6 ∧ 2 < u8 b (12 * k + 10)))

/-- Entry `i` of recipe `r`, counted from 0, of a RECIPE image fails its check, with no END before it (R48). -/
def recipeFault (b phases : List Byte) (r i : Nat) : Prop :=
  let kind (j : Nat) := u8 b (24 * r + 2 * j)
  let arg := u8 b (24 * r + 2 * i + 1)
  (∀ j < i, kind j ≠ 0) ∧
    (3 < kind i ∨ (kind i = 1 ∧ (arg = 0 ∨ 16 < arg ∨ field phases (12 * (arg - 1)) 12 = 0))
      ∨ (kind i = 2 ∧ (arg = 0 ∨ 127 < arg)))

/-- A fault of entry `e` of a PASS image at the entry's offset `j` (R179). -/
def passFault (b : List Byte) (e j : Nat) : Prop :=
  let action := u8 b (6 * e + 5) / 64
  let count := u8 b (6 * e + 5) % 32
  (j = 0 ∧ 1 < u8 b (6 * e))
    ∨ (u8 b (6 * e) = 1 ∧
      ((j = 2 ∧ 1 < u8 b (6 * e + 2) % 4) ∨ (j = 5 ∧ (action = 3 ∨ (action = 2 ∧ (count < 2 ∨ 16 < count))))))

/-- The image fails the check at place `p` in the order of its table's checks. Except for PHASE, whose checks are counted 12 to a
record, the place is the field index. -/
def State.imageFault (s : State) (t : TableId) (b : List Byte) (p : Nat) : Prop :=
  match t with
  | .limits => s.limitsFault b p
  | .string => ∃ (i : Str) (j : Nat), p = 20 * i.val + j ∧ s.stringFault b i j
  | .phase => ∃ k n, k < 16 ∧ p = 12 * k + n ∧ phaseFault b k n
  | .recipe => ∃ r i, r < 8 ∧ i < 12 ∧ p = 24 * r + 2 * i ∧ recipeFault b s.images.phase r i
  | .pass => ∃ e j, e < 16 ∧ p = 6 * e + j ∧ passFault b e j

/-- The field index that a failure at place `p` names (R45, R178). -/
def faultField (t : TableId) (p : Nat) : Nat :=
  match t with
  | .phase => 12 * (p / 12) + [0, 1, 2, 4, 2, 1, 10].getD (p % 12) 0
  | _ => p

/-- `v` brought into `lo`…`hi`. -/
def brought (v lo hi : Nat) : Nat :=
  max lo (min v hi)

/-! ## The applying of an image (R181) -/

/-- The image `image` of table `t`, applied to `s` once `dt` ms have passed, has left `w` (R181): it replaces the image of its
table, the table joins loaded, staging empties, the blocks act on the new image (R13, R20, R41, R49, R50, R80, R112, R139, R148,
R151, R162), the first holding of LIMITS and STRING makes the mode ENGAGED, and a scan starts. `replies` is the reply queue that
the notices find. A value is fresh through the ms of its expiry (log 25). -/
structure State.ImageApplied (s w : State) (dt : Nat) (t : TableId) (image : List Byte) (replies : List Frame) : Prop where
  images : w.images = s.images.put t image ∧ w.mgmt.loaded = s.mgmt.loaded.add t
  staging : w.mgmt.staging = .empty ∧ w.mgmt.stagedTable = none ∧ w.mgmt.stagedTotal = none ∧ w.mgmt.staged = []
  window : w.mgmt.clock = s.mgmt.clock ∧ w.mgmt.cursor = s.mgmt.cursor ∧ w.mgmt.held = s.mgmt.held
  mode :
    if s.mgmt.engagedOnce = false ∧ (s.mgmt.loaded.add t).limits = true ∧ (s.mgmt.loaded.add t).string = true then
      w.mgmt.mode = .engaged ∧ w.mgmt.engagedOnce = true
    else w.mgmt.mode = s.mgmt.mode ∧ w.mgmt.engagedOnce = s.mgmt.engagedOnce
  scan : w.marks.scan = true
  limits :
    t = .limits → w.site.allowance = w.lim.allowanceMin ∧ w.site.lowWindows = 0 ∧ w.site.okWindows = 0
      ∧ w.water.reservoir = min (min s.water.reservoir w.lim.reservoirCapacityMl)
          (if s.site.reslow.level = true then w.lim.reservoirReserveMl else s.water.reservoir)
  pass :
    t = .pass → (∀ e : Fin 16, w.ring.thin[e.val] = 0) ∧ w.strings = (s.begin dt).strings ∧ w.cells = s.cells
      ∧ w.queue = s.queue ∧ w.water = s.water
  control :
    t = .string → ∀ i,
      ((w.cfg i).present = true → (s.cfg i).present = false →
        (w.control i).state = .onBus ∧ (w.control i).holdoffUntil = none)
      ∧ ((w.cfg i).present = true → (s.cfg i).present = true →
        (w.control i).holdoffUntil = (s.control i).holdoffUntil
          ∧ (w.control i).lastWaterOutcome = (s.control i).lastWaterOutcome)
      ∧ ((w.cfg i).present = false → (w.control i).state = .absent ∧ ∀ e ∈ w.queue, e.string ≠ i)
  expiries :
    t = .limits → ∀ before after, before = (if s.mgmt.loaded.limits = true then s.lim.staleS * 1000 else 5000) →
      after = w.lim.staleS * 1000 →
      (before = after → w.cells = s.cells ∧ ∀ i, w.reading i = s.reading i)
      ∧ (before ≠ after → ∀ expiry : Option Nat → Option Nat → Option Nat,
        (∀ arrival e, expiry arrival e = match arrival, e with
          | some t, some e => if s.now + dt ≤ e ∧ s.now + dt < t + after then some (t + after) else none
          | _, _ => none) →
        (∀ i, w.cell i = { s.cell i with
          vExpiry := expiry (s.cell i).lastV (s.cell i).vExpiry, tExpiry := expiry (s.cell i).lastT (s.cell i).tExpiry })
        ∧ (∀ i, (w.reading i).tvExpiry = expiry (s.reading i).lastTV (s.reading i).tvExpiry
          ∧ ((w.cfg i).present = true → w.derivedAt i))
        ∧ w.busVoltage = w.judgeBusVoltage)
  records :
    t = .string → w.busVoltage = w.judgeBusVoltage ∧ ∀ i,
      ((w.cfg i).present = false → w.reading i = {} ∧ w.charge i = {} ∧ ∀ p, w.cellAt i p = {})
      ∧ ((w.cfg i).present = true → w.derivedAt i
        ∧ (∀ moved, moved = (!(s.cfg i).present || (s.cfg i).cellBase != (w.cfg i).cellBase
            || (s.cfg i).cells != (w.cfg i).cells) → ∀ (p : Pos) (c : Cell),
          c = (if moved = true then {} else s.cellAt i p) →
          w.cellAt i p = if p.val < (w.cfg i).cells ∧ (moved = true ∨ (s.cfg i).probeMask ≠ (w.cfg i).probeMask) then
              { c with level := if (w.cfg i).hasProbe p = false then .noProbe
                                else if c.level = .noProbe then .unknown else c.level }
            else c)
        ∧ ((s.cfg i).present = false → w.charge i = {} ∧ (w.reading i).terminalV = none
          ∧ (w.reading i).lastPosition = none)
        ∧ ((s.cfg i).present = true →
          (w.reading i).lastPosition = (if (s.cfg i).contactorAddr = (w.cfg i).contactorAddr then
            (s.reading i).lastPosition else none)
          ∧ (if (s.cfg i).shuntAddr = (w.cfg i).shuntAddr then (w.reading i).terminalV = (s.reading i).terminalV
              ∧ (w.reading i).lastTV = (s.reading i).lastTV ∧ (w.reading i).tvExpiry = (s.reading i).tvExpiry
            else (w.reading i).terminalV = none ∧ (w.reading i).lastTV = none ∧ (w.reading i).tvExpiry = none)
          ∧ w.charge i = { s.charge i with
              tPrev := none, spreadTimer := (w.charge i).spreadTimer
              qBal := max (-(((w.cfg i).capacityAh * 3600 : Nat) : Int)) (s.charge i).qBal
              floor := (s.charge i).floor
                || decide ((s.charge i).qBal < -(((w.cfg i).capacityAh * 3600 : Nat) : Int)) })
        ∧ ((w.cfg i).manifoldAddr = 0xFF → (∀ e ∈ w.queue, e.string = i → e.kind ≠ .water)
          ∧ ((∃ e ∈ s.queue, e.string = i ∧ e.kind = .water) → s.mgmt.mode = .engaged → w.ring.noticeLost = false →
            ⟨s.lim.controllerAddr, s.ring.ownAddress, 0x32, [0x06, 1, BitVec.ofNat 8 i.val, 1]⟩ ∈ w.ring.replies)))
  recipes :
    t = .phase ∨ t = .recipe → ∀ gone, gone = (s.queue.filter fun e => e.kind == .equalise && w.recipeIsEmpty e.recipe) →
      w.queue = (s.queue.filter fun e => !(e.kind == .equalise && w.recipeIsEmpty e.recipe))
      ∧ (∀ r, w.recipeIsEmpty r = true ↔ r ≠ 0 ∧ ∃ k, k < 12 ∧ (∀ j < k, recipeEntry w.images.recipe r j ≠ .finish)
          ∧ ((k = 0 ∧ recipeEntry w.images.recipe r k = .finish)
            ∨ ∃ id, recipeEntry w.images.recipe r k = .phase id
              ∧ ((List.range 12).all fun b => (w.images.phase.getD (12 * (id - 1) + b) 0) == 0) = true))
      ∧ (s.mgmt.mode = .engaged → w.ring.replies = replies ++ (gone.map fun e =>
          ⟨s.lim.controllerAddr, s.ring.ownAddress, 0x32, [0x06, 1, BitVec.ofNat 8 e.string.val, 0]⟩).take
            (8 - replies.length)
        ∧ w.ring.noticeLost = (s.ring.noticeLost || decide (8 - replies.length < gone.length)))
      ∧ (s.mgmt.mode = .transparent → w.ring.replies = replies)
      ∧ w.strings = (s.begin dt).strings ∧ w.cells = s.cells ∧ w.water = s.water

/-! ## Policing (R161) -/

/-- An order of kind RECT, VALVE or CONTACTOR that R161 polices when another source than the part sends it in ENGAGED mode: by
its DST, or with DST 0xFF by some destination of its kind. -/
def State.orderPoliced (s : State) (f : Frame) : Prop :=
  (f.kind = 0x20 ∧ ∃ sl, s.rectAddr sl ≠ 0xFF ∧ (f.dst = s.rectAddr sl ∨ f.dst = 0xFF)
      ∧ ((s.slot sl).string.isSome = true ∨ (f.payload.head? = some 1 ∧ s.site.gasLatch = true)))
    ∨ (f.kind = 0x22 ∧ ∃ i, s.water.state ≠ .idle ∧ s.water.string = some i ∧ (s.cfg i).manifoldAddr ≠ 0xFF
      ∧ (f.dst = (s.cfg i).manifoldAddr ∨ f.dst = 0xFF))
    ∨ (f.kind = 0x21 ∧ ∃ i, ((s.control i).state = .called ∨ (s.control i).state = .equalising
        ∨ (s.control i).state = .returning)
      ∧ (f.dst = (s.cfg i).contactorAddr ∨ f.dst = 0xFF))

/-! ## Accounts and due reasons (R22, R35 to R37, R39) -/

/-- R22 cuts the interval of a reading of `i` at `now`. -/
def State.gapBefore (s : State) (i : Str) (now : Nat) : Prop :=
  ∃ t, (s.charge i).tPrev = some t ∧ s.lim.gapMs < now - t

/-- The account of `i` is the one the integration gave. -/
def State.accountIs (w : State) (i : Str) (r : Integrated) : Prop :=
  (w.charge i).qBal = r.charge.qBal ∧ (w.charge i).fine = r.charge.fine ∧ (w.charge i).assumed = r.charge.assumed
    ∧ (w.charge i).floor = r.charge.floor ∧ (w.charge i).gap = r.charge.gap

/-- DUE_DAYS of `i` once the site-minute of `s` has counted the day in `w` (R37). -/
def State.daysDue (s w : State) (i : Str) : Prop :=
  (s.cfg i).dueDays ≠ 0 ∧ (s.cfg i).dueDays ≤ (w.charge i).daysSinceEq

/-- DUE_SPREAD of `i` once `dt` ms have passed (R35). -/
def State.spreadDue (s : State) (dt : Nat) (i : Str) : Prop :=
  ∃ t, (s.charge i).spreadTimer = some t ∧ t + (s.cfg i).spreadMin * 60000 ≤ s.now + dt

/-- DUE_THROUGHPUT of `i` (R36). -/
def State.throughputDue (s : State) (i : Str) : Prop :=
  (s.cfg i).throughputPct ≠ 0 ∧ (s.cfg i).capacityAh * 3600 * (s.cfg i).throughputPct / 100 ≤ (s.charge i).dDis

/-- The due reasons of `i` are evaluated at the site-minute of `s` that leads to `w` (R37). -/
structure State.equaliseJudged (s w : State) (i : Str) : Prop where
  present : (s.cfg i).present = true
  onBus : (s.control i).state = .onBus
  noHoldoff : (w.control i).holdoffUntil = none
  recipe : s.recipeIsEmpty (s.cfg i).autoRecipe = false
  notQueued : ∀ e ∈ s.queue, e.string = i → e.kind ≠ .equalise
  unbound : (s.control i).slot = none

/-- A due cell of `i` (R39). -/
structure State.cellDue (s : State) (i : Str) (p : Pos) : Prop where
  inString : p.val < (s.cfg i).cells
  noFault : (s.cellAt i p).wateringFault = false
  settled : (s.cellAt i p).confirmDeadline = none
  wants : (s.cellAt i p).level = .low ∨ (s.cellAt i p).level = .dry ∨ s.lim.waterDueMl * 1000 ≤ (s.cellAt i p).deficit

/-- The string is owed water (R39). -/
structure State.waterOwed (s : State) (i : Str) : Prop where
  present : (s.cfg i).present = true
  auto : (s.cfg i).autoWater = true
  manifold : (s.cfg i).manifoldAddr ≠ 0xFF
  notOut : (s.control i).state ≠ .out
  notWatered : s.water.state = .idle ∨ s.water.string ≠ some i
  due : ∃ p, s.cellDue i p

/-! ## Frames at the ring input (R157, R158) -/

/-- The byte `b` at the ring input is the last of the good frame `f`: all before it has been received (R157, R158). -/
def State.lastByteOf (s : State) (f : Frame) (b : Byte) : Prop :=
  f.payload.length ≤ 48 ∧
    ∃ hi, s.ring.rx = .receiving (f.checked ++ [hi]) ∧ bytesBE 2 (crc16 f.checked).toNat = [hi, b]

/-- The first part of a good frame while sight is SEEING: the receiver hunts and the silence restarts (R158). -/
def State.heard (s : State) : State :=
  s.modRing fun r => { r with rx := .hunt, lastGood := some s.now }

/-- The commands, one after the other, each run on the state the one before left; none once one gives no next state. -/
def runAll : List Instr → State → Option State
  | [], s => some s
  | c :: cs, s =>
    match exec c s with
    | .next t => runAll cs t
    | _ => none

/-! ## Runs -/

/-- A run is safe when no step of it stops and every state of it keeps the bounds. -/
def safeAfter (s : State) : Nat → Prop
  | 0 => s.Ok
  | k + 1 => s.Ok ∧ ∃ t, step s = .next t ∧ safeAfter t k

end Sys2Proof.Machine
end

