-- ==== Sys2Proof/Certificates/Slice0/Obligations.lean ====
section
/-! DEFINITION. The statements for the provers. Each says in its docstring which rules of spec/ it rests on; a clause that is
the model's own choice names its entry of the assumption log. -/

open Sys2Proof Sys2Proof.Machine

/-! ## The step and the passing of time -/

/-- The step runs the command at the front of the queue on the state with the queue's rest, and every command answers a next
state: no event of the manual stops the part. The queue of waiting commands is the model's own (log 21). -/
def Obligations.StepRunsFrontCommand : Prop :=
  (∀ (c : Instr) (cs : List Instr) (s : State), s.pending = c :: cs → step s = exec c { s with pending := cs })
  ∧ ∀ (c : Instr) (s : State), ∃ t, exec c s = .next t

/-- What the time before an event does: run_elapsed counts in RUN and DIRECT (R85, R101), suspended_total in SUSPENDED (R96),
confirm_left counts down while sight is SEEING (R66, R69); every other item but the time base stands (log 1). -/
def Obligations.PassingTimeMovesCountersAlone : Prop :=
  ∀ (s : State) (dt : Nat),
    (∃ v a b, s.begin dt = { s with now := s.now + dt, strings := v, slotA := a, slotB := b, marks := {} })
    ∧ (∀ i, ((s.begin dt).str i).reading = (s.str i).reading ∧ ((s.begin dt).str i).charge = (s.str i).charge)
    ∧ (∀ i, (s.begin dt).control i =
        if s.ring.sight = .seeing then
          { s.control i with confirmLeft := (s.control i).confirmLeft.map fun left => left - dt }
        else s.control i)
    ∧ (∀ sl, (s.slot sl).entryState = some .run ∨ (s.slot sl).entryState = some .direct →
        (s.begin dt).slot sl = { s.slot sl with runElapsed := (s.slot sl).runElapsed + dt })
    ∧ (∀ sl, (s.slot sl).entryState = some .suspended →
        (s.begin dt).slot sl = { s.slot sl with suspendedTotal := (s.slot sl).suspendedTotal + dt })
    ∧ (∀ sl, (s.slot sl).entryState = none ∨ (s.slot sl).entryState = some .wait
        ∨ (s.slot sl).entryState = some .waterWait → (s.begin dt).slot sl = s.slot sl)

/-- Where nothing is due, nothing but time passes. On an empty queue a step lets 1 ms pass and puts every event then due into the
queue, to take no further time, and no other command (log 3; the time a frame takes at the output is log 22). An expiry, a
settled line or an end of a frame whose timer is absent, has not been reached when its time has passed, or whose owner does not
stand in the state that the rule asks for, is no event (log 2). That such a row is no event, and the tick, are the model's
choices; the times themselves are those of the rules. -/
def Obligations.EventsNotDueLetTimePass : Prop :=
  ∀ (s : State) (dt : Nat),
    (s.pending = [] → ∃ due : List Instr, step s = .next { s.elapse 1 with pending := due }
      ∧ ∀ c, c ∈ due ↔ dtOf c = 0 ∧ (s.elapse 1).dueNow c)
    ∧ ((∀ e, s.site.src.stableEnd = some e → s.now + dt < e) → exec (.srcChange dt) s = .next (s.begin dt))
    ∧ ((∀ e, s.site.gas.stableEnd = some e → s.now + dt < e) →
        exec (.gasRise dt) s = .next (s.begin dt) ∧ exec (.gasFall dt) s = .next (s.begin dt))
    ∧ ((∀ e, s.site.reslow.stableEnd = some e → s.now + dt < e) →
        exec (.reslowRise dt) s = .next (s.begin dt) ∧ exec (.reslowFall dt) s = .next (s.begin dt))
    ∧ ((∀ e, s.site.trig.stableEnd = some e → s.now + dt < e) → exec (.trigEdge dt) s = .next (s.begin dt))
    ∧ ((s.site.measuring = false ∨ ∀ w, s.site.window = some w → s.now + dt < w.start + 1000) →
        exec (.tachWindowEnd dt) s = .next (s.begin dt))
    ∧ ((∀ e, s.site.genEnd = some e → s.now + dt < e) → exec (.genEnd dt) s = .next (s.begin dt))
    ∧ ((∀ e, s.site.runOnEnd = some e → s.now + dt < e) → exec (.runOnEnd dt) s = .next (s.begin dt))
    ∧ ((s.ring.rx = .hunt ∨ s.now + dt ≤ s.ring.rxLast + 2) → exec (.rxTimeout dt) s = .next (s.begin dt))
    ∧ ((∀ got, s.ring.rx = .receiving got → got.length < 4 ∨ got.length ≠ 5 + (got.getD 3 0).toNat) →
        ∀ b, exec (.frameReceived dt b) s = .next (s.begin dt))
    ∧ (s.ring.sending = none → exec (.outputFrameEnd dt) s = .next (s.begin dt))
    ∧ (s.now + dt < s.mgmt.minuteEnd → exec (.siteMinute dt) s = .next (s.begin dt))
    ∧ ((∀ e, s.holdoffEnd = some e → s.now + dt < e) → exec (.dischargeHoldoffEnd dt) s = .next (s.begin dt))
    ∧ ((s.mgmt.staging ≠ .pending ∨ s.water.state ≠ .idle ∨ ∃ i, (s.control i).slot ≠ none) →
        exec (.applyPendingCommit dt) s = .next (s.begin dt))
    ∧ ((s.mgmt.loaded.limits = false ∨ s.ring.sight ≠ .seeing
        ∨ ∀ g, s.ring.lastGood = some g → s.now + dt < g + s.lim.silenceWarnMs) →
        exec (.warnExpiry dt) s = .next (s.begin dt))
    ∧ ((s.mgmt.loaded.limits = false ∨ s.ring.sight = .blind
        ∨ ∀ g, s.ring.lastGood = some g → s.now + dt < g + s.lim.silenceBlindS * 1000) →
        exec (.blindExpiry dt) s = .next (s.begin dt))
    ∧ ((s.ring.sight ≠ .blind ∨ ∀ e, s.ring.repeatDue = some e → s.now + dt < e) →
        exec (.blindRepeat dt) s = .next (s.begin dt))
    ∧ (∀ i : CellIx,
        ((∀ e, (s.cell i).confirmDeadline = some e → s.now + dt < e) →
          exec (.confirmDeadlineExpiry dt i) s = .next (s.begin dt))
        ∧ ((∀ e, (s.cell i).vExpiry = some e → s.now + dt < e) →
          exec (.freshnessExpiry dt (.cellVoltage i)) s = .next (s.begin dt))
        ∧ ((∀ e, (s.cell i).tExpiry = some e → s.now + dt < e) →
          exec (.freshnessExpiry dt (.cellTemp i)) s = .next (s.begin dt)))
    ∧ (∀ i : Str,
        ((∀ e, (s.reading i).tvExpiry = some e → s.now + dt < e) →
          exec (.freshnessExpiry dt (.terminal i)) s = .next (s.begin dt))
        ∧ ((s.ring.sight ≠ .seeing
            ∨ ((s.control i).state ≠ .called ∧ ((s.control i).state ≠ .returning ∨ (s.control i).step ≠ some .confirm))
            ∨ ∀ left, (s.control i).confirmLeft = some left → dt < left) →
          exec (.confirmExpiry dt i) s = .next (s.begin dt))
        ∧ (((s.control i).state ≠ .returning ∨ (s.control i).step ≠ some .matching
            ∨ ∀ e, (s.control i).matchDeadline = some e → s.now + dt < e) →
          exec (.matchDeadline dt i) s = .next (s.begin dt))
        ∧ (((s.control i).slot = none ∨ (s.control i).state = .equalising ∨ (s.control i).rectOrder = none
            ∨ ∀ e, (s.control i).lastRectTime = some e → s.now + dt < e + s.lim.orderRefreshS * 1000) →
          exec (.rectRefresh dt i) s = .next (s.begin dt)))
    ∧ (∀ sl : SlotId,
        (((s.slot sl).entryState = none ∨ (s.slot sl).lastOrder = none
            ∨ ∀ e, (s.slot sl).lastOrderTime = some e → s.now + dt < e + s.lim.orderRefreshS * 1000) →
          exec (.slotRefresh dt sl) s = .next (s.begin dt))
        ∧ (((s.slot sl).entryState ≠ some .run ∨ (s.slot sl).recipe = 0
            ∨ ∀ id, s.slotEntry sl = .phase id → (s.slot sl).runElapsed + dt < (s.slot sl).dEff * 60000) →
          exec (.phaseTimeup dt sl) s = .next (s.begin dt))
        ∧ (((s.slot sl).entryState ≠ some .run ∨ (s.slot sl).recipe = 0
            ∨ ∀ id, s.slotEntry sl = .phase id → (s.phase id).criterion = .none ∨ ∀ c, (s.slot sl).critStart = some c →
                (s.slot sl).runElapsed + dt < c + (s.phase id).critHoldMin * 60000) →
          exec (.criterionMet dt sl) s = .next (s.begin dt))
        ∧ (((s.slot sl).entryState ≠ some .wait ∨ ∀ e, (s.slot sl).entryEnd = some e → s.now + dt < e) →
          exec (.waitEnd dt sl) s = .next (s.begin dt))
        ∧ (((s.slot sl).entryState ≠ some .waterWait ∨ ∀ e, (s.slot sl).entryEnd = some e → s.now + dt < e) →
          exec (.waterWaitExpiry dt sl) s = .next (s.begin dt))
        ∧ (((s.slot sl).entryState ≠ some .suspended
            ∨ (s.slot sl).suspendedTotal + dt < s.lim.suspendMaxMin * 60000) →
          exec (.suspendLimit dt sl) s = .next (s.begin dt))
        ∧ (((s.slot sl).entryState = none ∨ (s.slot sl).reasons.source = false
            ∨ ∀ e, (s.slot sl).sourceWaitStart = some e → s.now + dt < e + s.lim.sourceWaitMin * 60000) →
          exec (.noSource dt sl) s = .next (s.begin dt))
        ∧ (((s.slot sl).entryState ≠ some .direct ∨ (s.slot sl).runElapsed + dt < s.lim.directMaxMin * 60000) →
          exec (.directTimeup dt sl) s = .next (s.begin dt)))
    ∧ (∀ p : Pos, (s.water.state ≠ .dosing ∨ s.water.string = none ∨ p ∉ s.water.openSet
          ∨ ∀ g ∈ s.water.group, g.pos = p → ∀ e, g.sent = some e → s.now + dt < e + g.openMs) →
        exec (.valveClose dt p) s = .next (s.begin dt))
    ∧ ((s.water.state ≠ .gap ∨ s.water.string = none ∨ ∀ e, s.water.gapEnd = some e → s.now + dt < e) →
        exec (.gapEnd dt) s = .next (s.begin dt))

/-! ## Reset -/

/-- The values after a cold reset. State.reset holds the cold-reset columns of R1, R2, R21, R60, R81, R106, R124, R143, R156,
R162 and R173 whole, field by field in the order of the records, with every committed image zero bytes (R43, R173, R175). A
COLD_RESET leaves these values with own_address 0xF0 plus the straps (R156), minute_end 60,000 ms after the end of the reset
(R173), and a raw line that is high in its stability period (R144); the raw lines, the time base and the waiting commands are
not reset. That State.reset has straps 0, low raw lines and the time base at 0, and that a COLD_RESET keeps those three, is
the model's choice (log 1, log 6), as are the values of its own fields: the numbers of log 10 and the generator width (log 39). -/
def Obligations.ColdResetRestoresColdValues : Prop :=
  (∀ i : CellIx, State.reset.cell i = ⟨none, none, none, none, none, none, .unknown, 0, 0, false, none, 0⟩)
  ∧ (∀ i : Str, State.reset.reading i = ⟨none, none, none, none, 0, none, none, false⟩
      ∧ State.reset.charge i = ⟨0, none, 0, 0, 0, 0, 0, true, false, false, none, none, false, 0, none⟩
      ∧ State.reset.control i
          = ⟨.absent, none, none, none, none, none, none, none, none, none, none, none, 0, none, none, none⟩)
  ∧ (∀ sl, State.reset.slot sl = ⟨none, 0, none, none, false, 0, none, none, 0, none, none, none, none, 0, 0, none, 0,
      ⟨false, false, false, false⟩, none, none, none, 0, 0, false, false, 0⟩)
  ∧ State.reset.busVoltage = none ∧ State.reset.discharge = false ∧ State.reset.holdoffEnd = none
  ∧ State.reset.queue = [] ∧ State.reset.trigLevel = false ∧ State.reset.pending = [] ∧ State.reset.now = 0
  ∧ State.reset.water = ⟨.idle, none, none, none, [], [], [], [], none, false, 0, 0, 0, false, none, none, 0⟩
  ∧ State.reset.site = ⟨⟨false, false, none⟩, ⟨false, false, none⟩, ⟨false, false, none⟩, ⟨false, false, none⟩, .idle, none, 0,
      false, 0, false, false, false, none, 0, false, none, none, 0, 0, false, false, .slow, 0⟩
  ∧ State.reset.ring = ⟨0xF0, .hunt, 0, [], [], [], 0, 0, ⟨0, 0, 0, 0, 0, 0⟩, false, false, .seeing, none, none, none,
      Vector.replicate 16 0, 0⟩
  ∧ State.reset.mgmt = ⟨.empty, none, none, [], ⟨false, false, false, false, false⟩, false, .transparent, ⟨.cell, 0⟩, false,
      none, ⟨0, 0⟩, 60000⟩
  ∧ (∀ tb, State.reset.images.get tb = List.replicate tb.size 0)
  ∧ ∀ (s : State) (dt : Nat) (straps : BitVec 2),
    exec (.coldReset dt straps) s = .next
      { State.reset with
        pending := s.pending
        now := s.now + dt
        site := {
          src := ⟨s.site.src.raw, false, if s.site.src.raw then some (s.now + dt + 20) else none⟩
          gas := ⟨s.site.gas.raw, false, if s.site.gas.raw then some (s.now + dt + 20) else none⟩
          reslow := ⟨s.site.reslow.raw, false, if s.site.reslow.raw then some (s.now + dt + 20) else none⟩
          trig := ⟨s.site.trig.raw, false, if s.site.trig.raw then some (s.now + dt + 5) else none⟩
          lampStart := s.now + dt }
        ring := { ownAddress := BitVec.ofNat 8 (0xF0 + straps.toNat) }
        mgmt := { minuteEnd := s.now + dt + 60000 } }

/-! ## Invariants of every step -/

/-- The bounds and exclusions of `State.Ok`, no run-on beside a gassing run (R150) among them, and the bindings of
`State.BoundOk` hold right after reset. -/
def Obligations.ResetKeepsBounds : Prop :=
  State.reset.Ok ∧ State.reset.BoundOk

/-- From every state that meets the bounds, whether or not a run reaches it, a step leads to one that does: the ranges of the
queues, the counts, the records and the clock (R1, R8, R156, R173), one waiting order for each destination (R164), no RECT ON
waiting under the gas stop (R165), gas_stop in step with the gas latch (R156), the order and uniqueness of the Round Queue
(R106, R107), GENREQ high exactly in PULSE (R146), no run-on beside a gassing run (R150), PUMP on exactly in DOSING (R129,
R132, R135). -/
def Obligations.EveryStepKeepsBounds : Prop :=
  ∀ s t : State, s.Ok → step s = .next t → t.Ok

/-! ## Rules over every command -/

/-- Rules over every command. own_address is sampled at a cold reset and at no other event (R156). The gas latch is set by a GAS
rise alone (R153), and cleared by a cold reset or by a CLEAR_GAS taken while the filtered GAS line is low (R154). The site clock
moves at a site-minute, to the next minute, at a SET_TIME and at a cold reset, and at no other event (R186). A frame that
completes may carry the CLEAR_GAS or the SET_TIME. -/
def Obligations.SharedItemsMoveAtTheirEvents : Prop :=
  (∀ (c : Instr) (s t : State), (∀ dt straps, c ≠ .coldReset dt straps) → exec c s = .next t →
      t.ring.ownAddress = s.ring.ownAddress)
  ∧ (∀ (c : Instr) (s t : State), exec c s = .next t →
      (s.site.gasLatch = false → t.site.gasLatch = true → ∃ dt, c = .gasRise dt)
      ∧ (s.site.gasLatch = true → t.site.gasLatch = false →
          (∃ dt straps, c = .coldReset dt straps)
          ∨ (((∃ dt src, c = .clearGas dt src) ∨ mayEndFrame c = true) ∧ s.site.gas.level = false)))
  ∧ (∀ (c : Instr) (s t : State), exec c s = .next t → t.mgmt.clock ≠ s.mgmt.clock →
      (∃ dt straps, c = .coldReset dt straps) ∨ (∃ dt src d m, c = .setTime dt src d m) ∨ mayEndFrame c = true ∨
        ((∃ dt, c = .siteMinute dt) ∧ t.mgmt.minuteEnd = s.mgmt.minuteEnd + 60000
          ∧ t.mgmt.clock = if s.mgmt.clock.minute = 1439 then ⟨(s.mgmt.clock.day + 1) % 65536, 0⟩
              else ⟨s.mgmt.clock.day, s.mgmt.clock.minute + 1⟩))

/-- A committed image is replaced whole, and of one table at a time (R43, R181): an event that changes the images and is no
cold reset finds a table staged, puts its image in the place of that table's alone and leaves staging EMPTY. A pending image
goes in as it was left pending, at whatever event makes it applicable; an image just received goes in clamped, at a
LOAD_COMMIT (R178), which a frame that completes may carry. -/
def Obligations.ImagesChangeWhole : Prop :=
  ∀ (c : Instr) (s t : State), (∀ dt straps, c ≠ .coldReset dt straps) → exec c s = .next t → t.images ≠ s.images →
    t.mgmt.staging = .empty ∧ ∃ tb, s.mgmt.stagedTable = some tb ∧
      ((s.mgmt.staging = .pending ∧ t.images = s.images.put tb s.mgmt.staged)
        ∨ (s.mgmt.staging = .receiving ∧ ((∃ dt src, c = .loadCommit dt src) ∨ mayEndFrame c = true)
            ∧ t.images = s.images.put tb (clampImage tb s.mgmt.staged)))

/-! ## Reception (R157, R158) -/

/-- The receiver's table: HUNT takes 0xA5 alone; inside a frame every byte is data and is counted by LEN; a LEN above 48
abandons the frame with BAD_CHECK; the second check byte ends reception; more than 2 ms without a byte abandons the frame with
RUNT. `got` holds the bytes since the start marker, so its byte 3 is LEN. Two clauses are the model's choice: that a
RING_INPUT_BYTE of the second check byte is a FRAME_RECEIVED (log 7), and that the silence of more than 2 ms is an event of its
own, given as RX_TIMEOUT, so that a byte given first is taken into the frame (log 2). -/
def Obligations.ReceiverTakesEachByte : Prop :=
  ∀ (s : State) (dt : Nat) (b : Byte) (got : List Byte),
    (s.ring.rx = .hunt → b = 0xA5 → exec (.ringInputByte dt b) s = .next ((s.begin dt).modRing fun r =>
      { r with rx := .receiving [], rxLast := s.now + dt }))
    ∧ (s.ring.rx = .hunt → b ≠ 0xA5 → exec (.ringInputByte dt b) s = .next (s.begin dt))
    ∧ (s.ring.rx = .receiving got → got.length < 3 → exec (.ringInputByte dt b) s = .next ((s.begin dt).modRing fun r =>
      { r with rx := .receiving (got ++ [b]), rxLast := s.now + dt }))
    ∧ (s.ring.rx = .receiving got → got.length = 3 → b.toNat ≤ 48 →
      exec (.ringInputByte dt b) s = .next ((s.begin dt).modRing fun r =>
        { r with rx := .receiving (got ++ [b]), rxLast := s.now + dt }))
    ∧ (s.ring.rx = .receiving got → got.length = 3 → 48 < b.toNat →
      exec (.ringInputByte dt b) s = .next ((s.begin dt).modRing fun r =>
        { r with rx := .hunt, counts := { r.counts with badCheck := min 65535 (r.counts.badCheck + 1) } }))
    ∧ (s.ring.rx = .receiving got → 4 ≤ got.length → got.length < 5 + (got.getD 3 0).toNat →
      exec (.ringInputByte dt b) s = .next ((s.begin dt).modRing fun r =>
        { r with rx := .receiving (got ++ [b]), rxLast := s.now + dt }))
    ∧ (s.ring.rx = .receiving got → 4 ≤ got.length → got.length = 5 + (got.getD 3 0).toNat →
      exec (.ringInputByte dt b) s = exec (.frameReceived dt b) s
        ∧ ∃ t, exec (.frameReceived dt b) s = .next t ∧ t.ring.rx = .hunt)
    ∧ (s.ring.rx = .receiving got → s.ring.rxLast + 2 < s.now + dt →
      exec (.rxTimeout dt) s = .next ((s.begin dt).modRing fun r =>
        { r with rx := .hunt, counts := { r.counts with runt := min 65535 (r.counts.runt + 1) } }).quietEnd)

/-- A frame that is built reads back: the bytes behind the start marker carry a check that agrees (R158) and give the frame
again, with every address, every kind and every payload that fits. -/
def Obligations.FrameReadsBack : Prop :=
  ∀ f : Frame, f.payload.length ≤ 48 →
    f.onRing.length = 7 + f.payload.length ∧ f.onRing.head? = some 0xA5
      ∧ frameOf f.onRing.tail = f ∧ checkAgrees f.onRing.tail = true

/-- A frame sent byte by byte to a hunting receiver, with at most 2 ms between its bytes, is received whole and classified as
that frame, once, at its last byte; until then nothing but the receiver and the counters of time moves (R157, R158). The time
before each byte is the model's operand (log 1), and the last byte stands for FRAME_RECEIVED (log 7). -/
def Obligations.EveryFrameIsReceivedWhole : Prop :=
  ∀ (f : Frame) (ds : List Nat) (s : State), f.payload.length ≤ 48 → ds.length = f.onRing.length →
    (∀ d ∈ ds.tail, d ≤ 2) → s.ring.rx = .hunt → s.ring.sight = .seeing →
    ∃ u : State, runAll (List.zipWith Instr.ringInputByte ds f.onRing) s = some (u.heard.classify f).settle
      ∧ u = { s.begin ds.sum with ring := { s.ring with rx := u.ring.rx, rxLast := u.ring.rxLast } }

/-- The end of a frame: a check that does not agree drops it and counts BAD_CHECK, and the silence is not restarted; a check
that agrees makes the arrival time last_good (R158). A good frame that arrives in WARN or BLIND first brings sight back to
SEEING, whole before the frame is classified (log 31): repeat_due is absent, the lamp is judged with sight SEEING, so that a
frame which calls for BLINK again starts it anew (R155, R169; what followSite does is stated by SiteOutputsFollowTheState), a
slot that nothing else holds suspended resumes and hands its activity, so that an end of its round by the frame itself starts
a new run-on (R103, R150; that the Site Line Unit judges its outputs at these moments inside the event is the model's choice,
log 5), and in ENGAGED mode a return from BLIND hands an ALARM notice with SIGHT_RESTORED, which sets
notice_lost when 8 frames wait (R166, R169). The return starts a scan; the clauses on it are stated with no entry waiting.
That resume_state is absent once a slot has resumed is the model's choice (log 43). -/
def Obligations.CheckDecidesTheFrame : Prop :=
  (∀ (s : State) (dt : Nat) (b : Byte) (got : List Byte),
    s.ring.rx = .receiving got → 4 ≤ got.length → got.length = 5 + (got.getD 3 0).toNat →
    (checkAgrees (got ++ [b]) = false → exec (.frameReceived dt b) s = .next ((s.begin dt).modRing fun r =>
      { r with rx := .hunt, counts := { r.counts with badCheck := min 65535 (r.counts.badCheck + 1) } }).quietEnd)
    ∧ (checkAgrees (got ++ [b]) = true →
      ∃ t, exec (.frameReceived dt b) s = .next t ∧ t.ring.lastGood = some (s.now + dt)))
  ∧ ∀ (s : State) (dt : Nat) (b : Byte) (f : Frame), s.lastByteOf f b → s.ring.sight ≠ .seeing → s.queue = [] →
    ((∀ sl, (s.slot sl).entryState = none) → exec (.frameReceived dt b) s = .next
      (((s.begin dt).modRing fun r =>
        { r with
          rx := .hunt, lastGood := some (s.now + dt), sight := .seeing, repeatDue := none
          replies := if s.ring.sight = .blind ∧ s.mgmt.mode = .engaged ∧ r.replies.length < 8 then
              r.replies ++ [⟨s.lim.controllerAddr, r.ownAddress, 0x32, [0x03, 5]⟩] else r.replies
          noticeLost := if s.ring.sight = .blind ∧ s.mgmt.mode = .engaged ∧ 8 ≤ r.replies.length then true
            else r.noticeLost }).followSite.classify f).settle)
    ∧ (∀ sl back, s.otherIdle sl → (s.slot sl).entryState = some .suspended → (s.slot sl).resumeState = some back →
      ((s.stretch sl).source = false ∨ s.site.src.level = true) → s.stale sl = false →
      (∃ tc, (s.slot sl).tc = some tc ∧ tc + 20 ≤ s.lim.hotLimit) →
      ∃ w : State, exec (.frameReceived dt b) s = .next (w.classify f).settle
        ∧ w.ring.sight = .seeing ∧ w.ring.repeatDue = none ∧ w.ring.rx = .hunt ∧ w.ring.lastGood = some (s.now + dt)
        ∧ (w.slot sl).entryState = some (ResumeState.entry back) ∧ (w.slot sl).resumeState = none
        ∧ (w.slot sl).pendingOrder = none ∧ (w.slot sl).reasons = {} ∧ (w.slot sl).lastOrder = some (s.entryOrder sl)
        ∧ w.site.gassingRun = (s.stretch sl).gassing ∧ ((s.stretch sl).gassing = true → w.site.runOnEnd = none)
        ∧ w.strings = (s.begin dt).strings ∧ w.cells = s.cells ∧ w.water = s.water ∧ w.mgmt = s.mgmt
        ∧ w.images = s.images)

/-! ## Classification (R159 to R163) -/

/-- In TRANSPARENT mode a good frame that is neither for own_address nor a broadcast REQUEST joins the forward buffer, or with
4 frames in it is dropped and counts OVERFLOW (R159, R163). In ENGAGED mode a good frame that step 1 does not keep and that
R161 does not police counts no POLICED, and an order among them (of the part, or of another source to a destination that R161
leaves free, as the contactor of a string in ON_BUS, OUT or FAULTED) moves no string, slot, cell, queue entry or watering
round; the frame goes by the first enabled Pass Table entry that matches it: PASS forwards it, STRIP does not, THIN(n)
forwards it when its counter is n − 1, which then becomes 0, and otherwise counts; without an entry it is forwarded (R159,
R162). Stated while the output is busy, and for the table with room in the forward buffer and no commit pending. -/
def Obligations.FramesAreForwardedByModeAndTable : Prop :=
  (∀ (s : State) (dt : Nat) (b : Byte) (f : Frame) (x : Sending), s.lastByteOf f b → s.mgmt.mode = .transparent →
      s.ring.sight = .seeing → f.dst ≠ s.ring.ownAddress → ¬ (f.dst = 0xFF ∧ f.kind = 0x30) → s.ring.sending = some x →
      ∃ t, exec (.frameReceived dt b) s = .next t ∧ t.ring.sending = some x
        ∧ (s.ring.forward.length < 4 →
            t.ring.forward = s.ring.forward ++ [f] ∧ t.ring.counts.overflow = s.ring.counts.overflow)
        ∧ (4 ≤ s.ring.forward.length →
            t.ring.forward = s.ring.forward ∧ t.ring.counts.overflow = min 65535 (s.ring.counts.overflow + 1)))
  ∧ (∀ (s : State) (dt : Nat) (b : Byte) (f : Frame) (x : Sending), s.lastByteOf f b → s.mgmt.mode = .engaged →
      s.ring.sight = .seeing → f.dst ≠ s.ring.ownAddress → ¬ (f.dst = 0xFF ∧ f.kind = 0x30) →
      (f.src = s.ring.ownAddress ∨ ¬ s.orderPoliced f) →
      s.ring.sending = some x → s.mgmt.staging ≠ .pending → s.ring.forward.length < 4 →
      ∃ t, exec (.frameReceived dt b) s = .next t ∧ t.ring.counts.policed = s.ring.counts.policed
        ∧ ((f.kind = 0x20 ∨ f.kind = 0x21 ∨ f.kind = 0x22) → t.strings = (s.begin dt).strings
            ∧ t.slotA = (s.begin dt).slotA ∧ t.slotB = (s.begin dt).slotB ∧ t.queue = s.queue ∧ t.water = s.water
            ∧ t.cells = s.cells ∧ t.ring.orders = s.ring.orders ∧ t.ring.replies = s.ring.replies)
        ∧ ((∀ e, (s.passEntry e).matchesFrame f = false) →
            t.ring.forward = s.ring.forward ++ [f] ∧ t.ring.thin = s.ring.thin)
        ∧ ∀ e, (s.passEntry e).matchesFrame f = true → (∀ e', e' < e → (s.passEntry e').matchesFrame f = false) →
            ((s.passEntry e).action = .pass →
              t.ring.forward = s.ring.forward ++ [f] ∧ t.ring.thin = s.ring.thin)
            ∧ ((s.passEntry e).action = .strip → t.ring.forward = s.ring.forward ∧ t.ring.thin = s.ring.thin)
            ∧ (∀ n, (s.passEntry e).action = .thin n →
                (s.ring.thin[e.val] + 1 = n →
                  t.ring.forward = s.ring.forward ++ [f] ∧ t.ring.thin = s.ring.thin.set e.val 0)
                ∧ (s.ring.thin[e.val] + 1 ≠ n →
                  t.ring.forward = s.ring.forward ∧ t.ring.thin = s.ring.thin.set e.val (s.ring.thin[e.val] + 1))))

/-- In ENGAGED mode an order of another source that would work against the part is kept back and counts POLICED, and nothing
else happens (R161): a RECT to a bound slot's rectifier, a RECT ON to a present slot's rectifier under the gas latch, a VALVE
to the manifold of the string being watered, and a CONTACTOR order to a string away from the bus that does not target BUS or
is broadcast; DST 0xFF stands for every address of the kind. A CONTACTOR order with target BUS for a string whose contactor no
other string has is kept back the same way and held as the string's held order, byte for byte (R76): in RETURNING it does
nothing else, and in CALLED or EQUALISING it ends the round with RECALL and its holdoff (R67; the day of the holdoff end is
carried by log 18). -/
def Obligations.PolicedOrdersAreKeptBack : Prop :=
  (∀ (s : State) (dt : Nat) (b : Byte) (f : Frame), s.lastByteOf f b → s.mgmt.mode = .engaged → s.ring.sight = .seeing →
      f.dst ≠ s.ring.ownAddress → f.src ≠ s.ring.ownAddress →
      ((f.kind = 0x20 ∧ ∃ sl, s.rectAddr sl ≠ 0xFF ∧ (f.dst = s.rectAddr sl ∨ f.dst = 0xFF)
          ∧ ((s.slot sl).string.isSome = true ∨ (f.payload.head? = some 1 ∧ s.site.gasLatch = true)))
        ∨ (f.kind = 0x22 ∧ ∃ i, s.water.state ≠ .idle ∧ s.water.string = some i ∧ (s.cfg i).manifoldAddr ≠ 0xFF
            ∧ (f.dst = (s.cfg i).manifoldAddr ∨ f.dst = 0xFF))
        ∨ (f.kind = 0x21 ∧ (f.payload.head? ≠ some 1 ∨ f.dst = 0xFF)
            ∧ ∃ i, ((s.control i).state = .called ∨ (s.control i).state = .equalising ∨ (s.control i).state = .returning)
              ∧ (f.dst = (s.cfg i).contactorAddr ∨ f.dst = 0xFF))) →
      exec (.frameReceived dt b) s = .next ((s.begin dt).modRing fun r =>
        { r with rx := .hunt, lastGood := some (s.now + dt),
                 counts := { r.counts with policed := min 65535 (r.counts.policed + 1) } }).quietEnd)
  ∧ (∀ (s : State) (dt : Nat) (b : Byte) (f : Frame) (i : Str), s.lastByteOf f b → s.mgmt.mode = .engaged →
      s.ring.sight = .seeing → f.dst ≠ s.ring.ownAddress → f.src ≠ s.ring.ownAddress → f.kind = 0x21 →
      f.payload.head? = some 1 → f.dst ≠ 0xFF → f.dst = (s.cfg i).contactorAddr → (s.control i).state = .returning →
      (∀ j, j ≠ i → f.dst ≠ (s.cfg j).contactorAddr) →
      exec (.frameReceived dt b) s = .next (((s.begin dt).modControl i fun c => { c with heldOrder := some f }).modRing fun r =>
        { r with rx := .hunt, lastGood := some (s.now + dt),
                 counts := { r.counts with policed := min 65535 (r.counts.policed + 1) } }).quietEnd)
  ∧ (∀ (s : State) (dt : Nat) (b : Byte) (f : Frame) (i : Str), s.lastByteOf f b → s.mgmt.mode = .engaged →
      s.ring.sight = .seeing → f.dst ≠ s.ring.ownAddress → f.src ≠ s.ring.ownAddress → f.kind = 0x21 →
      f.payload.head? = some 1 → f.dst ≠ 0xFF → f.dst = (s.cfg i).contactorAddr →
      (s.control i).state = .called ∨ (s.control i).state = .equalising →
      (∀ j, j ≠ i → f.dst ≠ (s.cfg j).contactorAddr) →
      ∃ w : State, exec (.frameReceived dt b) s = .next w.settle ∧ s.EndedFor w i .recall
        ∧ (w.control i).heldOrder = some f
        ∧ (w.control i).holdoffUntil = (if s.lim.holdoffMin = 0 then (s.control i).holdoffUntil else
            some ⟨(s.mgmt.clock.day + (s.mgmt.clock.minute + s.lim.holdoffMin) / 1440) % 65536,
              (s.mgmt.clock.minute + s.lim.holdoffMin) % 1440⟩)
        ∧ w.ring.counts.policed = min 65535 (s.ring.counts.policed + 1) ∧ w.ring.forward = s.ring.forward
        ∧ w.ring.replies = s.ring.replies ∧ w.marks.scan = true ∧ (∀ j, j ≠ i → w.str j = (s.begin dt).str j)
        ∧ w.cells = s.cells ∧ w.water = s.water ∧ w.mgmt = s.mgmt ∧ w.images = s.images)

/-! ## Requests at the Ring Port (R160, R174) -/

/-- Requests at the Ring Port and the order in which every request is judged. While sight is SEEING a good REQUEST frame to
own_address acts as the row of its request does once the silence has restarted, and nothing is forwarded; a broadcast one acts
so and is forwarded too; a frame of any other kind to own_address is discarded (R160). Bytes behind a request's arguments are
not read (R188), and a payload too short for its code is answered BAD_ARG (R174). With 8 frames in the reply queue a request is
not taken: REQUEST_DROP counts, no reply is placed and nothing else happens (R160). Once LIMITS is in loaded, a request whose
source is not controller_addr is answered NOT_ALLOWED and changes no state, whatever it asks; a code the part does not know, or
none, is answered UNKNOWN with the code echoed, 0 for none, and changes no state (R174). -/
def Obligations.RequestsAreTakenInOrder : Prop :=
  (∀ (c : Instr) (src : Byte) (p : Parsed) (s : State), requestOf c = some (src, p) → 8 ≤ s.ring.replies.length →
      exec c s = .next ((s.begin (dtOf c)).modRing fun r =>
        { r with counts := { r.counts with requestDrop := min 65535 (r.counts.requestDrop + 1) } }).quietEnd)
  ∧ (∀ (c : Instr) (src : Byte) (p : Parsed) (s : State), requestOf c = some (src, p) → s.ring.replies.length < 8 →
      s.mgmt.loaded.limits = true → src ≠ s.lim.controllerAddr →
      exec c s = .next ((s.begin (dtOf c)).replied src p.code .notAllowed 0 []).quietEnd)
  ∧ (∀ (s : State) (dt : Nat) (src : Byte) (payload : List Byte), s.takesFrom src →
      exec (.requestUnknown dt src payload) s
        = .next ((s.begin dt).replied src (payload.headD 0) .unknown 0 []).quietEnd)
  ∧ ∀ (s : State) (dt : Nat) (b : Byte) (f : Frame), s.lastByteOf f b → s.ring.sight = .seeing →
    (f.dst = s.ring.ownAddress → f.kind ≠ 0x30 → exec (.frameReceived dt b) s = .next (s.begin dt).heard.quietEnd)
    ∧ (f.kind = 0x30 → ∀ (c : Instr) (p : Parsed) (tail : List Byte), requestOf c = some (f.src, p) → dtOf c = 0 →
        c.wellFormed = true → f.payload = requestPayload c ++ tail → (closedPayload c = false → tail = []) →
        (f.dst = s.ring.ownAddress → exec (.frameReceived dt b) s = exec c (s.begin dt).heard)
        ∧ (f.dst = 0xFF → s.ring.ownAddress ≠ 0xFF →
          exec c (s.begin dt).heard = .next ((s.begin dt).heard.offer f.src p).settle
          ∧ exec (.frameReceived dt b) s = .next (((s.begin dt).heard.offer f.src p).forwardFrame f).settle))
    ∧ (f.kind = 0x30 → f.dst = s.ring.ownAddress → s.takesFrom f.src → ∀ (c : Instr) (src : Byte) (p : Parsed) (n : Nat),
        requestOf c = some (src, p) → 1 ≤ n → n < leastPayload c → f.payload = (requestPayload c).take n →
        (∀ d q, c ≠ .requestUnknown d src q) →
        exec (.frameReceived dt b) s = .next ((s.begin dt).heard.replied f.src p.code .badArg 0 []).quietEnd)

/-! ## The queues and the arbiter (R163 to R167) -/

/-- Handing an order: it takes the place of the frame waiting for its destination; without one it joins the tail; with 18
waiting, the last whose destination no present binding names makes room for it, and where there is none it is not taken,
ORDER_DROP counting in both cases (R164). Under the gas stop a RECT ON is taken as RECT OFF with zero limits (R165). -/
def Obligations.OrdersWaitOncePerDestination : Prop :=
  ∀ (s : State) (f g : Frame),
    g = (if s.ring.gasStop = true ∧ f.isRectOn = true then ⟨f.dst, f.src, 0x20, [0, 0, 0, 0, 0]⟩ else f) →
    (∀ a w z, s.ring.orders = a ++ w :: z → w.frame.dst = f.dst → (∀ o ∈ a ++ z, o.frame.dst ≠ f.dst) →
      ∃ n, (s.handOrder f).ring.orders = a ++ ⟨g, n⟩ :: z ∧ (s.handOrder f).ring.counts = s.ring.counts)
    ∧ ((∀ o ∈ s.ring.orders, o.frame.dst ≠ f.dst) → s.ring.orders.length < 18 →
      ∃ n, (s.handOrder f).ring.orders = s.ring.orders ++ [⟨g, n⟩] ∧ (s.handOrder f).ring.counts = s.ring.counts)
    ∧ ((∀ o ∈ s.ring.orders, o.frame.dst ≠ f.dst) → 18 ≤ s.ring.orders.length →
      (∀ a w z, s.ring.orders = a ++ w :: z → s.bindingsName w.frame.dst = false →
          (∀ o ∈ z, s.bindingsName o.frame.dst = true) →
          ∃ n, (s.handOrder f).ring.orders = a ++ z ++ [⟨g, n⟩])
      ∧ ((∀ o ∈ s.ring.orders, s.bindingsName o.frame.dst = true) → (s.handOrder f).ring.orders = s.ring.orders)
      ∧ (s.handOrder f).ring.counts
          = { s.ring.counts with orderDrop := min 65535 (s.ring.counts.orderDrop + 1) })

/-- The arbiter at a frame boundary takes the first line of R167's table that applies, and the two counters move by the
places that are not empty once the frame has left; while a frame is being sent, or with no frame waiting, it does nothing. -/
def Obligations.ArbiterChoosesByTable : Prop :=
  ∀ (r : Machine.Ring) (now : Nat),
    (r.sending ≠ none → r.arbitrate now = r)
    ∧ (r.sending = none →
      (∀ f fs, r.replies = f :: fs → 8 ≤ r.replyWait ∨ (r.forward = [] ∧ r.orders = []) →
        r.arbitrate now = { r with
          replies := fs, sending := some ⟨f, none, now⟩, replyWait := 0
          fwdSkip := if r.forward = [] then r.fwdSkip else min 2 (r.fwdSkip + 1) })
      ∧ (∀ f fs, r.forward = f :: fs → (r.replies = [] ∨ r.replyWait < 8) → 2 ≤ r.fwdSkip ∨ r.orders = [] →
        r.arbitrate now = { r with
          forward := fs, sending := some ⟨f, none, now⟩, fwdSkip := 0
          replyWait := if r.replies = [] then r.replyWait else min 8 (r.replyWait + 1) })
      ∧ (∀ o os, r.orders = o :: os → (r.replies = [] ∨ r.replyWait < 8) → (r.forward = [] ∨ r.fwdSkip < 2) →
        r.arbitrate now = { r with
          orders := os, sending := some ⟨o.frame, some o.number, now⟩
          replyWait := if r.replies = [] then r.replyWait else min 8 (r.replyWait + 1)
          fwdSkip := if r.forward = [] then r.fwdSkip else min 2 (r.fwdSkip + 1) })
      ∧ (r.replies = [] → r.forward = [] → r.orders = [] → r.arbitrate now = r))

/-- No frame waits at the output for ever (R167). Over 9 frame boundaries from a state in which a frame heads the reply queue, and
over 4 from one in which a frame heads the forward buffer, whatever joins meanwhile and whatever orders wait, that frame begins
transmission at one of them. -/
def Obligations.WaitsAtTheOutputAreBounded : Prop :=
  (∀ (boundary : Nat → Machine.Ring) (f : Frame),
      (boundary 0).replies.head? = some f →
      (∀ k, ∃ fs rs os now, boundary (k + 1) = (boundary k).nextBoundary fs rs os now) →
      ∃ k, k < 9 ∧ (boundary k).replies.head? = some f ∧ ∃ now, (boundary (k + 1)).sending = some ⟨f, none, now⟩)
  ∧ (∀ (boundary : Nat → Machine.Ring) (f : Frame),
      (boundary 0).forward.head? = some f →
      (∀ k, ∃ fs rs os now, boundary (k + 1) = (boundary k).nextBoundary fs rs os now) →
      ∃ k, k < 4 ∧ (boundary k).forward.head? = some f ∧ ∃ now, (boundary (k + 1)).sending = some ⟨f, none, now⟩)

/-- The end of a frame at the output (R164): the output is at a frame boundary and the arbiter acts; an order is reported sent
to the Watering Unit, which empties its unsent alterations when it is the last order it handed (R128) and takes the time for
the open valves whose opening the order carries (R129; log 10). -/
def Obligations.OutputFrameEndReportsTheOrder : Prop :=
  ∀ (s : State) (dt : Nat) (x : Sending), s.ring.sending = some x →
    (x.order = none → exec (.outputFrameEnd dt) s
      = .next ((s.begin dt).modRing fun r => { r with sending := none }).quietEnd)
    ∧ (∀ n, x.order = some n → exec (.outputFrameEnd dt) s
      = .next (((s.begin dt).modRing fun r => { r with sending := none }).modWater fun w =>
          { w with
            unsent := if w.lastValveOrder = some n then [] else w.unsent
            group := w.group.map fun g =>
              if (x.frame.kind = 0x22 ∧ w.openOrder ≤ n ∧ g.pos ∈ w.openSet ∧ x.frame.opens g.pos = true
                  ∧ ∃ i, w.string = some i ∧ x.frame.dst = (s.cfg i).manifoldAddr)
              then { g with sent := some (s.now + dt) } else g }).quietEnd)

/-- While the gas latch is set, no RECT order with command ON from the order queue begins transmission (R153, R165): in a
state that meets the bounds, an order that begins at the output during an event that leaves the latch set is none. -/
def Obligations.NoRectOnBeginsUnderGas : Prop :=
  ∀ (c : Instr) (s t : State) (x : Sending) (n : Nat), s.Ok → exec c s = .next t → t.site.gasLatch = true →
    t.ring.sending = some x → x.order = some n → s.ring.sending ≠ some x → x.frame.isRectOn = false

/-! ## Site lines and their timers (R139, R144 to R154) -/

/-- The four filtered lines (R144): a raw change away from the filtered level starts a stability period of 20 ms, of 5 ms for
TRIG; a raw line that returns to its filtered level abandons the period; a level that is no change does nothing. -/
def Obligations.RawLinesAreFiltered : Prop :=
  ∀ (s : State) (dt : Nat) (l : Line) (high : Bool),
    (high = (s.site.filter l).raw → exec (.rawLineChange dt l high) s = .next (s.begin dt))
    ∧ (high ≠ (s.site.filter l).raw → high = (s.site.filter l).level →
      exec (.rawLineChange dt l high) s = .next ((s.begin dt).modSite fun t => t.withFilter l ⟨high, high, none⟩))
    ∧ (high ≠ (s.site.filter l).raw → high ≠ (s.site.filter l).level →
      exec (.rawLineChange dt l high) s = .next ((s.begin dt).modSite fun t =>
        t.withFilter l ⟨high, !high, some (s.now + dt + if l = .trig then 5 else 20)⟩))

/-- The GAS line (R144, R153): a rise with the latch clear sets the latch and the gas stop; every round in CALLED or
EQUALISING ends with GAS, a NORMAL return becomes a GAS return, every string with a slot that returns is at RECT OFF, a
watering round ends with GAS, its open valves closed by one order and accounted for with their pro-rated amounts (R130, R131,
R134, R135), and no RECT ON waits. A rise with the latch set, and every fall, change the filtered level alone. That the round
of a string being watered with its slot in WATER_WAIT ends with GAS, and not by the end of its watering, is the model's
choice: String Control takes the cause before the Watering Unit (log 47). -/
def Obligations.GasRiseStopsTheSite : Prop :=
  ∀ (s : State) (dt : Nat),
    (s.lineSettles .gas false dt → exec (.gasFall dt) s
      = .next ((s.begin dt).modSite fun t => { t with gas := ⟨false, false, none⟩ }).quietEnd)
    ∧ (s.lineSettles .gas true dt → s.site.gasLatch = true → exec (.gasRise dt) s
      = .next ((s.begin dt).modSite fun t => { t with gas := ⟨true, true, none⟩ }).quietEnd)
    ∧ (s.lineSettles .gas true dt → s.site.gasLatch = false → ∃ w : State, exec (.gasRise dt) s = .next w.settle
      ∧ w.site.gas = ⟨true, true, none⟩ ∧ w.site.gasLatch = true ∧ w.ring.gasStop = true ∧ noRectOn w.ring.orders
      ∧ (∀ i, (s.control i).state = .called ∨ (s.control i).state = .equalising →
          (w.control i).state = .returning ∧ (w.control i).endReason = some .gas ∧ (w.control i).variant = some .gas
            ∧ (w.control i).endStamp = some s.mgmt.clock)
      ∧ (∀ i, (s.control i).state = .returning → (w.control i).endReason = (s.control i).endReason
          ∧ ((s.control i).variant = some .normal → (w.control i).variant = some .gas))
      ∧ (∀ i, (w.control i).state = .returning → (s.control i).slot ≠ none → (w.control i).rectOrder = some .off)
      ∧ (∀ i, (s.control i).state = .onBus ∨ (s.control i).state = .faulted ∨ (s.control i).state = .out →
          (w.control i).state = (s.control i).state)
      ∧ (∀ i, s.water.string = some i → s.water.state ≠ .idle → s.WateringEnded w (s.now + dt) i .gas)
      ∧ w.mgmt = s.mgmt ∧ w.images = s.images ∧ w.discharge = s.discharge ∧ w.busVoltage = s.busVoltage)

/-- The RESLOW line (R130, R131, R134, R135, R139, R144): a rise clamps the account to the reserve, and first ends a round in
progress with RESLOW; a fall starts a scan and raises nothing. In DOSING one VALVE order closes every open position, in
position order and behind the alterations not yet sent to the manifold; each open valve gives trunc(t_open × flow_x10 /
10,000) ml, at most its dose and 0 before its opening has left the output, which leaves the account and the cell's deficit,
stands as its last dose, and sets the confirmation of a probe cell given more than 0 ml; the outcome record carries the sum
and the count of cells dosed. In GAP no order is handed and nothing more is given. ROUND_ENDED is handed in ENGAGED mode, and
a slot of the string in WATER_WAIT starts its next entry (R88). That the round ends before the account is clamped is the
model's reading (log 4). -/
def Obligations.ReservoirLowEndsAndClamps : Prop :=
  ∀ (s : State) (dt : Nat),
    (s.lineSettles .reslow false dt → exec (.reslowFall dt) s
      = .next ({ (s.begin dt).modSite fun t => { t with reslow := ⟨false, false, none⟩ } with
          marks := { scan := true } }).settle)
    ∧ (s.lineSettles .reslow true dt → s.water.state = .idle → exec (.reslowRise dt) s
      = .next (((s.begin dt).modSite fun t => { t with reslow := ⟨true, true, none⟩ }).modWater fun w =>
          { w with reservoir := min w.reservoir s.lim.reservoirReserveMl }).quietEnd)
    ∧ (∀ i, s.lineSettles .reslow true dt → s.water.state ≠ .idle → s.water.string = some i →
      ∃ w : State, exec (.reslowRise dt) s = .next w.settle ∧ w.site.reslow = ⟨true, true, none⟩
        ∧ s.WateringEnded w (s.now + dt) i .reslow
        ∧ ((∀ sl, (s.control i).slot = some sl → (s.slot sl).entryState ≠ some .waterWait) →
          w.ring.orders = (if s.water.state = .dosing then ((s.begin dt).handOrder
              ⟨(s.cfg i).manifoldAddr, s.ring.ownAddress, 0x22, valvePayload (s.altersClosing i)⟩).ring.orders
            else s.ring.orders)
          ∧ (s.mgmt.mode = .engaged → s.ring.replies.length < 8 → w.ring.replies = s.ring.replies
            ++ [⟨s.lim.controllerAddr, s.ring.ownAddress, 0x32, [0x02, BitVec.ofNat 8 i.val, 1, 17]
              ++ bytesBE 4 (s.earlyOutcome (s.now + dt) .reslow).amount ++ stampBytes s.water.startStamp
              ++ stampBytes (some s.mgmt.clock)⟩]))
        ∧ (∀ sl, (s.control i).slot = some sl → (s.slot sl).entryState = some .waterWait →
          (s.slot sl).index < (w.slot sl).index)
        ∧ w.marks.scan = true ∧ w.mgmt = s.mgmt ∧ w.images = s.images)

/-- The SRC line, the generator sequence and the fan run-on (R94, R95, R146, R150, R97). A filtered change reaches the slots:
with the other slot idle, a source-needing stretch in RUN or DIRECT suspends at a fall, handing RECT OFF and asking for the
generator, and a slot suspended for nothing but SOURCE resumes at a rise. The request starts a sequence with the genreq_delay
and genreq_width of that moment, and joins one in progress without changing it. A rise cancels a DELAY. gen_end leads from
DELAY to a PULSE of the width taken at the request, and from PULSE to IDLE; run_on_end becomes absent when it is reached. The
field genWidth that keeps the width of the request is the model's own (log 39). That resume_state is absent once a slot has
resumed is the model's choice (log 43). -/
def Obligations.SourceLineAndItsTimers : Prop :=
  ∀ (s : State) (dt : Nat),
    (∀ high, s.lineSettles .src high dt → (∀ sl, (s.slot sl).entryState = none) → exec (.srcChange dt) s
      = .next ((s.begin dt).modSite fun t =>
          if high = true ∧ t.genState = .delay then
            { t with src := ⟨high, high, none⟩, genState := .idle, genreq := false, genEnd := none }
          else { t with src := ⟨high, high, none⟩ }).quietEnd)
    ∧ (∀ sl back, s.lineSettles .src false dt → s.otherIdle sl → (s.slot sl).entryState = some (ResumeState.entry back) →
      (s.stretch sl).source = true → (s.slot sl).suspendedTotal < s.lim.suspendMaxMin * 60000 →
      ∃ w : State, exec (.srcChange dt) s = .next w.settle ∧ w.site.src = ⟨false, false, none⟩
        ∧ (w.slot sl).entryState = some .suspended ∧ (w.slot sl).resumeState = some back
        ∧ (w.slot sl).reasons.source = true ∧ (w.slot sl).lastOrder = some .off
        ∧ (w.slot sl).pendingOrder = some (s.entryOrder sl)
        ∧ ((s.slot sl).reasons.source = false → (w.slot sl).sourceWaitStart = some (s.now + dt)
            ∧ (s.site.genState = .idle → s.lim.genreqDelay ≠ 0 → w.site = { s.site with
                src := ⟨false, false, none⟩, genState := .delay, genWidth := s.lim.genreqWidth
                genEnd := some (s.now + dt + s.lim.genreqDelay * 16000) })
            ∧ (s.site.genState = .idle → s.lim.genreqDelay = 0 → w.site = { s.site with
                src := ⟨false, false, none⟩, genState := .pulse, genreq := true, genWidth := s.lim.genreqWidth
                genEnd := some (s.now + dt + s.lim.genreqWidth * 2000) })
            ∧ (s.site.genState ≠ .idle → w.site = { s.site with src := ⟨false, false, none⟩ }))
        ∧ w.strings = (s.begin dt).strings ∧ w.cells = s.cells ∧ w.water = s.water ∧ w.queue = s.queue
        ∧ w.mgmt = s.mgmt ∧ w.images = s.images)
    ∧ (∀ sl back, s.lineSettles .src true dt → s.otherIdle sl → (s.slot sl).entryState = some .suspended →
      (s.slot sl).resumeState = some back → s.stale sl = false → s.ring.sight ≠ .warn →
      (∃ tc, (s.slot sl).tc = some tc ∧ tc + 20 ≤ s.lim.hotLimit) →
      ∃ w : State, exec (.srcChange dt) s = .next w.settle ∧ w.site.src = ⟨true, true, none⟩ ∧ w.site.genState ≠ .delay
        ∧ (w.slot sl).entryState = some (ResumeState.entry back) ∧ (w.slot sl).resumeState = none
        ∧ (w.slot sl).pendingOrder = none ∧ (w.slot sl).reasons = {} ∧ (w.slot sl).sourceWaitStart = none
        ∧ (w.slot sl).lastOrder = some (s.entryOrder sl)
        ∧ (w.slot sl).runElapsed = (s.slot sl).runElapsed
        ∧ w.strings = (s.begin dt).strings ∧ w.cells = s.cells ∧ w.water = s.water ∧ w.queue = s.queue
        ∧ w.mgmt = s.mgmt ∧ w.images = s.images)
    ∧ (∀ e, s.site.genEnd = some e → e ≤ s.now + dt → s.site.genState = .delay → exec (.genEnd dt) s
      = .next ((s.begin dt).modSite fun t =>
          { t with genState := .pulse, genreq := true,
                   genEnd := some (s.now + dt + t.genWidth * 2000) }).quietEnd)
    ∧ (∀ e, s.site.genEnd = some e → e ≤ s.now + dt → s.site.genState = .pulse → exec (.genEnd dt) s
      = .next ((s.begin dt).modSite fun t => { t with genState := .idle, genreq := false, genEnd := none }).quietEnd)
    ∧ (∀ e, s.site.runOnEnd = some e → e ≤ s.now + dt → exec (.runOnEnd dt) s
      = .next ((s.begin dt).modSite fun t => { t with runOnEnd := none }).quietEnd)

/-- A filtered TRIG edge sets trig_level and starts a scan (R120 to R122, R144). In EDGE mode a rise that finds a triggered
round ends every one of them with TRIG_CANCEL, with the holdoff of R67, and its scan has the gate closed; a rise that finds
none opens the gate for its own scan. In LEVEL mode a fall ends every triggered round with TRIG_FALL. Every other edge ends
nothing. That the holdoff end carries whole days into the day, modulo 65536, is the model's choice (log 18). -/
def Obligations.TriggerEdgesStartAndStopRounds : Prop :=
  ∀ (s : State) (dt : Nat) (high : Bool), s.lineSettles .trig high dt →
    ((s.lim.triggerMode = .off ∨ (s.lim.triggerMode = .edge ∧ high = false)
        ∨ (s.lim.triggerMode = .level ∧ high = true)) → exec (.trigEdge dt) s
      = .next ({ (s.begin dt).modSite fun t => { t with trig := ⟨high, high, none⟩ } with
          trigLevel := high, marks := { scan := true } }).settle)
    ∧ (s.lim.triggerMode = .edge → high = true → (∀ i, s.triggered i = false) → exec (.trigEdge dt) s
      = .next ({ (s.begin dt).modSite fun t => { t with trig := ⟨true, true, none⟩ } with
          trigLevel := true, marks := { scan := true, gate := true } }).settle)
    ∧ (s.lim.triggerMode = .edge → high = true → (∃ i, s.triggered i = true) →
      ∃ w : State, exec (.trigEdge dt) s = .next w.settle ∧ w.trigLevel = true ∧ w.marks.scan = true ∧ w.marks.gate = false
        ∧ (∀ i, s.triggered i = true → s.EndedFor w i .trigCancel
            ∧ (s.lim.holdoffMin ≠ 0 → (w.control i).holdoffUntil
                = some ⟨(s.mgmt.clock.day + (s.mgmt.clock.minute + s.lim.holdoffMin) / 1440) % 65536,
                    (s.mgmt.clock.minute + s.lim.holdoffMin) % 1440⟩))
        ∧ (∀ i, s.triggered i = false → w.str i = (s.begin dt).str i)
        ∧ w.cells = s.cells ∧ w.water = s.water ∧ w.mgmt = s.mgmt ∧ w.images = s.images)
    ∧ (s.lim.triggerMode = .level → high = false →
      ∃ w : State, exec (.trigEdge dt) s = .next w.settle ∧ w.trigLevel = false ∧ w.marks.scan = true ∧ w.marks.gate = false
        ∧ (∀ i, s.triggered i = true → s.EndedFor w i .trigFall
            ∧ (w.control i).holdoffUntil = (s.control i).holdoffUntil)
        ∧ (∀ i, s.triggered i = false → w.str i = (s.begin dt).str i)
        ∧ w.cells = s.cells ∧ w.water = s.water ∧ w.mgmt = s.mgmt ∧ w.images = s.images)

/-- The fan tachometer (R99, R145, R151, R152). An edge is accepted unless debounce finds it less than 2 ms behind the last
accepted one, and counts in the window while measuring. A window of 1 s is judged against fan_min_rate; the count that reaches
fan_fail_s sets FAN_FAIL, which ends each round in a gassing stretch, or clears it, which starts a scan. The rounds of both
slots may run where strings and slots agree (BoundOk, which every step keeps). That the window counts stop at 120 and the edge
count of a window at 65,535, the ends of their ranges, is the model's choice (log 29). -/
def Obligations.TachometerJudgesTheFan : Prop :=
  ∀ (s : State) (dt : Nat),
    (∀ e, s.lim.tachDebounce = true → s.site.lastEdge = some e → s.now + dt < e + 2 →
      exec (.tachEdge dt) s = .next (s.begin dt))
    ∧ ((s.lim.tachDebounce = false ∨ ∀ e, s.site.lastEdge = some e → e + 2 ≤ s.now + dt) →
      exec (.tachEdge dt) s = .next ((s.begin dt).modSite fun t =>
        { t with
          lastEdge := some (s.now + dt)
          window := if t.measuring = true then t.window.map fun w => ⟨w.start, min 65535 (w.count + 1)⟩ else t.window }))
    ∧ ∀ st n, s.site.measuring = true → s.site.window = some ⟨st, n⟩ → st + 1000 ≤ s.now + dt → 1 ≤ s.lim.fanFailS →
      (n < s.lim.fanMinRate → (min 120 (s.site.lowWindows + 1) < s.lim.fanFailS ∨ s.site.fanFail = true) →
        exec (.tachWindowEnd dt) s = .next ((s.begin dt).modSite fun t =>
          { t with lowWindows := min 120 (t.lowWindows + 1), okWindows := 0, window := some ⟨st + 1000, 0⟩ }).quietEnd)
      ∧ (n < s.lim.fanMinRate → s.lim.fanFailS ≤ min 120 (s.site.lowWindows + 1) → s.site.fanFail = false →
        ∃ w : State, exec (.tachWindowEnd dt) s = .next w.settle ∧ w.site.fanFail = true ∧ w.site.lowWindows = 0
          ∧ w.site.okWindows = 0 ∧ w.site.window = some ⟨st + 1000, 0⟩
          ∧ (∀ sl i, s.holds sl i → s.otherIdle sl ∨ s.BoundOk → (s.control i).state = .equalising →
              ((s.slot sl).entryState = some .run ∨ (s.slot sl).entryState = some .direct
                ∨ (s.slot sl).entryState = some .suspended) → (s.stretch sl).gassing = true → s.EndedFor w i .fanFail)
          ∧ (s.mgmt.mode = .engaged → s.ring.replies.length < 8 → w.ring.replies = s.ring.replies
              ++ [⟨s.lim.controllerAddr, s.ring.ownAddress, 0x32, [0x03, 2]⟩])
          ∧ w.cells = s.cells ∧ w.water = s.water ∧ w.mgmt = s.mgmt ∧ w.images = s.images)
      ∧ (s.lim.fanMinRate ≤ n → (min 120 (s.site.okWindows + 1) < s.lim.fanFailS ∨ s.site.fanFail = false) →
        exec (.tachWindowEnd dt) s = .next ((s.begin dt).modSite fun t =>
          { t with okWindows := min 120 (t.okWindows + 1), lowWindows := 0, window := some ⟨st + 1000, 0⟩ }).quietEnd)
      ∧ (s.lim.fanMinRate ≤ n → s.lim.fanFailS ≤ min 120 (s.site.okWindows + 1) → s.site.fanFail = true →
        exec (.tachWindowEnd dt) s = .next ({ (s.begin dt).modSite fun t =>
            { t with fanFail := false, okWindows := 0, lowWindows := 0, window := some ⟨st + 1000, 0⟩ } with
          marks := { scan := true } }).settle)

/-- The outputs of the Site Line Unit at an event's end. When inside an event they are judged is the model's choice (log 5).
They follow the state the event leaves, whatever the event: the gassing run and the spending are those of the slots in RUN or
DIRECT (R103, R143), the duty is the first line of R149's table, windows are measured while the duty is at or above
fan_gas_duty (R145), and the lamp shows the first line of R155's table. Each judgement of the outputs, at an event's end that
starts no scan and makes no commit applicable as wherever in an event it is made (followSite: after the effect, after a
deferred commit, after the scans, at the start of an entry, a resumption and a DIRECT request, and at the return of sight),
moves nothing but these items: the run-on starts when the gassing run ends and is dropped when one begins (R150), spend_mark
is set while charge is drawn from source (R147), a window begins when measuring does and goes with its counts when it stops
(R145), and a new lamp pattern starts now (R155). Where the last gassing stretch of a state that meets the invariants
(RunOnOk, a part of State.Ok, and BoundOk, which every step keeps) ends in an event that also applies a deferred commit, the
run-on takes the run_on_min of before it: the slot's stop comes before the freeing that lets the commit be applied (R70, R75,
R100, R181). -/
def Obligations.SiteOutputsFollowTheState : Prop :=
  (∀ s t : State, t = s.settle ∨ t = s.quietEnd ∨ t = s.followSite →
    (t.site.gassingRun = true ↔ ∃ sl, ((t.slot sl).entryState = some .run ∨ (t.slot sl).entryState = some .direct)
        ∧ (t.stretch sl).gassing = true)
    ∧ (t.site.spending = true ↔ ∃ sl, ((t.slot sl).entryState = some .run ∨ (t.slot sl).entryState = some .direct)
        ∧ (t.stretch sl).source = true)
    ∧ t.site.duty = (if t.site.gasLatch = true then 15
        else if t.mgmt.loaded.limits = false then 0
        else if t.site.gassingRun = true ∨ t.site.runOnEnd ≠ none ∨ t.site.fanFail = true then t.lim.fanGasDuty
        else t.lim.fanBaseDuty)
    ∧ (t.site.measuring = true ↔ t.mgmt.loaded.limits = true ∧ t.lim.fanGasDuty ≤ t.site.duty)
    ∧ (t.site.measuring = true ↔ t.site.window ≠ none)
    ∧ (t.site.measuring = false → t.site.lowWindows = 0 ∧ t.site.okWindows = 0)
    ∧ (t.site.gassingRun = true → t.site.runOnEnd = none)
    ∧ (s.site.RunOnOk → s.BoundOk → s.site.gassingRun = true → t.site.gassingRun = false →
      (∀ sl, ((s.slot sl).entryState = some .run ∨ (s.slot sl).entryState = some .direct) →
        (s.stretch sl).gassing = false) →
      t.site.runOnEnd = if s.lim.runOnMin = 0 then s.site.runOnEnd else some (s.now + s.lim.runOnMin * 60000))
    ∧ (t.site.src.level = true → t.site.spending = true → t.site.spendMark = true)
    ∧ t.site.lamp = (if t.site.gasLatch = true then .fast
        else if (∃ i, (t.cfg i).present = true ∧ (t.control i).state = .faulted) ∨ t.site.fanFail = true
          ∨ t.ring.sight = .blind then .blink
        else if t.mgmt.mode = .transparent then .slow
        else if (∃ i, (t.control i).slot ≠ none) ∨ t.water.state ≠ .idle then .on
        else .off))
  ∧ (∀ s : State, s.marks.scan = false → s.marks.commit = false → s.settle = s.quietEnd)
  ∧ ∀ s : State, s.followSite = { s with site := s.followSite.site }
    ∧ ∀ t : State, t = s.quietEnd ∨ t = s.followSite →
      t.site = { s.site with
        gassingRun := t.site.gassingRun, spending := t.site.spending, duty := t.site.duty
        measuring := t.site.measuring, lamp := t.site.lamp
        runOnEnd := if t.site.gassingRun = true then none
          else if s.site.gassingRun = true ∧ s.lim.runOnMin ≠ 0 then some (s.now + s.lim.runOnMin * 60000)
          else s.site.runOnEnd
        spendMark := s.site.spendMark || (s.site.src.level && t.site.spending)
        window := if t.site.measuring = false then none
          else if s.site.measuring = true ∧ s.site.window ≠ none then s.site.window else some ⟨s.now, 0⟩
        lowWindows := if t.site.measuring = false then 0 else s.site.lowWindows
        okWindows := if t.site.measuring = false then 0 else s.site.okWindows
        lampStart := if t.site.lamp = s.site.lamp then s.site.lampStart else s.now }
      ∧ t.strings = s.strings ∧ t.cells = s.cells ∧ t.slotA = s.slotA ∧ t.slotB = s.slotB ∧ t.queue = s.queue
      ∧ t.water = s.water ∧ t.mgmt = s.mgmt ∧ t.images = s.images

/-! ## Requests on tables and the window (R175 to R184) -/

/-- STATUS is answered OK with the 31 bytes of 11.5 as the state stands, and clears notice_lost; the last byte, the revision, is
left open by the manual (log 15). TABLE_READ is answered OK with n bytes of the committed image, and BAD_ARG for an unknown
table, an n outside 1 to 44, or a range that passes the image's end; neither request changes another item (R175). -/
def Obligations.StatusAndTableReadAnswer : Prop :=
  ∀ (s : State) (dt : Nat) (src : Byte), s.takesFrom src →
    (∃ rev : Byte, exec (.status dt src) s = .next (((s.begin dt).modRing fun r => { r with noticeLost := false }).replied
      src 0x01 .ok 0
      ([BitVec.ofNat 8 ((if s.mgmt.mode = .engaged then 1 else 0)
            + (match s.ring.sight with | .seeing => 0 | .warn => 2 | .blind => 4)
            + (if s.site.gasLatch then 8 else 0) + (if s.site.fanFail then 16 else 0) + (if s.discharge then 32 else 0)
            + (if s.holdoffEnd = none then 0 else 64) + (if s.ring.noticeLost then 128 else 0)),
          BitVec.ofNat 8 ((match s.mgmt.staging with | .empty => 0 | .receiving => 1 | .pending => 2)
            + (match s.mgmt.stagedTable with
                | none => 0 | some .limits => 4 | some .string => 8 | some .phase => 12 | some .recipe => 16
                | some .pass => 20)
            + (if s.water.state = .idle then 32 else 0)),
          BitVec.ofNat 8 s.mgmt.staged.length, s.slotStatus .A, s.slotStatus .B, BitVec.ofNat 8 s.queue.length]
        ++ bytesBE 4 s.water.reservoir ++ bytesBE 2 s.site.allowance ++ bytesBE 2 s.mgmt.clock.day
        ++ bytesBE 2 s.mgmt.clock.minute ++ bytesBE 2 s.ring.counts.runt ++ bytesBE 2 s.ring.counts.badCheck
        ++ bytesBE 2 s.ring.counts.overflow ++ bytesBE 2 s.ring.counts.requestDrop ++ bytesBE 2 s.ring.counts.policed
        ++ bytesBE 2 s.ring.counts.orderDrop ++ [0x48, 0x20, rev])).quietEnd)
    ∧ (∀ (t : TableId) (table offset n : Byte), table.toNat = t.code → 1 ≤ n.toNat → n.toNat ≤ 44 → offset.toNat + n.toNat ≤ t.size →
      exec (.tableRead dt src table offset n) s = .next ((s.begin dt).replied src 0x02 .ok 0
        (((s.images.get t).drop offset.toNat).take n.toNat)).quietEnd)
    ∧ (∀ (table offset n : Byte), (∀ t : TableId, table.toNat ≠ t.code) ∨ n.toNat = 0 ∨ 44 < n.toNat
        ∨ (∃ t : TableId, table.toNat = t.code ∧ t.size < offset.toNat + n.toNat) →
      exec (.tableRead dt src table offset n) s = .next ((s.begin dt).replied src 0x02 .badArg 0 []).quietEnd)

/-- LOAD_BEGIN with staging EMPTY and the table's size makes staging RECEIVING with nothing stored; a wrong total or an unknown
table is BAD_ARG, and an image already staged is BUSY. LOAD_DISCARD empties staging in every state, and a pending image dropped
ends the admission hold with a scan (R176, R119). -/
def Obligations.LoadBeginAndDiscard : Prop :=
  ∀ (s : State) (dt : Nat) (src : Byte), s.takesFrom src →
    (∀ (t : TableId) (table : Byte) (total : Word16), table.toNat = t.code → s.mgmt.staging = .empty →
      (total.toNat = t.size → exec (.loadBegin dt src table total) s = .next (((s.begin dt).modMgmt fun m =>
        { m with staging := .receiving, stagedTable := some t, stagedTotal := some t.size, staged := [] }).replied
          src 0x10 .ok 0 []).quietEnd)
      ∧ (total.toNat ≠ t.size →
        exec (.loadBegin dt src table total) s = .next ((s.begin dt).replied src 0x10 .badArg 0 []).quietEnd))
    ∧ (∀ (t : TableId) (table : Byte) (total : Word16), table.toNat = t.code → s.mgmt.staging ≠ .empty →
      exec (.loadBegin dt src table total) s = .next ((s.begin dt).replied src 0x10 .busy 0 []).quietEnd)
    ∧ (∀ (table : Byte) (total : Word16), (∀ t : TableId, table.toNat ≠ t.code) →
      exec (.loadBegin dt src table total) s = .next ((s.begin dt).replied src 0x10 .badArg 0 []).quietEnd)
    ∧ exec (.loadDiscard dt src) s = .next ({ ((s.begin dt).modMgmt fun m =>
        { m with staging := .empty, stagedTable := none, stagedTotal := none, staged := [] }) with
          marks := { scan := decide (s.mgmt.staging = Staging.pending) } }.replied src 0x13 .ok 0 []).settle

/-- A LOAD_PART in RECEIVING with 1 to 44 bytes of data: at the next byte expected and within the total its data is stored and
the reply is OK with the new staged_count; at any other offset, or past the total, the reply is BAD_ARG and staging is
unchanged, a part sent a second time included (R177). With no data or more than 44 bytes it is BAD_ARG (R174, R176), and with
staging EMPTY or PENDING a part of 1 to 44 bytes is NOT_ALLOWED (R176). -/
def Obligations.LoadPartTakesTheNextByte : Prop :=
  ∀ (s : State) (dt : Nat) (src : Byte) (offset : Word16) (data : List Byte), s.takesFrom src →
    (data.length = 0 ∨ 44 < data.length →
      exec (.loadPart dt src offset data) s = .next ((s.begin dt).replied src 0x11 .badArg 0 []).quietEnd)
    ∧ (1 ≤ data.length → data.length ≤ 44 →
      (s.mgmt.staging ≠ .receiving →
        exec (.loadPart dt src offset data) s = .next ((s.begin dt).replied src 0x11 .notAllowed 0 []).quietEnd)
      ∧ ∀ total, s.mgmt.staging = .receiving → s.mgmt.stagedTotal = some total →
        (offset.toNat = s.mgmt.staged.length → offset.toNat + data.length ≤ total →
          exec (.loadPart dt src offset data) s = .next (((s.begin dt).modMgmt fun m =>
            { m with staged := m.staged ++ data }).replied src 0x11 .ok 0
              [BitVec.ofNat 8 (s.mgmt.staged.length + data.length)]).quietEnd)
        ∧ (offset.toNat ≠ s.mgmt.staged.length ∨ total < offset.toNat + data.length →
          exec (.loadPart dt src offset data) s = .next ((s.begin dt).replied src 0x11 .badArg 0 []).quietEnd))

/-- What LOAD_COMMIT's check and clamp of an image are (R178 steps 2 and 3). The check names the field of the first fault in the
order of the table: LIMITS and PASS by R179, STRING by R180 with a cell range's collision on cell_base (log 13), PHASE by R45,
RECIPE by R48 up to each recipe's first END; an image without a fault passes. The clamp brings each tuning field of LIMITS,
of a present STRING entry and of a used PHASE record to the near end of its range and leaves every other field: R179 with
cell_cut_mv then raised above the ceiling and the reserve lowered to the capacity, R180 with the codes of R190, R46; bytes 84 to
95 of LIMITS, absent entries and unused records are kept as loaded, and RECIPE and PASS whole. -/
def Obligations.ImagesAreCheckedAndClamped : Prop :=
  (∀ (s : State) (t : TableId) (b : List Byte),
    (s.checkImage t b = none ↔ ∀ p, ¬ s.imageFault t b p)
    ∧ ∀ f, s.checkImage t b = some f ↔
        ∃ p, s.imageFault t b p ∧ (∀ q, q < p → ¬ s.imageFault t b q) ∧ f = faultField t p)
  ∧ (∀ (t : TableId) (b : List Byte), b.length = t.size → (clampImage t b).length = t.size)
  ∧ (∀ (b : List Byte) (l : Limits) (ceiling cap : Nat), b.length = 96 → l = Limits.ofImage b →
      ceiling = brought l.cellCeilingMv 2200 2700 → cap = brought l.reservoirCapacityMl 0 1000000 →
      (clampImage .limits b).drop 84 = b.drop 84 ∧ Limits.ofImage (clampImage .limits b) = { l with
        tRef := max 0 (min l.tRef 400), compK := brought l.compK 0 99, floatMv := brought l.floatMv 2100 2400
        gasMv := brought l.gasMv 2200 2600, cellCeilingMv := ceiling
        cellCutMv := if brought l.cellCutMv 2250 2750 ≤ ceiling then ceiling + 50 else brought l.cellCutMv 2250 2750
        iFloor := brought l.iFloor 10 1000, backoffSettleS := brought l.backoffSettleS 10 3600
        hotLimit := max 200 (min l.hotLimit 850), coldLimit := max (-400) (min l.coldLimit 150)
        staleS := brought l.staleS 5 600, staleAllow := brought l.staleAllow 0 12, gapMs := brought l.gapMs 500 10000
        fullCurrent := brought l.fullCurrent 0 1000, fullHoldMin := brought l.fullHoldMin 1 240
        dischargeCurrent := brought l.dischargeCurrent 10 3000, dischargeConfirmS := brought l.dischargeConfirmS 1 255
        dischargeHoldoffMin := brought l.dischargeHoldoffMin 0 1440, busLow := brought l.busLow 0 6500
        returnWindow := brought l.returnWindow 1 500, returnWaitMin := brought l.returnWaitMin 1 60
        contactorTimeoutS := brought l.contactorTimeoutS 1 60, orderRefreshS := brought l.orderRefreshS 1 60
        sourceWaitMin := brought l.sourceWaitMin 1 240, suspendMaxMin := brought l.suspendMaxMin 1 240
        genreqDelay := brought l.genreqDelay 0 255, genreqWidth := brought l.genreqWidth 1 255
        allowanceMin := brought l.allowanceMin 0 1440, fanBaseDuty := brought l.fanBaseDuty 0 15
        fanGasDuty := brought l.fanGasDuty 0 15, runOnMin := brought l.runOnMin 0 255
        fanMinRate := brought l.fanMinRate 1 255, fanFailS := brought l.fanFailS 1 120
        tachDebounce := decide (u8 b 56 ≠ 0), silenceWarnMs := brought l.silenceWarnMs 100 60000
        silenceBlindS := brought l.silenceBlindS 1 3600, blindRepeatS := brought l.blindRepeatS 1 255
        reservoirCapacityMl := cap, reservoirReserveMl := min (brought l.reservoirReserveMl 0 1000000) cap
        flowX10 := brought l.flowX10 1 200, maxOpen := brought l.maxOpen 1 4, doseMaxMl := brought l.doseMaxMl 1 500
        doseMinMl := brought l.doseMinMl 1 255, waterDueMl := brought l.waterDueMl 1 999
        groupGapS := brought l.groupGapS 0 255, confirmMin := brought l.confirmMin 1 255
        waterWaitMaxMin := brought l.waterWaitMaxMin 1 255, directMaxMin := brought l.directMaxMin 1 1440
        holdoffMin := brought l.holdoffMin 0 1440 })
  ∧ (∀ (b : List Byte) (i : Str) (c : StringCfg), b.length = 160 → c = StringCfg.ofImage b i →
      (c.present = false → ((clampImage .string b).drop (20 * i.val)).take 20 = (b.drop (20 * i.val)).take 20)
      ∧ (c.present = true → StringCfg.ofImage (clampImage .string b) i = { c with
          etaPct := brought c.etaPct 80 100, autoRecipe := brought c.autoRecipe 1 8
          probeMask := c.probeMask % 2 ^ c.cells, dueDays := brought c.dueDays 0 365
          spreadMv := if c.spreadMv = 0 then 0 else brought c.spreadMv 10 500
          spreadMin := brought c.spreadMin 1 1440
          throughputPct := if c.throughputPct = 0 then 0 else brought c.throughputPct 50 2000 }))
  ∧ (∀ (b : List Byte) (k : Nat) (p : PhaseRec), b.length = 192 → k < 16 → p = PhaseRec.ofEntry b (12 * k) →
      (field b (12 * k) 12 = 0 → ((clampImage .phase b).drop (12 * k)).take 12 = (b.drop (12 * k)).take 12)
      ∧ (field b (12 * k) 12 ≠ 0 → PhaseRec.ofEntry (clampImage .phase b) (12 * k) = { p with
          iSet := brought p.iSet 0 3000, durationMin := brought p.durationMin 1 1440
          critValue := match p.criterion with
            | .none => 0
            | .taper => brought p.critValue 0 3000
            | .spread => brought p.critValue 0 500
          critHoldMin := if p.criterion = .none then 0 else brought p.critHoldMin 1 240 }))
  ∧ ∀ b : List Byte, clampImage .recipe b = b ∧ clampImage .pass b = b

/-- LOAD_COMMIT (R176, R178): outside RECEIVING it is NOT_ALLOWED; short of staged_total INCOMPLETE, staging unchanged; an
image that fails a check empties staging and is answered BAD_TABLE with the field index; a checked image is clamped (check and
clamp: ImagesAreCheckedAndClamped), and with a string bound or the Watering Unit at work it is left PENDING and answered
DEFERRED, otherwise it is applied at once and answered OK, its reply ahead of the notices: with the effects of R181 on every
block and the automatic ENGAGED of R182 that PendingCommitIsApplied states of a pending image (ImageApplied). That a value
whose expiry a LIMITS image moves is fresh through the millisecond of its expiry is the model's choice (log 25). -/
def Obligations.LoadCommitChecksClampsApplies : Prop :=
  ∀ (s : State) (dt : Nat) (src : Byte), s.takesFrom src →
    (s.mgmt.staging ≠ .receiving →
      exec (.loadCommit dt src) s = .next ((s.begin dt).replied src 0x12 .notAllowed 0 []).quietEnd)
    ∧ ∀ t total, s.mgmt.staging = .receiving → s.mgmt.stagedTable = some t → s.mgmt.stagedTotal = some total →
      (s.mgmt.staged.length ≠ total →
        exec (.loadCommit dt src) s = .next ((s.begin dt).replied src 0x12 .incomplete 0 []).quietEnd)
      ∧ (s.mgmt.staged.length = total →
        (∀ ix, s.checkImage t s.mgmt.staged = some ix →
          exec (.loadCommit dt src) s = .next (((s.begin dt).modMgmt fun m =>
            { m with staging := .empty, stagedTable := none, stagedTotal := none, staged := [] }).replied
              src 0x12 .badTable 0 [BitVec.ofNat 8 ix]).quietEnd)
        ∧ (s.checkImage t s.mgmt.staged = none →
          ((s.water.state ≠ .idle ∨ ∃ i, (s.control i).slot ≠ none) →
            exec (.loadCommit dt src) s = .next (((s.begin dt).modMgmt fun m =>
              { m with staging := .pending, staged := clampImage t m.staged }).replied
                src 0x12 .deferred 0 []).quietEnd)
          ∧ (s.water.state = .idle → (∀ i, (s.control i).slot = none) →
            ∃ (w : State) (ns : List Frame), exec (.loadCommit dt src) s = .next w.settle
              ∧ s.ImageApplied w dt t (clampImage t s.mgmt.staged)
                  (s.ring.replies ++ [⟨src, s.ring.ownAddress, 0x31, [0x12, 0]⟩])
              ∧ w.ring.replies = s.ring.replies ++ ⟨src, s.ring.ownAddress, 0x31, [0x12, 0]⟩ :: ns)))

/-- A pending image is applied as it was left, when no string is bound and the Watering Unit is IDLE (R181): it replaces the
image of its table, the table joins loaded, staging empties, the first holding of LIMITS and STRING makes the mode ENGAGED,
and a scan starts. LIMITS sets the allowance (R148), clears the window counts (R151) and clamps the reservoir account (R139);
PASS zeroes the thinning counters (R162); STRING makes new strings ON_BUS and absent ones none, with their queue entries gone
(R80, R112). A stale_s that LIMITS changes moves the expiry of every fresh value to its arrival plus the new stale_s, or
makes it stale at once (R13); that a value is fresh through the millisecond of its expiry, until the expiry event is taken,
is the model's choice (log 25). STRING clears or keeps the cell records, sets the levels by the probe rule and clears the
readings of a moved shunt or contactor (R20), and clears, keeps or floors the accounts, with t_prev absent (R41); the WATER
entry of a string without a manifold goes with a DROPPED notice (R112). PHASE and RECIPE remove the EQUALISE entries of the
recipes then empty (R49, R50), with a DROPPED notice each in queue order. While a string is bound nothing is applied. -/
def Obligations.PendingCommitIsApplied : Prop :=
  ∀ (s : State) (dt : Nat), s.mgmt.staging = .pending →
    ((s.water.state ≠ .idle ∨ ∃ i, (s.control i).slot ≠ none) → exec (.applyPendingCommit dt) s = .next (s.begin dt))
    ∧ ∀ t, s.mgmt.stagedTable = some t → s.water.state = .idle → (∀ i, (s.control i).slot = none) →
      ∃ w : State, exec (.applyPendingCommit dt) s = .next w.settle ∧ s.ImageApplied w dt t s.mgmt.staged s.ring.replies

/-- The record window (R183): CURSOR sets the cursor unless hold is set, and is BAD_ARG for an unknown space or an index above
its last; READ carries whole records from the cursor, as many as n, the space and the layouts of 11.5 allow, and advances the
cursor by their number unless hold is set; at the space's end it is END with count 0; HOLD marks the cursor, and RELEASE
returns to the mark or is NOT_ALLOWED without hold. An n of 0 is BAD_ARG (R174, R189). The bytes of the CELL, STRING, QUEUE
and SLOT records are those of 11.5 by the codes of 11.3, which Safety lists. Left open by the manual, and so by the statement,
are the rounding of the two times in seconds (log 16), the priority bit of a slot without a priority, and the bits beside the
reason and end reason codes of an absent outcome (log 17). That round_ml of an absent water outcome shows 0xFFFF is the
model's deduction from the general sentence of 11.5 on absent values (log 17, DEDUCED). The codes of the rect_order command in
byte 2 of a STRING record are those that 11.5 lists for the SLOT record (log 48, DEDUCED). The bits of the four presence flags
of a SLOT record are the model's choice (log 23). That the record shows a value fresh through the millisecond of its expiry is
the model's choice (log 25), of the two that R12 allows. -/
def Obligations.RecordWindowMoves : Prop :=
  (∀ (s : State) (i : CellIx) (c : Cell), c = s.cell i → s.record .cell i.val = some
    (bytesBE 2 (c.voltage.getD 0xFFFF) ++ bytesSigned 2 (c.temp.getD 0x7FFF)
      ++ [BitVec.ofNat 8 (codeIn levelCodes c.level + (if c.vExpiry.any fun e => decide (s.now ≤ e) then 8 else 0)
          + (if c.tExpiry.any fun e => decide (s.now ≤ e) then 16 else 0) + (if c.wateringFault then 32 else 0)
          + 64 * c.unconfirmed)]
      ++ bytesBE 3 c.deficit ++ bytesBE 2 c.lastDose
      ++ [match c.confirmDeadline with | none => 0xFF | some e => BitVec.ofNat 8 ((e - s.now + 59999) / 60000)]))
  ∧ (∀ (s : State) (k : Nat) (e : Entry), s.queue[k]? = some e → s.record .queue k = some
    ([BitVec.ofNat 8 (e.string.val + (if e.kind = .water then 8 else 0) + (if e.priority = .urgent then 16 else 0)
          + 32 * codeIn [.auto, .request, .recipe] e.origin),
        BitVec.ofNat 8 (16 * e.recipe + (1 + codeIn reasonCodes e.reason))]
      ++ bytesBE 2 e.stamp.day ++ bytesBE 2 e.stamp.minute))
  ∧ (∀ (s : State) (sl : SlotId) (r : SlotRec), r = s.slot sl → ∃ (run susp : Nat) (urgent : Bool),
    r.runElapsed < 1000 * run + 1000 ∧ 1000 * run < r.runElapsed + 1000
    ∧ r.suspendedTotal < 1000 * susp + 1000 ∧ 1000 * susp < r.suspendedTotal + 1000
    ∧ (∀ p, r.priority = some p → urgent = decide (p = .urgent))
    ∧ s.record .slot (match sl with | .A => 0 | .B => 1) = some
      ([BitVec.ofNat 8 (16 * (match r.string with | some i => i.val | none => 15) + r.recipe),
          BitVec.ofNat 8 (16 * r.index + r.entriesCompleted),
          BitVec.ofNat 8 ((match r.entryState with | none => 0 | some e => 1 + codeIn entryCodes e)
            + (match r.resumeState with | none => 0 | some .run => 8 | some .direct => 16) + (if r.cut then 32 else 0)
            + (if r.waterCalled then 64 else 0) + (if r.triggerStarted then 128 else 0)),
          BitVec.ofNat 8 ((if r.reasons.source then 1 else 0) + (if r.reasons.stale then 2 else 0)
            + (if r.reasons.hot then 4 else 0) + (if r.reasons.blind then 8 else 0) + (if urgent then 16 else 0)
            + (match r.lastOrder with | none => 0 | some .off => 32 | some (.on _ _) => 64)),
          BitVec.ofNat 8 (16 * (match r.reason with | none => 0 | some x => 1 + codeIn reasonCodes x)
            + (if r.sourceWaitStart = none then 0 else 1) + (if r.critStart = none then 0 else 2)
            + (if r.settleEnd = none then 0 else 4) + (if r.entryEnd = none then 0 else 8))]
        ++ bytesBE 2 r.limit
        ++ (match r.lastOrder with
          | none => [0xFF, 0xFF, 0xFF, 0xFF]
          | some .off => [0, 0, 0, 0]
          | some (.on v a) => bytesBE 2 v ++ bytesBE 2 a)
        ++ bytesBE 2 r.dEff ++ bytesBE 3 run ++ bytesBE 2 susp ++ bytesBE 2 r.directV ++ bytesBE 2 r.directI))
  ∧ (∀ (s : State) (i : Str) (q : Reading) (c : Charge) (r : Control), q = s.reading i → c = s.charge i → r = s.control i →
    ∃ eq water : List Byte,
      (∀ o, r.lastEqOutcome = some o → eq = [BitVec.ofNat 8 (16 * o.recipe + o.entries),
          BitVec.ofNat 8 (16 * (match o.reason with | none => 0 | some x => 1 + codeIn reasonCodes x)
            + (if o.cut then 1 else 0)),
          BitVec.ofNat 8 (match o.endReason with | none => 0 | some x => 1 + codeIn endCodes x)] ++ bytesBE 4 o.amount)
      ∧ (r.lastEqOutcome = none → eq.length = 7 ∧ (eq.getD 1 0 &&& 0xFE) = 0 ∧ eq.getD 2 0 = 0)
      ∧ (∀ o, r.lastWaterOutcome = some o → water = bytesBE 2
            (2048 * (match o.endReason with | none => 0 | some x => 1 + codeIn endCodes x)
              + 128 * (match o.reason with | none => 0 | some x => 1 + codeIn reasonCodes x)
              + (if o.cut then 64 else 0) + o.entries)
          ++ bytesBE 2 o.amount)
      ∧ (r.lastWaterOutcome = none → water.length = 4 ∧ water.getD 0 0 = 0 ∧ (water.getD 1 0 &&& 0xA0) = 0
          ∧ water.drop 2 = [0xFF, 0xFF])
      ∧ s.record .string i.val = some
        ([BitVec.ofNat 8 (codeIn stateCodes r.state + (match r.slot with | none => 0 | some .A => 8 | some .B => 16)
              + (match r.variant with | none => 0 | some .normal => 32 | some .gas => 64 | some .fast => 96)
              + (if r.step = some .confirm then 128 else 0)),
            BitVec.ofNat 8 ((if c.assumed then 1 else 0) + (if c.gap then 2 else 0) + (if c.floor then 4 else 0)
              + (if c.discharging then 8 else 0) + (if q.dry then 16 else 0) + (if r.heldOrder = none then 0 else 32)
              + (if c.fullTimer = none then 0 else 64) + (if c.spreadTimer = none then 0 else 128)),
            BitVec.ofNat 8 ((match r.endReason with | none => 0 | some x => 1 + codeIn endCodes x)
              + (match r.rectOrder with | none => 0 | some .off => 32 | some (.on _ _) => 64)
              + (if c.disStart = none then 0 else 128))]
          ++ bytesSigned 4 c.qBal ++ bytesSigned 2 c.fine ++ bytesBE 2 c.wAcc ++ bytesBE 4 c.oTotal ++ bytesBE 4 c.dDis
          ++ bytesSigned 2 c.current ++ bytesBE 2 c.daysSinceEq
          ++ (match r.holdoffUntil with
            | none => [0xFF, 0xFF, 0xFF, 0xFF]
            | some h => bytesBE 2 h.day ++ bytesBE 2 h.minute)
          ++ bytesBE 2 (q.terminalV.getD 0xFFFF) ++ bytesSigned 2 (q.ts.getD 0x7FFF) ++ bytesBE 2 (q.spread.getD 0xFFFF)
          ++ [BitVec.ofNat 8 (q.freshCells + 32 * (match q.lastPosition with
                | none => 7 | some .openPos => 0 | some .bus => 1 | some .eq => 2 | some .moving => 3)),
              match r.confirmLeft with | none => 0xFF | some t => BitVec.ofNat 8 ((t + 999) / 1000)]
          ++ eq ++ water))
  ∧ ∀ (s : State) (dt : Nat) (src : Byte), s.takesFrom src →
    (∀ sp (space index : Byte), spaceOf space = some sp →
      (index.toNat ≤ (match sp with | .cell => 191 | .string => 7 | .queue => 15 | .slot => 1) →
        (s.mgmt.held = false → exec (.cursor dt src space index) s = .next (((s.begin dt).modMgmt fun m =>
          { m with cursor := ⟨sp, index.toNat⟩ }).replied src 0x20 .ok 0 []).quietEnd)
        ∧ (s.mgmt.held = true →
          exec (.cursor dt src space index) s = .next ((s.begin dt).replied src 0x20 .notAllowed 0 []).quietEnd))
      ∧ ((match sp with | .cell => 191 | .string => 7 | .queue => 15 | .slot => 1) < index.toNat → s.mgmt.held = false →
        exec (.cursor dt src space index) s = .next ((s.begin dt).replied src 0x20 .badArg 0 []).quietEnd))
    ∧ (∀ space index : Byte, 3 < space.toNat → s.mgmt.held = false →
      exec (.cursor dt src space index) s = .next ((s.begin dt).replied src 0x20 .badArg 0 []).quietEnd)
    ∧ exec (.hold dt src) s = .next (((s.begin dt).modMgmt fun m =>
        { m with mark := some m.cursor, held := true }).replied src 0x23 .ok 0 []).quietEnd
    ∧ (∀ c, s.mgmt.held = true → s.mgmt.mark = some c → exec (.release dt src) s = .next (((s.begin dt).modMgmt fun m =>
        { m with cursor := c, mark := none, held := false }).replied src 0x24 .ok 0 []).quietEnd)
    ∧ (s.mgmt.held = false →
      exec (.release dt src) s = .next ((s.begin dt).replied src 0x24 .notAllowed 0 []).quietEnd)
    ∧ exec (.read dt src 0) s = .next ((s.begin dt).replied src 0x21 .badArg 0 []).quietEnd
    ∧ ∀ (n : Byte) (size k : Nat), 1 ≤ n.toNat →
      size = (match s.mgmt.cursor.space with | .cell => 192 | .string => 8 | .queue => s.queue.length | .slot => 2) →
      (size ≤ s.mgmt.cursor.index →
        exec (.read dt src n) s = .next ((s.begin dt).replied src 0x21 .ended 0 []).quietEnd)
      ∧ (s.mgmt.cursor.index < size →
        k = min (min n.toNat (match s.mgmt.cursor.space with | .cell => 4 | .string => 1 | .queue => 7 | .slot => 2))
          (size - s.mgmt.cursor.index) →
        exec (.read dt src n) s = .next (((s.begin dt).modMgmt fun m =>
          if m.held = true then m else { m with cursor := { m.cursor with index := m.cursor.index + k } }).replied
            src 0x21 .ok k
            ((List.range k).flatMap fun j =>
              ((s.begin dt).record s.mgmt.cursor.space (s.mgmt.cursor.index + j)).getD [])).quietEnd)

/-- WRITE (R29, R184) at a cell of a present string replaces deficit_mg, at most 999,999, and clears watering_fault and
unconfirmed; at a present string it writes the items its select bits carry; in both cases the cursor advances by 1, whatever
hold is. At an unused cell record, an absent string, and in QUEUE and SLOT it is NOT_ALLOWED, past the end of a space END. In
CELL with fewer than 4 argument bytes and in STRING with fewer than 7 it is BAD_ARG, which R174 judges before the state; that
this holds past the end of the space too is the model's reading (log 14). That a WRITE past the end of QUEUE or SLOT is END
and not NOT_ALLOWED is the model's choice between two lines of R184 (log 14). -/
def Obligations.WriteSetsTheRecordAtTheCursor : Prop :=
  ∀ (s : State) (dt : Nat) (src : Byte), s.takesFrom src →
    (∀ (i : CellIx) (a b c d : Byte) (rest : List Byte), s.mgmt.cursor = ⟨.cell, i.val⟩ →
      (s.cfg (cellStr i)).present = true → (cellPos i).val < (s.cfg (cellStr i)).cells →
      exec (.write dt src (a :: b :: c :: d :: rest)) s = .next ((((s.begin dt).modCell i fun r =>
          { r with
            deficit := min 999999 (16777216 * a.toNat + 65536 * b.toNat + 256 * c.toNat + d.toNat)
            wateringFault := false, unconfirmed := 0 }).modMgmt fun m =>
          { m with cursor := ⟨.cell, i.val + 1⟩ }).replied src 0x22 .ok 0 []).quietEnd)
    ∧ (∀ (i : CellIx) (args : List Byte), s.mgmt.cursor = ⟨.cell, i.val⟩ → 4 ≤ args.length →
      ((s.cfg (cellStr i)).present = false ∨ (s.cfg (cellStr i)).cells ≤ (cellPos i).val) →
      exec (.write dt src args) s = .next ((s.begin dt).replied src 0x22 .notAllowed 0 []).quietEnd)
    ∧ (∀ (i : Str) (sel q3 q2 q1 q0 d1 d0 : Byte) (rest : List Byte) (v : Int), s.mgmt.cursor = ⟨.string, i.val⟩ →
      (s.cfg i).present = true → v = (q3 ++ q2 ++ q1 ++ q0).toInt →
      ∃ w : State, exec (.write dt src (sel :: q3 :: q2 :: q1 :: q0 :: d1 :: d0 :: rest)) s = .next w.settle
        ∧ w.mgmt = { s.mgmt with cursor := ⟨.string, i.val + 1⟩ }
        ∧ w.ring.replies = s.ring.replies ++ [⟨src, s.ring.ownAddress, 0x31, [0x22, 0]⟩]
        ∧ (if sel.getLsbD 0 then
            (w.charge i).qBal = max (-(((s.cfg i).capacityAh * 3600 : Nat) : Int)) (min 0 v) ∧ (w.charge i).fine = 0
              ∧ (w.charge i).assumed = false ∧ (w.charge i).floor = false ∧ (w.charge i).gap = false
          else (w.charge i).qBal = (s.charge i).qBal ∧ (w.charge i).assumed = (s.charge i).assumed)
        ∧ (w.charge i).daysSinceEq
            = (if sel.getLsbD 1 then 256 * d1.toNat + d0.toNat else (s.charge i).daysSinceEq)
        ∧ (w.control i).holdoffUntil = (if sel.getLsbD 2 then none else (s.control i).holdoffUntil)
        ∧ (w.charge i).oTotal = (s.charge i).oTotal ∧ (w.charge i).dDis = (s.charge i).dDis
        ∧ (w.control i).state = (s.control i).state
        ∧ (∀ j, j ≠ i → w.str j = (s.begin dt).str j)
        ∧ w.cells = s.cells ∧ w.queue = s.queue ∧ w.water = s.water ∧ w.images = s.images)
    ∧ (∀ (i : Str) (args : List Byte), s.mgmt.cursor = ⟨.string, i.val⟩ → 7 ≤ args.length →
      (s.cfg i).present = false →
      exec (.write dt src args) s = .next ((s.begin dt).replied src 0x22 .notAllowed 0 []).quietEnd)
    ∧ (∀ (ix : Nat) (args : List Byte),
      ((s.mgmt.cursor = ⟨.cell, ix⟩ ∧ args.length < 4) ∨ (s.mgmt.cursor = ⟨.string, ix⟩ ∧ args.length < 7) →
        exec (.write dt src args) s = .next ((s.begin dt).replied src 0x22 .badArg 0 []).quietEnd)
      ∧ ((s.mgmt.cursor = ⟨.queue, ix⟩ ∧ ix < s.queue.length) ∨ (s.mgmt.cursor = ⟨.slot, ix⟩ ∧ ix < 2) →
        exec (.write dt src args) s = .next ((s.begin dt).replied src 0x22 .notAllowed 0 []).quietEnd)
      ∧ ((s.mgmt.cursor = ⟨.cell, ix⟩ ∧ 192 ≤ ix ∧ 4 ≤ args.length)
          ∨ (s.mgmt.cursor = ⟨.string, ix⟩ ∧ 8 ≤ ix ∧ 7 ≤ args.length)
          ∨ (s.mgmt.cursor = ⟨.queue, ix⟩ ∧ s.queue.length ≤ ix) ∨ (s.mgmt.cursor = ⟨.slot, ix⟩ ∧ 2 ≤ ix) →
        exec (.write dt src args) s = .next ((s.begin dt).replied src 0x22 .ended 0 []).quietEnd))

/-! ## The site clock and the site requests (R34, R139, R147, R148, R154, R182, R186) -/

/-- SET_TIME takes the given day and minute with the next site-minute 60 s on, and is BAD_ARG for a minute above 1439; it is
neither a site-minute nor a rollover. A site-minute advances the clock; at a rollover days_since_eq of every present string
rises by 1 (R34) and the allowance is restored (R148); at another minute the allowance falls by 1 when spend_mark is set, and
at 0 ends the round of a source-needing stretch (R147, R98); spend_mark is then judged afresh (R147); a holdoff the clock has
reached is cleared (R37); a scan starts. In ENGAGED mode a string whose due reasons are evaluated and hold is enqueued for an
EQUALISE of its auto_recipe by the first reason of DUE_DAYS, DUE_SPREAD and DUE_THROUGHPUT that is true (R35 to R37), and a
string with due cells, bound or not, for WATER by the table of R39; an entry of the string already queued is merged, and no
other string is enqueued. The clauses on slots take either an idle other slot or strings and slots that agree. -/
def Obligations.SiteClockAdvances : Prop :=
  ∀ (s : State) (dt : Nat),
    (∀ (src : Byte) (day minute : Word16), s.takesFrom src →
      (minute.toNat ≤ 1439 → exec (.setTime dt src day minute) s = .next (((s.begin dt).modMgmt fun m =>
        { m with clock := ⟨day.toNat, minute.toNat⟩, minuteEnd := s.now + dt + 60000 }).replied
          src 0x50 .ok 0 []).quietEnd)
      ∧ (1439 < minute.toNat →
        exec (.setTime dt src day minute) s = .next ((s.begin dt).replied src 0x50 .badArg 0 []).quietEnd))
    ∧ (s.mgmt.minuteEnd ≤ s.now + dt →
      ∃ w : State, exec (.siteMinute dt) s = .next w.settle ∧ w.marks.scan = true
        ∧ w.mgmt = { s.mgmt with
            clock := if s.mgmt.clock.minute = 1439 then ⟨(s.mgmt.clock.day + 1) % 65536, 0⟩
              else ⟨s.mgmt.clock.day, s.mgmt.clock.minute + 1⟩
            minuteEnd := s.mgmt.minuteEnd + 60000 }
        ∧ (∀ i, (w.charge i).daysSinceEq = if s.mgmt.clock.minute = 1439 ∧ (s.cfg i).present = true then
            min 65535 ((s.charge i).daysSinceEq + 1) else (s.charge i).daysSinceEq)
        ∧ (∀ i h, (s.control i).holdoffUntil = some h → (w.control i).holdoffUntil =
            if h.day < w.mgmt.clock.day ∨ (h.day = w.mgmt.clock.day ∧ h.minute ≤ w.mgmt.clock.minute) then none
            else some h)
        ∧ w.site.allowance = (if s.mgmt.clock.minute = 1439 then s.lim.allowanceMin
            else if s.site.spendMark = true then s.site.allowance - 1 else s.site.allowance)
        ∧ (w.site.spendMark = true ↔ s.site.src.level = true ∧ ∃ sl,
            ((w.slot sl).entryState = some .run ∨ (w.slot sl).entryState = some .direct) ∧ (w.stretch sl).source = true)
        ∧ (∀ i, s.mgmt.loaded.limits = true → s.mgmt.mode = .engaged →
            (s.equaliseJudged w i → (s.daysDue w i ∨ s.spreadDue dt i ∨ s.throughputDue i) →
              ∃ r, ⟨i, .equalise, (s.cfg i).autoRecipe, r, .normal, .auto, w.mgmt.clock⟩ ∈ w.queue
                ∧ (s.daysDue w i → r = .dueDays) ∧ (¬ s.daysDue w i → s.spreadDue dt i → r = .dueSpread)
                ∧ (¬ s.daysDue w i → ¬ s.spreadDue dt i → r = .dueThroughput))
            ∧ (¬ s.equaliseJudged w i ∨ (¬ s.daysDue w i ∧ ¬ s.spreadDue dt i ∧ ¬ s.throughputDue i) →
              ∀ e ∈ w.queue, e.string = i → e.kind = .equalise → e ∈ s.queue))
        ∧ (∀ i, s.mgmt.loaded.limits = true → s.mgmt.mode = .engaged →
            (∀ sl, (s.slot sl).string ≠ some i) ∨ s.BoundOk →
            (s.waterOwed i → ∃ e ∈ w.queue, e.string = i ∧ e.kind = .water
              ∧ ((∃ p, s.cellDue i p ∧ (s.cellAt i p).level = .dry) → e.priority = .urgent)
              ∧ ((∀ x ∈ s.queue, x.string = i → x.kind ≠ .water) →
                ∃ r pr, e = ⟨i, .water, 0, r, pr, .auto, w.mgmt.clock⟩
                  ∧ ((∃ p, s.cellDue i p ∧ (s.cellAt i p).level = .dry) → r = .dry)
                  ∧ ((∀ p, s.cellDue i p → (s.cellAt i p).level ≠ .dry) → pr = .normal
                    ∧ ((∃ p, s.cellDue i p ∧ (s.cellAt i p).level = .low) → r = .level)
                    ∧ ((∀ p, s.cellDue i p → (s.cellAt i p).level ≠ .low) → r = .deficit))))
            ∧ (¬ s.waterOwed i → ∀ e ∈ w.queue, e.string = i → e.kind = .water → e ∈ s.queue))
        ∧ (s.mgmt.mode = .transparent → ∀ e ∈ w.queue, e ∈ s.queue)
        ∧ (∀ sl i, s.mgmt.clock.minute ≠ 1439 → s.site.spendMark = true → s.site.allowance = 1 → s.holds sl i →
            s.otherIdle sl ∨ s.BoundOk → (s.control i).state = .equalising →
            ((s.slot sl).entryState = some .run ∨ (s.slot sl).entryState = some .direct
              ∨ (s.slot sl).entryState = some .suspended) → (s.stretch sl).source = true →
            (w.control i).state = .returning ∧ (w.control i).endReason = some .allowance
              ∧ (w.slot sl).entryState = none)
        ∧ w.cells = s.cells ∧ w.water = s.water ∧ w.images = s.images)

/-- REFILL sets the account to the given ml, at most the capacity, which is 0 before the first LIMITS image, and at most the
reserve while RESLOW is high; the reply carries the account, and a rise starts a scan (R139, R186). SET_MODE is OK and
changes nothing for the mode in force; TRANSPARENT, refused while a string is bound or the Watering Unit works, empties the
order queue (R171); ENGAGED asks for LIMITS and STRING loaded and starts a scan (R182). CLEAR_GAS is refused while the
filtered GAS line is high, and otherwise clears a set latch and the gas stop and starts a scan (R154). That the notices
waiting in the reply queue stay when the mode becomes TRANSPARENT is the model's choice (log 44). -/
def Obligations.SiteRequestsAct : Prop :=
  ∀ (s : State) (dt : Nat) (src : Byte), s.takesFrom src →
    (∀ (ml : Word32) (a : Nat),
      a = min (if s.mgmt.loaded.limits = true then min ml.toNat s.lim.reservoirCapacityMl else 0)
        (if s.site.reslow.level = true then s.lim.reservoirReserveMl else ml.toNat) →
      exec (.refill dt src ml) s = .next ({ ((s.begin dt).modWater fun w => { w with reservoir := a }) with
        marks := { scan := decide (s.water.reservoir < a) } }.replied src 0x51 .ok 0 (bytesBE 4 a)).settle)
    ∧ (∀ mode : Byte,
      (mode.toNat = (match s.mgmt.mode with | .transparent => 0 | .engaged => 1) →
        exec (.setMode dt src mode) s = .next ((s.begin dt).replied src 0x52 .ok 0 []).quietEnd)
      ∧ (mode.toNat = 0 → s.mgmt.mode = .engaged →
        (s.water.state = .idle → (∀ i, (s.control i).slot = none) →
          exec (.setMode dt src mode) s = .next ((((s.begin dt).modMgmt fun m => { m with mode := .transparent }).modRing
            fun r => { r with orders := [] }).replied src 0x52 .ok 0 []).quietEnd)
        ∧ ((s.water.state ≠ .idle ∨ ∃ i, (s.control i).slot ≠ none) →
          exec (.setMode dt src mode) s = .next ((s.begin dt).replied src 0x52 .notAllowed 0 []).quietEnd))
      ∧ (mode.toNat = 1 → s.mgmt.mode = .transparent →
        (s.mgmt.loaded.limits = true → s.mgmt.loaded.string = true →
          exec (.setMode dt src mode) s = .next ({ ((s.begin dt).modMgmt fun m =>
              { m with mode := .engaged, engagedOnce := true }) with marks := { scan := true } }.replied
                src 0x52 .ok 0 []).settle)
        ∧ ((s.mgmt.loaded.limits = false ∨ s.mgmt.loaded.string = false) →
          exec (.setMode dt src mode) s = .next ((s.begin dt).replied src 0x52 .notAllowed 0 []).quietEnd))
      ∧ (1 < mode.toNat →
        exec (.setMode dt src mode) s = .next ((s.begin dt).replied src 0x52 .badArg 0 []).quietEnd))
    ∧ (s.site.gas.level = true →
      exec (.clearGas dt src) s = .next ((s.begin dt).replied src 0x43 .notAllowed 0 []).quietEnd)
    ∧ (s.site.gas.level = false → s.site.gasLatch = false →
      exec (.clearGas dt src) s = .next ((s.begin dt).replied src 0x43 .ok 0 []).quietEnd)
    ∧ (s.site.gas.level = false → s.site.gasLatch = true →
      exec (.clearGas dt src) s = .next ({ (((s.begin dt).modSite fun t => { t with gasLatch := false }).modRing fun r =>
        { r with gasStop := false }) with marks := { scan := true } }.replied src 0x43 .ok 0 []).settle)

/-! ## Requests on rounds and strings (R76 to R80, R102, R106 to R112, R185, R187) -/

/-- ENQUEUE (R107 to R110, R185). A new entry joins behind the last URGENT entry when it is URGENT and at the tail when it is
NORMAL, stamped with the site clock. An entry of the same string and kind is merged instead: it keeps its stamp, takes the
higher priority, and takes origin, recipe and reason unless a water point placed it; it moves only when its priority rises. A
WATER entry holds recipe 0. Both start a scan. An EQUALISE for a bound string and anything for an OUT string are NOT_ALLOWED;
arguments outside R185's ranges are BAD_ARG. -/
def Obligations.EnqueueJoinsOrMerges : Prop :=
  ∀ (s : State) (dt : Nat) (src string kind recipe priority : Byte), s.takesFrom src →
    (∀ (i : Str) (k : RoundKind) (p : Priority) (e : Entry), string.toNat = i.val → kind.toNat = k.code →
      priority.toNat = p.code → (s.cfg i).present = true → recipe.toNat ≤ 8 →
      (k = .equalise → s.recipeIsEmpty recipe.toNat = false) → (k = .water → (s.cfg i).manifoldAddr ≠ 0xFF) →
      e = ⟨i, k, if k = .equalise then recipe.toNat else 0, .request, p, .request, s.mgmt.clock⟩ →
      ((k = .equalise ∧ (s.control i).slot ≠ none) ∨ (s.control i).state = .out →
        exec (.enqueue dt src string kind recipe priority) s
          = .next ((s.begin dt).replied src 0x30 .notAllowed 0 []).quietEnd)
      ∧ ((k = .equalise → (s.control i).slot = none) → (s.control i).state ≠ .out →
        (∀ u n, s.queue = u ++ n → (∀ x ∈ u, x.priority = .urgent) → (∀ x ∈ n, x.priority = .normal) →
          (∀ x ∈ s.queue, x.string = i → x.kind ≠ k) →
          exec (.enqueue dt src string kind recipe priority) s = .next ({ s.begin dt with
            queue := match p with | .normal => u ++ n ++ [e] | .urgent => u ++ e :: n
            marks := { scan := true } }.replied src 0x30 .ok 0 []).settle)
        ∧ (∀ (a b : List Entry) (old m : Entry), s.queue = a ++ old :: b → old.string = i → old.kind = k →
          (∀ x ∈ a ++ b, x.string = i → x.kind ≠ k) →
          m = (if old.origin = .recipe then { old with priority := if p = .urgent then .urgent else old.priority }
            else { e with priority := if p = .urgent then .urgent else old.priority, stamp := old.stamp }) →
          (old.priority = .urgent ∨ p = .normal →
            exec (.enqueue dt src string kind recipe priority) s = .next ({ s.begin dt with
              queue := a ++ m :: b, marks := { scan := true } }.replied src 0x30 .ok 0 []).settle)
          ∧ (old.priority = .normal → p = .urgent →
            ∀ u n, a ++ b = u ++ n → (∀ x ∈ u, x.priority = .urgent) → (∀ x ∈ n, x.priority = .normal) →
            exec (.enqueue dt src string kind recipe priority) s = .next ({ s.begin dt with
              queue := u ++ m :: n, marks := { scan := true } }.replied src 0x30 .ok 0 []).settle))))
    ∧ ((7 < string.toNat ∨ 1 < kind.toNat ∨ 1 < priority.toNat ∨ 8 < recipe.toNat
        ∨ (∃ i : Str, string.toNat = i.val ∧ ((s.cfg i).present = false
          ∨ (kind.toNat = 0 ∧ s.recipeIsEmpty recipe.toNat = true)
          ∨ (kind.toNat = 1 ∧ (s.cfg i).manifoldAddr = 0xFF)))) →
      exec (.enqueue dt src string kind recipe priority) s
        = .next ((s.begin dt).replied src 0x30 .badArg 0 []).quietEnd)

/-- CANCEL (R111, R88): the entry of the string and kind leaves the queue, the entries behind it move up, and a scan starts;
a slot of the string in WATER_WAIT ends its wait when its WATER entry is cancelled: the slot starts its next entry, and the
queue is the one without the entry, but for the new water point of a next entry that calls for water again (R87, R107).
Without such an entry it is NOT_ALLOWED; an index above 7 or an unknown kind is BAD_ARG. -/
def Obligations.CancelRemovesTheEntry : Prop :=
  ∀ (s : State) (dt : Nat) (src string kind : Byte), s.takesFrom src →
    (∀ (i : Str) (k : RoundKind), string.toNat = i.val → kind.toNat = k.code →
      ((∀ x ∈ s.queue, x.string = i → x.kind ≠ k) →
        exec (.cancel dt src string kind) s = .next ((s.begin dt).replied src 0x31 .notAllowed 0 []).quietEnd)
      ∧ ∀ (a b : List Entry) (e : Entry), s.queue = a ++ e :: b → e.string = i → e.kind = k →
        (∀ x ∈ a ++ b, x.string = i → x.kind ≠ k) →
        ((k = .equalise ∨ ∀ sl, (s.control i).slot = some sl → (s.slot sl).entryState ≠ some .waterWait) →
          exec (.cancel dt src string kind) s = .next ({ s.begin dt with
            queue := a ++ b, marks := { scan := true } }.replied src 0x31 .ok 0 []).settle)
        ∧ (∀ sl, k = .water → (s.control i).slot = some sl → (s.slot sl).entryState = some .waterWait →
          ∃ (w : State) (ns : List Frame), exec (.cancel dt src string kind) s = .next w.settle
            ∧ (s.slot sl).index < (w.slot sl).index ∧ w.marks.scan = true
            ∧ ((s.slot sl).string = some i →
              ((s.slot sl).recipe = 0 ∨ (s.cfg i).manifoldAddr = 0xFF ∨ s.watering i = true
                  ∨ recipeEntry s.images.recipe (s.slot sl).recipe ((s.slot sl).index + 1) ≠ .water →
                w.queue = a ++ b)
              ∧ (∀ u n, (s.slot sl).recipe ≠ 0 → (s.cfg i).manifoldAddr ≠ 0xFF → s.watering i = false →
                recipeEntry s.images.recipe (s.slot sl).recipe ((s.slot sl).index + 1) = .water →
                a ++ b = u ++ n → (∀ x ∈ u, x.priority = .urgent) → (∀ x ∈ n, x.priority = .normal) →
                w.queue = u ++ ⟨i, .water, 0, .waterPoint, .urgent, .recipe, s.mgmt.clock⟩ :: n))
            ∧ w.ring.replies = s.ring.replies ++ ⟨src, s.ring.ownAddress, 0x31, [0x31, 0]⟩ :: ns
            ∧ w.cells = s.cells ∧ w.mgmt = s.mgmt ∧ w.images = s.images))
    ∧ ((7 < string.toNat ∨ 1 < kind.toNat) →
      exec (.cancel dt src string kind) s = .next ((s.begin dt).replied src 0x31 .badArg 0 []).quietEnd)

/-- ABORT (R67, R68, R134, R185): the round of a string in CALLED or EQUALISING ends with ABORT_REQUEST and its holdoff, and
its return begins, a NORMAL one at the match voltage; a watering round of the string ends with ABORT_REQUEST, its open valves
closed by one order and accounted for with their pro-rated amounts (R130, R131, R134, R135); when both hold, both end. When
neither holds it is NOT_ALLOWED; an absent string or an index above 7 is BAD_ARG. Two values are the model's choice: the day
that a holdoff end carries into, modulo 65536 (log 18), and match_deadline absent once the MATCH step has ended, also when its
window holds at once (log 19). That the round of a string being watered with its slot in WATER_WAIT ends with ABORT_REQUEST,
and not by the end of its watering, is the model's reading of R134 (log 4, DEDUCED). -/
def Obligations.AbortEndsTheRounds : Prop :=
  ∀ (s : State) (dt : Nat) (src string : Byte), s.takesFrom src →
    (∀ i : Str, string.toNat = i.val → (s.cfg i).present = true →
      ((s.control i).state ≠ .called → (s.control i).state ≠ .equalising →
        (s.water.state = .idle ∨ s.water.string ≠ some i) →
        exec (.abort dt src string) s = .next ((s.begin dt).replied src 0x32 .notAllowed 0 []).quietEnd)
      ∧ ((s.control i).state = .called ∨ (s.control i).state = .equalising →
          (s.water.state = .idle ∨ s.water.string ≠ some i) →
        ∃ w : State, exec (.abort dt src string) s = .next w.settle ∧ s.EndedFor w i .abortRequest
          ∧ (w.control i).holdoffUntil = (if s.lim.holdoffMin = 0 then (s.control i).holdoffUntil else
              some ⟨(s.mgmt.clock.day + (s.mgmt.clock.minute + s.lim.holdoffMin) / 1440) % 65536,
                (s.mgmt.clock.minute + s.lim.holdoffMin) % 1440⟩)
          ∧ ((s.control i).slot ≠ none → s.site.gasLatch = false → s.ring.sight ≠ .blind →
              (w.control i).rectOrder = some (.on
                (min (s.busVoltage.getD (s.lim.floatMv * (s.cfg i).cells / 10)) (s.lim.cellCeilingMv * (s.cfg i).cells / 10))
                s.lim.iFloor))
          ∧ ((s.control i).slot ≠ none → (s.site.gasLatch = true ∨ s.ring.sight = .blind) →
              (w.control i).rectOrder = some .off)
          ∧ (s.site.gasLatch = true ∨ s.ring.sight = .blind ∨ (s.control i).state = .called →
              (w.control i).step = some .confirm
                ∧ (w.control i).confirmLeft = some (s.lim.contactorTimeoutS * 1000))
          ∧ (s.site.gasLatch = false → s.ring.sight ≠ .blind → (s.control i).state = .equalising →
              if (s.begin dt).windowHolds i = true then
                (w.control i).step = some .confirm ∧ (w.control i).matchDeadline = none
              else (w.control i).step = some .matching
                ∧ (w.control i).matchDeadline = some (s.now + dt + s.lim.returnWaitMin * 60000))
          ∧ (∀ j, j ≠ i → w.str j = (s.begin dt).str j) ∧ w.marks.scan = true
          ∧ w.ring.replies = s.ring.replies ++ [⟨src, s.ring.ownAddress, 0x31, [0x32, 0]⟩]
          ∧ w.cells = s.cells ∧ w.water = s.water ∧ w.mgmt = s.mgmt ∧ w.images = s.images)
      ∧ (s.water.state ≠ .idle → s.water.string = some i →
        ∃ (w : State) (ns : List Frame), exec (.abort dt src string) s = .next w.settle
          ∧ s.WateringEnded w (s.now + dt) i .abortRequest
          ∧ ((s.control i).state = .called ∨ (s.control i).state = .equalising → s.EndedFor w i .abortRequest)
          ∧ w.ring.replies = s.ring.replies ++ ⟨src, s.ring.ownAddress, 0x31, [0x32, 0]⟩ :: ns
          ∧ w.mgmt = s.mgmt ∧ w.images = s.images))
    ∧ ((7 < string.toNat ∨ ∃ i : Str, string.toNat = i.val ∧ (s.cfg i).present = false) →
      exec (.abort dt src string) s = .next ((s.begin dt).replied src 0x32 .badArg 0 []).quietEnd)

/-- DIRECT (R98, R99, R101, R102, R185): for a DIRECT round, in DIRECT or SUSPENDED, it sets direct_v, direct_i and L to the
request's values within their ranges; the order asked is RECT ON at trunc(direct_v × cells / 10) with limit L, or RECT OFF for
a current of 0. With no reason in force the order is handed, a suspended slot resuming with it; with one, the order is held as
pending_order of the suspended slot, a slot in DIRECT suspending with RECT OFF. A current asked with an allowance of 0 ends
the round with ALLOWANCE, and a gassing voltage under FAN_FAIL with FAN_FAIL, once the classification has been handed to the
Site Line Unit. A string that is not EQUALISING in a recipe-0 slot is NOT_ALLOWED; an index above 7 or an absent string is
BAD_ARG. Where a request meets both, the end reason is ALLOWANCE: R102 does not order the two, and the model takes the order
of R84 (log 46). The model's choice too is that either end comes before SUSPEND_LIMIT where the request also puts SOURCE or
HOT in force with suspended_total at its limit (R96; log 46), and that the Site Line Unit takes the classification at its
hand-off, so that the gassing run has begun when the round ends (log 5). That resume_state is absent once a slot has resumed
is the model's choice (log 43). -/
def Obligations.DirectSetsTheOrder : Prop :=
  ∀ (s : State) (dt : Nat) (src string : Byte) (v i : Word16), s.takesFrom src →
    ((7 < string.toNat ∨ ∃ j : Str, string.toNat = j.val ∧ (s.cfg j).present = false) →
      exec (.direct dt src string v i) s = .next ((s.begin dt).replied src 0x33 .badArg 0 []).quietEnd)
    ∧ ∀ str : Str, string.toNat = str.val → (s.cfg str).present = true →
    (((s.control str).state ≠ .equalising ∨ (s.control str).slot = none
        ∨ ∃ sl, (s.control str).slot = some sl ∧ (s.slot sl).recipe ≠ 0) →
      exec (.direct dt src string v i) s = .next ((s.begin dt).replied src 0x33 .notAllowed 0 []).quietEnd)
    ∧ ∀ (sl : SlotId) (mv : Nat) (o : RectOrder), s.holds sl str → (s.control str).state = .equalising →
      (s.slot sl).recipe = 0 → 2000 ≤ s.lim.cellCeilingMv → mv = clampNat v.toNat 2000 s.lim.cellCeilingMv →
      o = (if i.toNat = 0 then .off else .on (mv * (s.cfg str).cells / 10) (min i.toNat 3000)) →
      ((s.slot sl).entryState = some .direct
        ∨ ((s.slot sl).entryState = some .suspended ∧ (s.slot sl).resumeState = some .direct)) →
      ((i.toNat = 0 ∨ s.site.allowance ≠ 0) → (s.site.fanFail = false ∨ mv < s.lim.gasMv) →
        (s.slot sl).suspendedTotal < s.lim.suspendMaxMin * 60000 →
        ∃ w : State, exec (.direct dt src string v i) s = .next w.settle
          ∧ (w.slot sl).directV = mv ∧ (w.slot sl).directI = min i.toNat 3000
          ∧ (w.slot sl).limit = min i.toNat 3000 ∧ (w.slot sl).settleEnd = (s.slot sl).settleEnd
          ∧ (w.slot sl).runElapsed = ((s.begin dt).slot sl).runElapsed
          ∧ w.ring.replies = s.ring.replies ++ [⟨src, s.ring.ownAddress, 0x31, [0x33, 0]⟩]
          ∧ w.strings = (s.begin dt).strings ∧ w.cells = s.cells ∧ w.queue = s.queue ∧ w.water = s.water
          ∧ w.mgmt = s.mgmt ∧ w.images = s.images
          ∧ ((i.toNat = 0 ∨ s.site.src.level = true) → s.stale sl = false → s.ring.sight ≠ .warn →
            (mv < s.lim.gasMv ∨ ∃ tc, (s.slot sl).tc = some tc ∧ tc + 20 ≤ s.lim.hotLimit) →
            (w.slot sl).entryState = some .direct ∧ (w.slot sl).reasons = {} ∧ (w.slot sl).lastOrder = some o
              ∧ ((s.slot sl).entryState = some .suspended →
                (w.slot sl).resumeState = none ∧ (w.slot sl).pendingOrder = none))
          ∧ ((i.toNat ≠ 0 ∧ s.site.src.level = false) ∨ s.stale sl = true ∨ s.ring.sight = .warn
              ∨ (s.lim.gasMv ≤ mv ∧ ∃ tc, (s.slot sl).tc = some tc ∧ s.lim.hotLimit ≤ tc) →
            (w.slot sl).entryState = some .suspended ∧ (w.slot sl).resumeState = some .direct
              ∧ (w.slot sl).pendingOrder = some o
              ∧ (w.slot sl).lastOrder = if (s.slot sl).entryState = some .direct then some .off
                else (s.slot sl).lastOrder))
      ∧ (∀ cause, ((cause = .allowance ∧ i.toNat ≠ 0 ∧ s.site.allowance = 0)
            ∨ (cause = .fanFail ∧ (i.toNat = 0 ∨ s.site.allowance ≠ 0) ∧ s.site.fanFail = true ∧ s.lim.gasMv ≤ mv)) →
        ∃ w : State, exec (.direct dt src string v i) s = .next w.settle ∧ s.EndedFor w str cause
          ∧ ((s.slot sl).entryState = some .direct → s.lim.gasMv ≤ mv →
            w.site.gassingRun = true ∧ w.site.runOnEnd = none)
          ∧ w.ring.replies = s.ring.replies ++ [⟨src, s.ring.ownAddress, 0x31, [0x33, 0]⟩]
          ∧ w.cells = s.cells ∧ w.water = s.water ∧ w.mgmt = s.mgmt ∧ w.images = s.images)

/-- EXCLUDE and INCLUDE (R17, R77). EXCLUDE takes a string from ON_BUS, or from FAULTED without a slot, to OUT, unless it is
being watered: its entries leave the queue and those of the other strings stay in their order, but for the water points of
rounds that a DISCHARGE beginning with the event would end (R32, R100), and it counts no more toward the bus voltage. INCLUDE
takes an OUT string whose last position is BUS to ON_BUS, where its terminal voltage counts. Both are NOT_ALLOWED otherwise,
BAD_ARG for an index above 7 or an absent string (R185), and start a scan when taken. -/
def Obligations.StringsLeaveAndRejoin : Prop :=
  ∀ (s : State) (dt : Nat) (src string : Byte), s.takesFrom src →
    ((7 < string.toNat ∨ ∃ j : Str, string.toNat = j.val ∧ (s.cfg j).present = false) →
      exec (.excludeStr dt src string) s = .next ((s.begin dt).replied src 0x40 .badArg 0 []).quietEnd
      ∧ exec (.includeStr dt src string) s = .next ((s.begin dt).replied src 0x41 .badArg 0 []).quietEnd)
    ∧ ∀ i : Str, string.toNat = i.val → (s.cfg i).present = true →
    (((s.control i).state = .onBus ∨ ((s.control i).state = .faulted ∧ (s.control i).slot = none)) →
      (s.water.state = .idle ∨ s.water.string ≠ some i) →
      ∃ (w : State) (ns : List Frame), exec (.excludeStr dt src string) s = .next w.settle
        ∧ (w.control i).state = .out ∧ (w.control i).slot = (s.control i).slot
        ∧ (∀ e ∈ w.queue, e ∈ s.queue ∧ e.string ≠ i) ∧ w.marks.scan = true
        ∧ ((s.discharge = true ∨ w.discharge = false) → w.queue = s.queue.filter fun e => e.string != i)
        ∧ ((s.control i).state = .onBus → (w.charge i).fullTimer = none ∧ ∀ b, w.busVoltage = some b →
            ∃ j, j ≠ i ∧ (s.cfg j).present = true ∧ (w.control j).state = .onBus ∧ w.terminalV j = some b)
        ∧ w.ring.replies = s.ring.replies ++ ⟨src, s.ring.ownAddress, 0x31, [0x40, 0]⟩ :: ns
        ∧ w.cells = s.cells ∧ w.water = s.water ∧ w.mgmt = s.mgmt ∧ w.images = s.images)
    ∧ ((s.control i).state ≠ .onBus →
        ((s.control i).state ≠ .faulted ∨ (s.control i).slot ≠ none) →
      exec (.excludeStr dt src string) s = .next ((s.begin dt).replied src 0x40 .notAllowed 0 []).quietEnd)
    ∧ (s.water.state ≠ .idle → s.water.string = some i →
      exec (.excludeStr dt src string) s = .next ((s.begin dt).replied src 0x40 .notAllowed 0 []).quietEnd)
    ∧ ((s.control i).state = .out → (s.reading i).lastPosition = some .bus →
      ∃ (w : State) (ns : List Frame), exec (.includeStr dt src string) s = .next w.settle
        ∧ (w.control i).state = .onBus ∧ w.marks.scan = true
        ∧ (∀ v, (s.begin dt).terminalV i = some v → ∃ b, w.busVoltage = some b ∧ v ≤ b)
        ∧ (w.charge i).qBal = (s.charge i).qBal ∧ (w.charge i).assumed = (s.charge i).assumed
        ∧ w.ring.replies = s.ring.replies ++ ⟨src, s.ring.ownAddress, 0x31, [0x41, 0]⟩ :: ns
        ∧ w.cells = s.cells ∧ w.water = s.water ∧ w.mgmt = s.mgmt ∧ w.images = s.images)
    ∧ (((s.control i).state ≠ .out ∨ (s.reading i).lastPosition ≠ some .bus) →
      exec (.includeStr dt src string) s = .next ((s.begin dt).replied src 0x41 .notAllowed 0 []).quietEnd)

/-- CLEAR_FAULT (R70, R78): at BUS a FAULTED string becomes ON_BUS; with a slot, the slot is freed, the outcome of its round
stored, and its held order released to the order queue (R76; stated for a queue with room while no other string is away from the
bus). At EQ with a slot its return begins, with the variant of R67. Otherwise, and for a string that is not FAULTED, it is
NOT_ALLOWED; an index above 7 or an absent string is BAD_ARG (R185). -/
def Obligations.ClearFaultByPosition : Prop :=
  ∀ (s : State) (dt : Nat) (src string : Byte), s.takesFrom src →
    ((7 < string.toNat ∨ ∃ j : Str, string.toNat = j.val ∧ (s.cfg j).present = false) →
      exec (.clearFault dt src string) s = .next ((s.begin dt).replied src 0x42 .badArg 0 []).quietEnd)
    ∧ ∀ i : Str, string.toNat = i.val → (s.cfg i).present = true →
    (((s.control i).state ≠ .faulted ∨ (s.reading i).lastPosition = some .openPos
        ∨ (s.reading i).lastPosition = some .moving ∨ (s.reading i).lastPosition = none
        ∨ ((s.reading i).lastPosition = some .eq ∧ (s.control i).slot = none)) →
      exec (.clearFault dt src string) s = .next ((s.begin dt).replied src 0x42 .notAllowed 0 []).quietEnd)
    ∧ ((s.control i).state = .faulted → (s.reading i).lastPosition = some .bus →
      ∃ (w : State) (ns : List Frame), exec (.clearFault dt src string) s = .next w.settle
        ∧ (w.control i).state = .onBus ∧ (w.control i).slot = none ∧ w.marks.scan = true
        ∧ (∀ sl, (s.control i).slot = some sl → w.marks.commit = true ∧ w.slot sl = {}
            ∧ (w.control i).rectOrder = none ∧ (w.control i).endReason = none ∧ (w.control i).heldOrder = none
            ∧ (∀ h, (s.control i).heldOrder = some h → h.isRectOn = false → s.ring.orders.length ≤ 16 → s.onlyAway i →
                ∃ o ∈ w.ring.orders, o.frame = h)
            ∧ (w.control i).lastEqOutcome = some ⟨.equalise, (s.slot sl).recipe, (s.slot sl).reason,
                (s.control i).startStamp, (s.control i).endReason, (s.control i).endStamp, (s.control i).chargeIn,
                (s.slot sl).cut, (s.slot sl).entriesCompleted⟩)
        ∧ w.ring.replies = s.ring.replies ++ ⟨src, s.ring.ownAddress, 0x31, [0x42, 0]⟩ :: ns
        ∧ w.cells = s.cells ∧ w.water = s.water ∧ w.mgmt = s.mgmt ∧ w.images = s.images)
    ∧ (∀ sl, (s.control i).state = .faulted → (s.reading i).lastPosition = some .eq → (s.control i).slot = some sl →
      ∃ w : State, exec (.clearFault dt src string) s = .next w.settle
        ∧ (w.control i).state = .returning ∧ (w.control i).slot = some sl ∧ w.slot sl = (s.begin dt).slot sl
        ∧ (w.control i).endReason = (s.control i).endReason
        ∧ (w.control i).variant = some (if s.site.gasLatch = true then .gas
            else if s.discharge = true ∧ s.busLowOrAbsent = true then .fast else .normal)
        ∧ (w.control i).step = some (if (w.control i).variant = some .normal ∧ s.ring.sight ≠ .blind
            ∧ (s.begin dt).windowHolds i = false then .matching else .confirm)
        ∧ w.marks.scan = true ∧ (∀ j, j ≠ i → w.str j = (s.begin dt).str j)
        ∧ w.ring.replies = s.ring.replies ++ [⟨src, s.ring.ownAddress, 0x31, [0x42, 0]⟩]
        ∧ w.cells = s.cells ∧ w.water = s.water ∧ w.mgmt = s.mgmt ∧ w.images = s.images)

/-- RESTART, a warm restart as one event (R42, R80, R105, R112, R141, R146, R172, R187): the rounds in CALLED or EQUALISING
end with RESTART and the returns in flight stand; a watering round ends; the Round Queue, the forward buffer and staging are
empty, and the reply queue holds the reply alone; the counts, the thinning counters and the arbiter's counters are 0; the
generator sequence is IDLE; sight is SEEING from now; t_prev is absent; the cursor is CELL 0 without hold. The mode, the
loaded tables, the clock, the images and own_address are kept. The order queue then holds the standing orders of the bound
string, its rect_order, or RECT OFF when it is FAULTED, and CONTACTOR BUS when its return is in the CONFIRM step (R80, R172),
and behind them the VALVE order that closes every position of the group of a round that ended (R141); stated for at most one
bound string, whose addresses differ. That exactly these orders wait, in this sequence, is the model's choice, read from
those rules together (log 24, DEDUCED). So is that a round ended in GAP has its closing order for the group that has just
closed (log 12, DEDUCED). Stated for states whose bindings agree, as every step keeps them. -/
def Obligations.RestartIsWarm : Prop :=
  ∀ (s : State) (dt : Nat) (src : Byte), s.takesFrom src → s.BoundOk →
    ∃ w : State, exec (.restart dt src) s = .next w.settle
      ∧ (∀ i, (s.control i).state = .called ∨ (s.control i).state = .equalising →
          (w.control i).state = .returning ∧ (w.control i).endReason = some .restart
            ∧ (w.control i).holdoffUntil = (s.control i).holdoffUntil)
      ∧ (∀ i, (s.control i).state = .returning → (w.control i).state = .returning
          ∧ (w.control i).variant = (s.control i).variant ∧ (w.control i).step = (s.control i).step
          ∧ (w.control i).matchDeadline = (s.control i).matchDeadline
          ∧ (w.control i).confirmLeft = ((s.begin dt).control i).confirmLeft)
      ∧ (∀ i, (s.control i).state = .onBus ∨ (s.control i).state = .faulted ∨ (s.control i).state = .out →
          (w.control i).state = (s.control i).state)
      ∧ (∀ i, (w.control i).heldOrder = (s.control i).heldOrder ∧ (w.control i).slot = (s.control i).slot
          ∧ (w.charge i).tPrev = none ∧ (w.charge i).qBal = (s.charge i).qBal)
      ∧ (s.water.string ≠ none → s.water.state ≠ .idle → w.water.state = .idle ∧ w.water.pump = false)
      ∧ w.site.genState = .idle ∧ w.site.genreq = false ∧ w.site.genEnd = none ∧ w.site.gasLatch = s.site.gasLatch
      ∧ w.site.allowance = s.site.allowance
      ∧ w.queue = [] ∧ w.ring.forward = [] ∧ w.ring.replies = [⟨src, s.ring.ownAddress, 0x31, [0x53, 0]⟩]
      ∧ w.ring.counts = ⟨0, 0, 0, 0, 0, 0⟩ ∧ (∀ e : Fin 16, w.ring.thin[e.val] = 0)
      ∧ w.ring.replyWait = 0 ∧ w.ring.fwdSkip = 0 ∧ w.ring.noticeLost = false
      ∧ w.ring.sight = .seeing ∧ w.ring.lastGood = some (s.now + dt) ∧ w.ring.repeatDue = none
      ∧ w.ring.sending = s.ring.sending ∧ w.ring.rx = s.ring.rx ∧ w.ring.ownAddress = s.ring.ownAddress
      ∧ w.ring.gasStop = s.ring.gasStop
      ∧ w.mgmt = { s.mgmt with staging := .empty, stagedTable := none, stagedTotal := none, staged := [],
                               cursor := ⟨.cell, 0⟩, held := false, mark := none }
      ∧ w.images = s.images
      ∧ ∀ closing : List Frame,
        (s.water.state = .idle → closing = []) →
        (∀ j, s.water.state ≠ .idle → s.water.string = some j → closing = [⟨(s.cfg j).manifoldAddr, s.ring.ownAddress, 0x22,
          valvePayload (s.water.group.map fun g => ⟨g.pos, false⟩)⟩]) →
        (s.water.state ≠ .idle → s.water.string ≠ none) →
        ((∀ i, (s.control i).slot = none) → (w.ring.orders.map fun o => o.frame) = closing)
        ∧ (∀ i sl, (s.control i).slot = some sl → (∀ j, j ≠ i → (s.control j).slot = none) →
          s.rectAddr sl ≠ (s.cfg i).contactorAddr →
          (∀ f ∈ closing, f.dst ≠ s.rectAddr sl ∧ f.dst ≠ (s.cfg i).contactorAddr) →
          (w.ring.orders.map fun o => o.frame) =
            (match if (s.control i).state = .faulted then some .off else (w.control i).rectOrder with
              | none => []
              | some (.on v a) => [⟨s.rectAddr sl, s.ring.ownAddress, 0x20, if s.ring.gasStop = true then [0, 0, 0, 0, 0]
                  else 1 :: (bytesBE 2 v ++ bytesBE 2 a)⟩]
              | some .off => [⟨s.rectAddr sl, s.ring.ownAddress, 0x20, [0, 0, 0, 0, 0]⟩])
            ++ (if (w.control i).state = .returning ∧ (w.control i).step = some .confirm then
                [⟨(s.cfg i).contactorAddr, s.ring.ownAddress, 0x21, [1]⟩] else [])
            ++ closing)

/-! ## Expiries of records and strings (R12, R17, R33, R64 to R69, R74, R79, R90) -/

/-- A value that reaches its expiry becomes stale and stays stored (R12): the derived values of its string are recomputed, or
for a terminal voltage of a string in ON_BUS the bus voltage. The end of the discharge holdoff is a condition clearing (R33).
What is recomputed: fresh_cells counts the positions 1…cells whose voltage is fresh (R14), T_s is the highest fresh
temperature of a fresh cell (R15), spread the highest fresh voltage minus the lowest, absent below two of them (R16), and the
bus voltage the highest fresh terminal_v of the present strings in ON_BUS (R17). That a value is fresh through the
millisecond of its expiry, until the expiry event is taken, is the model's choice (log 25). -/
def Obligations.FreshnessAndHoldoffExpire : Prop :=
  ∀ (s : State) (dt : Nat),
    (∀ i e, (s.cell i).vExpiry = some e → e ≤ s.now + dt →
      ∃ w : State, exec (.freshnessExpiry dt (.cellVoltage i)) s = .next w.settle
        ∧ w.cell i = { s.cell i with vExpiry := none } ∧ (∀ j, j ≠ i → w.cell j = s.cell j)
        ∧ (w.reading (cellStr i)).freshCells = w.judgeFreshCells (cellStr i)
        ∧ (w.reading (cellStr i)).ts = w.judgeTs (cellStr i)
        ∧ (w.reading (cellStr i)).spread = w.judgeSpread (cellStr i)
        ∧ w.water = s.water ∧ w.mgmt = s.mgmt ∧ w.images = s.images)
    ∧ (∀ i e, (s.cell i).tExpiry = some e → e ≤ s.now + dt →
      ∃ w : State, exec (.freshnessExpiry dt (.cellTemp i)) s = .next w.settle
        ∧ w.cell i = { s.cell i with tExpiry := none } ∧ (∀ j, j ≠ i → w.cell j = s.cell j)
        ∧ (w.reading (cellStr i)).ts = w.judgeTs (cellStr i)
        ∧ w.water = s.water ∧ w.mgmt = s.mgmt ∧ w.images = s.images)
    ∧ (∀ i e, (s.reading i).tvExpiry = some e → e ≤ s.now + dt →
      ∃ w : State, exec (.freshnessExpiry dt (.terminal i)) s = .next w.settle
        ∧ w.reading i = { s.reading i with tvExpiry := none } ∧ (∀ j, j ≠ i → w.reading j = s.reading j)
        ∧ w.terminalV i = none
        ∧ w.busVoltage = (if (s.control i).state = .onBus then w.judgeBusVoltage else s.busVoltage)
        ∧ w.cells = s.cells ∧ w.water = s.water ∧ w.mgmt = s.mgmt ∧ w.images = s.images)
    ∧ (∀ e, s.holdoffEnd = some e → e ≤ s.now + dt → exec (.dischargeHoldoffEnd dt) s
      = .next ({ s.begin dt with holdoffEnd := none, marks := { scan := true } }).settle)
    ∧ (∀ i, s.judgeFreshCells i = ((List.finRange 24).filter fun p : Pos =>
          decide (p.val < (s.cfg i).cells) && (s.cellAt i p).vExpiry.any fun e => decide (s.now ≤ e)).length
      ∧ (∀ t, s.judgeTs i = some t ↔ (∃ p, s.warm i p t) ∧ ∀ q u, s.warm i q u → u ≤ t)
      ∧ (s.judgeTs i = none ↔ ∀ p u, ¬ s.warm i p u)
      ∧ ((∀ p q v u, s.measured i p v → s.measured i q u → p = q) → s.judgeSpread i = none)
      ∧ (∀ p q v u, p ≠ q → s.measured i p v → s.measured i q u → ∃ hi lo, s.judgeSpread i = some (hi - lo)
          ∧ (∃ r, s.measured i r hi) ∧ (∃ r, s.measured i r lo) ∧ ∀ r x, s.measured i r x → lo ≤ x ∧ x ≤ hi))
    ∧ (∀ b, s.judgeBusVoltage = some b ↔ (∃ i, s.onBusAt i b) ∧ ∀ i v, s.onBusAt i v → v ≤ b)
    ∧ (s.judgeBusVoltage = none ↔ ∀ i v, ¬ s.onBusAt i v)

/-- A confirmation that runs out while sight is SEEING makes the string FAULTED with its slot (R65, R66, R69, R74): RECT OFF is
its standing order, a round in CALLED ends with CONTACTOR while the end of a return's round stands, the held order is
discarded, and in ENGAGED mode a STRING_FAULT notice is handed. match_deadline ends the MATCH step with CONTACTOR BUS (R68).
A RECT order is handed again order_refresh_s after the last one, by String Control for a string that is not EQUALISING (R79),
by the slot while an entry runs (R90). That match_deadline becomes absent at the end of the MATCH step is the model's choice
(log 19). -/
def Obligations.StringTimersRunOut : Prop :=
  ∀ (s : State) (dt : Nat) (i : Str) (sl : SlotId), (s.control i).slot = some sl →
    (∀ left, s.ring.sight = .seeing → (s.control i).confirmLeft = some left → left ≤ dt →
      ((s.control i).state = .called ∨ ((s.control i).state = .returning ∧ (s.control i).step = some .confirm)) →
      ∃ w : State, exec (.confirmExpiry dt i) s = .next w.settle
        ∧ (w.control i).state = .faulted ∧ (w.control i).slot = some sl ∧ (w.control i).confirmLeft = none
        ∧ (w.control i).step = none ∧ (w.control i).variant = none ∧ (w.control i).heldOrder = none
        ∧ (w.control i).rectOrder = some .off ∧ (w.control i).lastRectTime = some (s.now + dt)
        ∧ (w.control i).endReason
            = (if (s.control i).state = .called then some .contactor else (s.control i).endReason)
        ∧ w.marks.scan = true ∧ (∀ j, j ≠ i → w.str j = (s.begin dt).str j)
        ∧ (s.mgmt.mode = .engaged → s.ring.replies.length < 8 → w.ring.replies = s.ring.replies
            ++ [⟨s.lim.controllerAddr, s.ring.ownAddress, 0x32, [0x05, BitVec.ofNat 8 i.val,
                match (s.reading i).lastPosition with
                | none => 0xFF | some .openPos => 0 | some .bus => 1 | some .eq => 2 | some .moving => 3]⟩])
        ∧ w.cells = s.cells ∧ w.water = s.water ∧ w.mgmt = s.mgmt ∧ w.images = s.images)
    ∧ (∀ e, (s.control i).state = .returning → (s.control i).step = some .matching →
      (s.control i).matchDeadline = some e → e ≤ s.now + dt → exec (.matchDeadline dt i) s
      = .next (((s.begin dt).handOrder ⟨(s.cfg i).contactorAddr, s.ring.ownAddress, 0x21, [1]⟩).modControl i fun c =>
          { c with step := some .confirm, matchDeadline := none,
                   confirmLeft := some (s.lim.contactorTimeoutS * 1000) }).quietEnd)
    ∧ (∀ o e, (s.control i).state ≠ .equalising → (s.control i).rectOrder = some o →
      (s.control i).lastRectTime = some e → e + s.lim.orderRefreshS * 1000 ≤ s.now + dt → exec (.rectRefresh dt i) s
      = .next (((s.begin dt).modControl i fun c => { c with lastRectTime := some (s.now + dt) }).handOrder
          ⟨s.rectAddr sl, s.ring.ownAddress, 0x20,
            match o with | .off => [0, 0, 0, 0, 0] | .on v a => 1 :: bytesBE 2 v ++ bytesBE 2 a⟩).quietEnd)
    ∧ (∀ o e, (s.slot sl).entryState ≠ none → (s.slot sl).lastOrder = some o →
      (s.slot sl).lastOrderTime = some e → e + s.lim.orderRefreshS * 1000 ≤ s.now + dt → exec (.slotRefresh dt sl) s
      = .next (((s.begin dt).modSlot sl fun r => { r with lastOrderTime := some (s.now + dt) }).handOrder
          ⟨s.rectAddr sl, s.ring.ownAddress, 0x20,
            match o with | .off => [0, 0, 0, 0, 0] | .on v a => 1 :: bytesBE 2 v ++ bytesBE 2 a⟩).quietEnd)

/-! ## Entries and rounds of the slots (R83 to R102) -/

/-- The ends of an entry (R83, R85, R86, R88, R92): a phase whose run_elapsed reaches d_eff, or whose criterion has held for
crit_hold_min of run_elapsed, a WAIT that reaches its end, and a water wait that reaches its end, which withdraws the string's
queued WATER entry, all start the next entry. -/
def Obligations.EntriesEndAtTheirTimes : Prop :=
  ∀ (s : State) (dt : Nat) (sl : SlotId), (s.slot sl).recipe ≠ 0 →
    (∀ id, (s.slot sl).entryState = some .run → s.slotEntry sl = .phase id →
      (s.slot sl).dEff * 60000 ≤ (s.slot sl).runElapsed + dt →
      exec (.phaseTimeup dt sl) s = .next ((s.begin dt).nextEntry sl).settle)
    ∧ (∀ id c, (s.slot sl).entryState = some .run → s.slotEntry sl = .phase id → (s.slot sl).critStart = some c →
      (s.phase id).criterion ≠ .none → c + (s.phase id).critHoldMin * 60000 ≤ (s.slot sl).runElapsed + dt →
      exec (.criterionMet dt sl) s = .next ((s.begin dt).nextEntry sl).settle)
    ∧ (∀ e, (s.slot sl).entryState = some .wait → (s.slot sl).entryEnd = some e → e ≤ s.now + dt →
      exec (.waitEnd dt sl) s = .next ((s.begin dt).nextEntry sl).settle)
    ∧ (∀ e i, (s.slot sl).entryState = some .waterWait → (s.slot sl).entryEnd = some e → e ≤ s.now + dt →
      (s.slot sl).string = some i →
      ((∀ x ∈ s.queue, x.string = i → x.kind ≠ .water) → exec (.waterWaitExpiry dt sl) s
        = .next (((s.begin dt).modSlot sl fun r => { r with waterCalled := false }).nextEntry sl).settle)
      ∧ (∀ (a b : List Entry) (x : Entry), s.queue = a ++ x :: b → x.string = i → x.kind = .water →
        (∀ y ∈ a ++ b, y.string = i → y.kind ≠ .water) → exec (.waterWaitExpiry dt sl) s
        = .next (({ s.begin dt with queue := a ++ b, marks := { scan := true } }.modSlot sl fun r =>
            { r with waterCalled := false }).nextEntry sl).settle))

/-- The start of the entry at index + 1 (R83 to R87, R89). Every start clears the entry's timers. A PHASE runs at its own
i_set with its stretched duration; with a reason in force, SOURCE, STALE, BLIND, or HOT in a gassing phase, it is suspended
at RECT OFF with its order kept; without source allowance, or gassing under FAN_FAIL, the round ends. A WAIT hands RECT OFF
and ends at its minutes. A water point of a string with a manifold calls for water and waits at the float order; without one
it is passed over. At END the round is COMPLETE, which clears days_since_eq and D_dis (R38). The Site Line Unit takes the
activity that the start leaves: gassing_run and spending follow, and the run-on begins, stands or is dropped (R103, R150). That
it takes it at once, before the event does anything further to the slot, is the model's choice (log 5): R103 does not say when
inside the event the hand-off is taken. -/
def Obligations.EntriesStartByKind : Prop :=
  ∀ (s : State) (sl : SlotId) (i : Str) (e : RecipeEntry), s.holds sl i → (s.control i).state = .equalising →
    (s.slot sl).recipe ≠ 0 → e = recipeEntry s.images.recipe (s.slot sl).recipe ((s.slot sl).index + 1) →
    (∀ id, e = .phase id → 0 < (s.phase id).iSet → s.site.allowance = 0 → s.EndedFor (s.nextEntry sl) i .allowance)
    ∧ (∀ id, e = .phase id → ((s.phase id).iSet = 0 ∨ s.site.allowance ≠ 0) → s.lim.gasMv ≤ (s.phase id).vSet →
        s.site.fanFail = true → s.EndedFor (s.nextEntry sl) i .fanFail)
    ∧ (∀ id, e = .phase id → ((s.phase id).iSet = 0 ∨ s.site.allowance ≠ 0) →
        ((s.phase id).vSet < s.lim.gasMv ∨ s.site.fanFail = false) →
        ((s.nextEntry sl).slot sl).index = (s.slot sl).index + 1
        ∧ ((s.nextEntry sl).slot sl).entriesCompleted = (s.slot sl).index + 1
        ∧ ((s.nextEntry sl).slot sl).runElapsed = 0 ∧ ((s.nextEntry sl).slot sl).settleEnd = none
        ∧ ((s.nextEntry sl).slot sl).entryEnd = none
        ∧ ((s.nextEntry sl).slot sl).dEff = effectiveDuration (s.phase id) (s.cfg i)
        ∧ (∀ tc, ((s.phase id).iSet = 0 ∨ s.site.src.level = true) → s.stale sl = false → s.ring.sight ≠ .warn →
            (s.slot sl).tc = some tc → ((s.phase id).vSet < s.lim.gasMv ∨ tc + 20 ≤ s.lim.hotLimit) →
            ((s.nextEntry sl).slot sl).entryState = some .run ∧ ((s.nextEntry sl).slot sl).limit = (s.phase id).iSet
              ∧ ((s.nextEntry sl).slot sl).lastOrder = some (if (s.phase id).iSet = 0 then .off
                  else .on (phaseMv s.lim (s.phase id) tc * (s.cfg i).cells / 10) (s.phase id).iSet))
        ∧ (∀ tc, (s.slot sl).tc = some tc →
            (0 < (s.phase id).iSet ∧ s.site.src.level = false) ∨ s.stale sl = true ∨ s.ring.sight = .warn
              ∨ (s.lim.gasMv ≤ (s.phase id).vSet ∧ s.lim.hotLimit ≤ tc) →
            (s.slot sl).suspendedTotal < s.lim.suspendMaxMin * 60000 →
            ((s.nextEntry sl).slot sl).entryState = some .suspended
              ∧ ((s.nextEntry sl).slot sl).resumeState = some .run
              ∧ ((s.nextEntry sl).slot sl).lastOrder = some .off
              ∧ ((s.nextEntry sl).slot sl).limit = (s.phase id).iSet
              ∧ ((s.nextEntry sl).slot sl).pendingOrder = some (if (s.phase id).iSet = 0 then .off
                  else .on (phaseMv s.lim (s.phase id) tc * (s.cfg i).cells / 10) (s.phase id).iSet)
              ∧ ((s.nextEntry sl).slot sl).reasons.source = (decide (0 < (s.phase id).iSet) && !s.site.src.level)
              ∧ ((s.nextEntry sl).slot sl).reasons.stale = s.stale sl
              ∧ ((s.nextEntry sl).slot sl).reasons.blind = decide (s.ring.sight = .warn)
              ∧ (s.lim.gasMv ≤ (s.phase id).vSet → s.lim.hotLimit ≤ tc →
                ((s.nextEntry sl).slot sl).reasons.hot = true)))
    ∧ (∀ m, e = .wait m →
        ((s.nextEntry sl).slot sl).index = (s.slot sl).index + 1
        ∧ ((s.nextEntry sl).slot sl).entryState = some .wait
        ∧ ((s.nextEntry sl).slot sl).entryEnd = some (s.now + m * 60000)
        ∧ ((s.nextEntry sl).slot sl).lastOrder = some .off ∧ ((s.nextEntry sl).slot sl).critStart = none
        ∧ (s.nextEntry sl).strings = s.strings ∧ (s.nextEntry sl).queue = s.queue)
    ∧ (e = .finish → s.EndedFor (s.nextEntry sl) i .complete ∧ ((s.nextEntry sl).charge i).daysSinceEq = 0
        ∧ ((s.nextEntry sl).charge i).dDis = 0 ∧ ((s.nextEntry sl).charge i).spreadTimer = none
        ∧ ((s.nextEntry sl).slot sl).entriesCompleted = (s.slot sl).index + 1)
    ∧ (e = .water → (s.cfg i).manifoldAddr ≠ 0xFF →
        ((s.nextEntry sl).slot sl).entryState = some .waterWait ∧ ((s.nextEntry sl).slot sl).waterCalled = true
        ∧ ((s.nextEntry sl).slot sl).entryEnd = some (s.now + s.lim.waterWaitMaxMin * 60000)
        ∧ ((s.nextEntry sl).slot sl).limit = s.lim.iFloor
        ∧ (∀ tc, (s.slot sl).tc = some tc → ((s.nextEntry sl).slot sl).lastOrder
            = some (.on (waterMv s.lim tc * (s.cfg i).cells / 10) s.lim.iFloor))
        ∧ (s.watering i = false → ∃ x ∈ (s.nextEntry sl).queue, x.string = i ∧ x.kind = .water ∧ x.recipe = 0
            ∧ x.priority = .urgent ∧ x.origin = .recipe ∧ x.reason = .waterPoint)
        ∧ (s.watering i = true → (s.nextEntry sl).queue = s.queue)
        ∧ (s.nextEntry sl).strings = s.strings)
    ∧ (e = .water → (s.cfg i).manifoldAddr = 0xFF → (s.slot sl).index < 11 →
        recipeEntry s.images.recipe (s.slot sl).recipe ((s.slot sl).index + 2) = .finish →
        s.EndedFor (s.nextEntry sl) i .complete
        ∧ ((s.nextEntry sl).slot sl).entriesCompleted = (s.slot sl).index + 2)
    ∧ (e = .water → (s.cfg i).manifoldAddr = 0xFF →
        s.nextEntry sl = (s.modSlot sl fun r => { r with index := r.index + 1 }).nextEntry sl)
    ∧ (∀ t, t = s.nextEntry sl →
        (t.site.gassingRun = true ↔ ∃ x, ((t.slot x).entryState = some .run ∨ (t.slot x).entryState = some .direct)
          ∧ (t.stretch x).gassing = true)
        ∧ (t.site.spending = true ↔ ∃ x, ((t.slot x).entryState = some .run ∨ (t.slot x).entryState = some .direct)
          ∧ (t.stretch x).source = true)
        ∧ t.site.runOnEnd = (if t.site.gassingRun = true then none
            else if s.site.gassingRun = true ∧ s.lim.runOnMin ≠ 0 then some (s.now + s.lim.runOnMin * 60000)
            else s.site.runOnEnd))

/-- The slot's own ends of a round (R96, R97, R101): a suspended time at suspend_max_min ends it with SUSPEND_LIMIT, SOURCE in
force for source_wait_min with NO_SOURCE, a DIRECT round at direct_max_min with TIMEUP; String Control takes the cause (R67), a
WATER entry that the slot's water point placed is withdrawn, and nothing outside the string, its slot, that entry and the orders
handed moves. -/
def Obligations.SlotLimitsEndTheRound : Prop :=
  ∀ (s : State) (dt : Nat) (sl : SlotId) (i : Str), s.holds sl i → (s.control i).state = .equalising →
    ∀ (c : Instr) (cause : EndReason),
      ((c = .suspendLimit dt sl ∧ cause = .suspendLimit ∧ (s.slot sl).entryState = some .suspended
          ∧ s.lim.suspendMaxMin * 60000 ≤ (s.slot sl).suspendedTotal + dt)
        ∨ (c = .noSource dt sl ∧ cause = .noSource ∧ (s.slot sl).entryState ≠ none ∧ (s.slot sl).reasons.source = true
          ∧ ∃ e, (s.slot sl).sourceWaitStart = some e ∧ e + s.lim.sourceWaitMin * 60000 ≤ s.now + dt)
        ∨ (c = .directTimeup dt sl ∧ cause = .timeup ∧ (s.slot sl).entryState = some .direct
          ∧ s.lim.directMaxMin * 60000 ≤ (s.slot sl).runElapsed + dt)) →
      ∃ w : State, exec c s = .next w.settle ∧ s.EndedFor w i cause
        ∧ (w.control i).holdoffUntil = (s.control i).holdoffUntil ∧ w.marks.scan = true
        ∧ (∀ j, j ≠ i → w.str j = (s.begin dt).str j) ∧ w.reading i = s.reading i ∧ w.charge i = s.charge i
        ∧ (∀ sl', sl' ≠ sl → w.slot sl' = (s.begin dt).slot sl')
        ∧ (w.slot sl).string = some i ∧ (w.slot sl).recipe = (s.slot sl).recipe ∧ (w.slot sl).reason = (s.slot sl).reason
        ∧ (w.slot sl).cut = (s.slot sl).cut ∧ (w.slot sl).entriesCompleted = (s.slot sl).entriesCompleted
        ∧ (∀ e, e ∈ w.queue ↔ e ∈ s.queue
            ∧ ¬ ((s.slot sl).waterCalled = true ∧ e.string = i ∧ e.kind = .water))
        ∧ w.ring = { s.ring with
            orders := w.ring.orders, orderCount := w.ring.orderCount
            counts := { s.ring.counts with orderDrop := w.ring.counts.orderDrop } }
        ∧ w.busVoltage = s.busVoltage ∧ w.discharge = s.discharge ∧ w.holdoffEnd = s.holdoffEnd
        ∧ w.trigLevel = s.trigLevel ∧ w.pending = s.pending ∧ w.now = s.now + dt ∧ w.site = s.site
        ∧ w.cells = s.cells ∧ w.water = s.water ∧ w.mgmt = s.mgmt ∧ w.images = s.images

/-! ## The Watering Unit (R126 to R138) -/

/-- A valve at its close time (R128 to R132): one order closes it, with the unsent alterations when it follows an order to the
same manifold; its full dose leaves the account and the cell's deficit; a probe cell given water awaits confirmation; the last
valve of the group turns PUMP off and begins the gap. The overfill cut (R131, R133): a HIGH reading of a probe position whose
valve is open closes it at once with the amount of the time it was open, at most its dose and 0 before its opening has left the
output; the cell counts as confirmed and the round is cut. A HIGH reading of any other position of the string takes it out of
the plan and moves nothing else of the unit. -/
def Obligations.ValvesCloseWithTheirDose : Prop :=
  (∀ (s : State) (dt : Nat) (i : Str) (p : Pos) (g : GroupItem) (a b : List GroupItem) (t : Nat), s.water.state = .dosing →
    s.water.string = some i → p ∈ s.water.openSet → s.water.group = a ++ g :: b → g.pos = p → (∀ x ∈ a, x.pos ≠ p) →
    g.sent = some t → t + g.openMs ≤ s.now + dt →
    ∃ (w : State) (alters : List Alter), exec (.valveClose dt p) s = .next w.quietEnd
      ∧ alters = (if s.water.lastValveDst = some (s.cfg i).manifoldAddr then
          s.water.unsent.filter (fun u => decide (u.pos ≠ p)) ++ [⟨p, false⟩] else [⟨p, false⟩])
      ∧ w.ring = ((s.begin dt).handOrder
          ⟨(s.cfg i).manifoldAddr, s.ring.ownAddress, 0x22, valvePayload alters⟩).ring
      ∧ w.water = { s.water with
          unsent := alters, lastValveDst := some (s.cfg i).manifoldAddr, lastValveOrder := some s.ring.orderCount
          openSet := s.water.openSet.filter (fun q => decide (q ≠ p))
          reservoir := s.water.reservoir - g.dose, roundMl := s.water.roundMl + g.dose
          cellsDosed := if 0 < g.dose then s.water.cellsDosed + 1 else s.water.cellsDosed
          state := if ∀ q ∈ s.water.openSet, q = p then .gap else .dosing
          pump := if ∀ q ∈ s.water.openSet, q = p then false else s.water.pump
          gapEnd := if ∀ q ∈ s.water.openSet, q = p then some (s.now + dt + s.lim.groupGapS * 1000) else s.water.gapEnd }
      ∧ w.cell (cellIx i p) = { s.cell (cellIx i p) with
          deficit := (s.cell (cellIx i p)).deficit - g.dose * 1000, lastDose := g.dose
          confirmDeadline := if 0 < g.dose ∧ (s.cfg i).hasProbe p = true then
            some (s.now + dt + s.lim.confirmMin * 60000) else (s.cell (cellIx i p)).confirmDeadline }
      ∧ (∀ j, j ≠ cellIx i p → w.cell j = s.cell j)
      ∧ w.strings = (s.begin dt).strings ∧ w.queue = s.queue ∧ w.site = s.site ∧ w.mgmt = s.mgmt ∧ w.images = s.images)
  ∧ ∀ (s : State) (dt : Nat) (b : Byte) (f : Frame) (i : Str) (p : Pos) (v1 v0 t1 t0 st : Byte) (rest : List Byte),
    s.lastByteOf f b → s.ring.sight = .seeing → f.dst ≠ s.ring.ownAddress → s.roleOf f.src = some (.cell i p) →
    f.kind = 0x10 → f.payload = v1 :: v0 :: t1 :: t0 :: 1 :: st :: rest → st.getLsbD 0 = false →
    (s.cfg i).hasProbe p = true → s.water.string = some i →
    (∀ (g : GroupItem) (a z : List GroupItem) (ml : Nat), s.water.state = .dosing → p ∈ s.water.openSet →
      s.water.group = a ++ g :: z → g.pos = p → (∀ x ∈ a, x.pos ≠ p) →
      ml = (match g.sent with
        | some t => min g.dose ((s.now + dt - t) * s.lim.flowX10 / 10000)
        | none => 0) →
      ∃ w : State, exec (.frameReceived dt b) s = .next w.settle
        ∧ w.water = { s.water with
            unsent := if s.water.lastValveDst = some (s.cfg i).manifoldAddr then
                s.water.unsent.filter (fun u => decide (u.pos ≠ p)) ++ [⟨p, false⟩] else [⟨p, false⟩]
            lastValveDst := some (s.cfg i).manifoldAddr, lastValveOrder := w.water.lastValveOrder
            openSet := s.water.openSet.filter (fun q => decide (q ≠ p)), roundCut := true
            reservoir := s.water.reservoir - ml, roundMl := s.water.roundMl + ml
            cellsDosed := if 0 < ml then s.water.cellsDosed + 1 else s.water.cellsDosed
            state := if ∀ q ∈ s.water.openSet, q = p then .gap else .dosing
            pump := if ∀ q ∈ s.water.openSet, q = p then false else s.water.pump
            gapEnd := if ∀ q ∈ s.water.openSet, q = p then some (s.now + dt + s.lim.groupGapS * 1000)
              else s.water.gapEnd }
        ∧ (w.cell (cellIx i p)).level = .high ∧ (w.cell (cellIx i p)).deficit = 0
        ∧ (w.cell (cellIx i p)).lastDose = ml ∧ (w.cell (cellIx i p)).confirmDeadline = none
        ∧ (w.cell (cellIx i p)).unconfirmed = 0
        ∧ (w.cell (cellIx i p)).wateringFault = (s.cell (cellIx i p)).wateringFault
        ∧ (∀ j, j ≠ cellIx i p → w.cell j = s.cell j) ∧ w.mgmt = s.mgmt ∧ w.images = s.images)
    ∧ (s.water.state ≠ .idle → p ∉ s.water.openSet →
      ∃ w : State, exec (.frameReceived dt b) s = .next w.settle
        ∧ w.water = { s.water with plan := s.water.plan.filter (fun x => decide (x.pos ≠ p)) }
        ∧ (w.cell (cellIx i p)).level = .high ∧ (w.cell (cellIx i p)).deficit = 0
        ∧ (w.cell (cellIx i p)).confirmDeadline = none
        ∧ (w.cell (cellIx i p)).unconfirmed = (if (s.cell (cellIx i p)).confirmDeadline = none then
            (s.cell (cellIx i p)).unconfirmed else 0)
        ∧ (∀ j, j ≠ cellIx i p → w.cell j = s.cell j) ∧ w.mgmt = s.mgmt ∧ w.images = s.images)

/-- The end of a gap (R127, R129, R132, R135): with an empty plan the round ends COMPLETE; a first item that does not fit above
the reserve ends it with RESERVOIR; otherwise the next group is opened, PUMP on, by one VALVE order to the manifold of the string
that opens every position of the group and carries the unsent alterations of an order to the same manifold (R128, R129). In a
VALVE order the pair of position p stands at bits 2k and 2k + 1 of byte trunc((p − 1) / 4), k = (p − 1) mod 4: alter for the
positions it names, open for those it opens (11.2). The outcome record carries the millilitres, the cut flag and the cells dosed.
That the unit serves no string once it is IDLE is the model's choice (log 37). -/
def Obligations.GapsEndInGroupsOrOutcomes : Prop :=
  (∀ (as : List Alter) (p : Pos), (valvePayload as).length = 6
    ∧ (((valvePayload as).getD (p.val / 4) 0).getLsbD (2 * (p.val % 4) + 1) = true ↔ ∃ a ∈ as, a.pos = p)
    ∧ ∀ opened, ⟨p, opened⟩ ∈ as → (∀ a ∈ as, a.pos = p → a.opened = opened) →
      ((valvePayload as).getD (p.val / 4) 0).getLsbD (2 * (p.val % 4)) = opened)
  ∧ ∀ (s : State) (dt : Nat) (i : Str) (e : Nat), s.water.state = .gap → s.water.string = some i →
    s.water.gapEnd = some e → e ≤ s.now + dt →
    (∀ cause, ((s.water.plan = [] ∧ cause = .complete)
        ∨ (∃ x rest, s.water.plan = x :: rest ∧ cause = .reservoir
          ∧ (s.water.reservoir - s.lim.reservoirReserveMl < x.dose ∨ s.lim.maxOpen = 0))) →
      ∃ w : State, exec (.gapEnd dt) s = .next w.settle ∧ w.water.state = .idle ∧ w.water.pump = false
        ∧ w.water.plan = [] ∧ w.water.string = none ∧ w.water.reservoir = s.water.reservoir
        ∧ (w.control i).lastWaterOutcome = some ⟨.water, 0, s.water.reason, s.water.startStamp, some cause,
            some s.mgmt.clock, s.water.roundMl, s.water.roundCut, s.water.cellsDosed⟩
        ∧ w.marks.scan = true ∧ w.marks.commit = true
        ∧ w.cells = s.cells ∧ w.mgmt = s.mgmt ∧ w.images = s.images)
    ∧ (∀ x rest, s.water.plan = x :: rest → x.dose ≤ s.water.reservoir - s.lim.reservoirReserveMl →
        1 ≤ s.lim.maxOpen →
      ∃ (w : State) (taken left : List PlanItem), exec (.gapEnd dt) s = .next w.quietEnd
        ∧ x :: rest = taken ++ left ∧ taken ≠ [] ∧ taken.length ≤ s.lim.maxOpen
        ∧ (taken.map fun y => y.dose).sum ≤ s.water.reservoir - s.lim.reservoirReserveMl
        ∧ (∀ y ys, left = y :: ys → taken.length = s.lim.maxOpen
            ∨ s.water.reservoir - s.lim.reservoirReserveMl < (taken.map fun z => z.dose).sum + y.dose)
        ∧ w.water.state = .dosing ∧ w.water.pump = true ∧ w.water.gapEnd = none ∧ w.water.plan = left
        ∧ w.water.group = taken.map (fun y => ⟨y.pos, y.dose, y.openMs, none⟩)
        ∧ w.water.openSet = taken.map (fun y => y.pos) ∧ w.water.reservoir = s.water.reservoir
        ∧ w.water.unsent = s.altersOpening i (taken.map fun y => y.pos)
        ∧ w.water.lastValveDst = some (s.cfg i).manifoldAddr ∧ w.water.lastValveOrder = some s.ring.orderCount
        ∧ w.ring = ((s.begin dt).handOrder ⟨(s.cfg i).manifoldAddr, s.ring.ownAddress, 0x22,
            valvePayload (s.altersOpening i (taken.map fun y => y.pos))⟩).ring
        ∧ w.cells = s.cells ∧ w.strings = (s.begin dt).strings ∧ w.mgmt = s.mgmt ∧ w.images = s.images)

/-- confirm_deadline reached (R137): it becomes absent; a cell at LOW or DRY counts an unconfirmed dose, the second of which sets
watering_fault, with a CELL notice each in ENGAGED mode; at any other level nothing else changes. A notice that finds 8 frames in
the reply queue is lost and sets notice_lost (R166). That the count stays at 2 is the model's choice (log 29). -/
def Obligations.ConfirmDeadlineCountsTheDose : Prop :=
  ∀ (s : State) (dt : Nat) (i : CellIx) (e : Nat), (s.cell i).confirmDeadline = some e → e ≤ s.now + dt →
    ((s.cell i).level ≠ .low → (s.cell i).level ≠ .dry → exec (.confirmDeadlineExpiry dt i) s
      = .next ((s.begin dt).modCell i fun c => { c with confirmDeadline := none }).quietEnd)
    ∧ ((s.cell i).level = .low ∨ (s.cell i).level = .dry →
      ((s.mgmt.mode = .transparent → exec (.confirmDeadlineExpiry dt i) s
        = .next ((s.begin dt).modCell i fun c =>
          { c with confirmDeadline := none, unconfirmed := if c.unconfirmed = 0 then 1 else 2
                   wateringFault := if c.unconfirmed = 0 then c.wateringFault else true }).quietEnd)
      ∧ (s.mgmt.mode = .engaged → s.ring.replies.length < 7 → exec (.confirmDeadlineExpiry dt i) s
        = .next (((s.begin dt).modCell i fun c =>
          { c with confirmDeadline := none, unconfirmed := if c.unconfirmed = 0 then 1 else 2
                   wateringFault := if c.unconfirmed = 0 then c.wateringFault else true }).modRing fun r =>
          { r with replies := r.replies
              ++ ⟨s.lim.controllerAddr, r.ownAddress, 0x32,
                  [0x04, BitVec.ofNat 8 (i.val / 24), BitVec.ofNat 8 (i.val % 24 + 1), 1]⟩
              :: (if (s.cell i).unconfirmed = 0 then [] else [⟨s.lim.controllerAddr, r.ownAddress, 0x32,
                  [0x04, BitVec.ofNat 8 (i.val / 24), BitVec.ofNat 8 (i.val % 24 + 1), 2]⟩]) }).quietEnd)
      ∧ (s.mgmt.mode = .engaged → 7 ≤ s.ring.replies.length → exec (.confirmDeadlineExpiry dt i) s
        = .next (((s.begin dt).modCell i fun c =>
          { c with confirmDeadline := none, unconfirmed := if c.unconfirmed = 0 then 1 else 2
                   wateringFault := if c.unconfirmed = 0 then c.wateringFault else true }).modRing fun r =>
          { r with
            replies := if r.replies.length = 7 then r.replies ++ [⟨s.lim.controllerAddr, r.ownAddress, 0x32,
                [0x04, BitVec.ofNat 8 (i.val / 24), BitVec.ofNat 8 (i.val % 24 + 1), 1]⟩] else r.replies
            noticeLost := if r.replies.length = 7 ∧ (s.cell i).unconfirmed = 0 then r.noticeLost else true }).quietEnd)))

/-! ## Sight (R168 to R170) -/

/-- The silence (R168 to R170). At silence_warn_ms sight becomes WARN and a slot in RUN or DIRECT suspends with BLIND. At
silence_blind_s, or at both together, it becomes BLIND: every round in CALLED or EQUALISING ends with BLIND, a NORMAL return
in the MATCH step goes to CONFIRM, a watering round ends with BLIND, its open valves closed by one order and accounted for
with their pro-rated amounts (R130, R131, R134, R135), and in ENGAGED mode the ALARM notice with BLIND is handed, the repeat
is set, and the safe orders, RECT OFF and CONTACTOR BUS, wait for every string in RETURNING or FAULTED with a slot (stated for
a queue with room and one such string); in TRANSPARENT mode no notice is sent. At each repeat they are handed again for the
strings then in RETURNING or FAULTED with a slot. Three points are the model's choice: a repeat hands the RECT OFF of a string
before its CONTACTOR BUS (log 36), the next repeat counts from the event taken (log 30), and String Control takes the cause
before the Watering Unit, so that the round of a string being watered with its slot in WATER_WAIT ends with BLIND (log 47). -/
def Obligations.SilenceWarnsThenBlinds : Prop :=
  ∀ (s : State) (dt g : Nat), s.mgmt.loaded.limits = true → s.ring.lastGood = some g →
    (s.ring.sight = .seeing → g + s.lim.silenceWarnMs ≤ s.now + dt → s.lim.silenceWarnMs ≠ s.lim.silenceBlindS * 1000 →
      ((∀ sl, (s.slot sl).entryState = none) → exec (.warnExpiry dt) s
        = .next ((s.begin dt).modRing fun r => { r with sight := .warn }).quietEnd)
      ∧ (∀ sl back, s.otherIdle sl → (s.slot sl).entryState = some (ResumeState.entry back) →
        (s.slot sl).suspendedTotal < s.lim.suspendMaxMin * 60000 →
        ∃ w : State, exec (.warnExpiry dt) s = .next w.settle ∧ w.ring.sight = .warn
          ∧ (w.slot sl).entryState = some .suspended ∧ (w.slot sl).resumeState = some back
          ∧ (w.slot sl).reasons.blind = true ∧ (w.slot sl).lastOrder = some .off
          ∧ w.strings = (s.begin dt).strings ∧ w.cells = s.cells ∧ w.water = s.water ∧ w.mgmt = s.mgmt
          ∧ w.images = s.images))
    ∧ (∀ c, (c = .blindExpiry dt ∧ s.ring.sight ≠ .blind ∧ g + s.lim.silenceBlindS * 1000 ≤ s.now + dt)
        ∨ (c = .warnExpiry dt ∧ s.ring.sight = .seeing ∧ g + s.lim.silenceWarnMs ≤ s.now + dt
          ∧ s.lim.silenceWarnMs = s.lim.silenceBlindS * 1000) →
      ∃ w : State, exec c s = .next w.settle ∧ w.ring.sight = .blind
        ∧ (∀ i, (s.control i).state = .called ∨ (s.control i).state = .equalising →
            (w.control i).state = .returning ∧ (w.control i).endReason = some .blind
              ∧ (w.control i).step = some .confirm ∧ ((s.control i).slot ≠ none → (w.control i).rectOrder = some .off))
        ∧ (∀ i, (s.control i).state = .returning → (s.control i).variant = some .normal →
            (s.control i).step = some .matching → (w.control i).step = some .confirm)
        ∧ (∀ i, s.water.string = some i → s.water.state ≠ .idle → s.WateringEnded w (s.now + dt) i .blind)
        ∧ (s.mgmt.mode = .engaged → w.ring.repeatDue = some (s.now + dt + s.lim.blindRepeatS * 1000))
        ∧ (s.mgmt.mode = .transparent → w.ring.repeatDue = s.ring.repeatDue ∧ w.ring.replies = s.ring.replies)
        ∧ (s.mgmt.mode = .engaged → s.ring.replies.length < 7 →
            ⟨s.lim.controllerAddr, s.ring.ownAddress, 0x32, [0x03, 4]⟩ ∈ w.ring.replies)
        ∧ (s.mgmt.mode = .engaged → s.water.state = .idle → s.ring.replies.length < 8 → w.ring.replies
            = s.ring.replies ++ [⟨s.lim.controllerAddr, s.ring.ownAddress, 0x32, [0x03, 4]⟩])
        ∧ (∀ i sl, s.mgmt.mode = .engaged → s.water.state = .idle → s.otherIdle sl → (s.control i).slot = some sl →
            ((s.control i).state = .called ∨ (s.control i).state = .equalising ∨ (s.control i).state = .returning
              ∨ (s.control i).state = .faulted) →
            s.onlyAway i → (∀ j, j ≠ i → (s.control j).slot = none) → s.rectAddr sl ≠ (s.cfg i).contactorAddr →
            s.ring.orders.length ≤ 16 →
            (∃ o ∈ w.ring.orders, o.frame = ⟨s.rectAddr sl, s.ring.ownAddress, 0x20, [0, 0, 0, 0, 0]⟩)
              ∧ ∃ o ∈ w.ring.orders, o.frame = ⟨(s.cfg i).contactorAddr, s.ring.ownAddress, 0x21, [1]⟩)
        ∧ w.mgmt = s.mgmt ∧ w.images = s.images)
    ∧ (∀ e, s.ring.sight = .blind → s.ring.repeatDue = some e → e ≤ s.now + dt →
      ((∀ i, ((s.control i).state ≠ .returning ∧ (s.control i).state ≠ .faulted) ∨ (s.control i).slot = none) →
        exec (.blindRepeat dt) s = .next ((s.begin dt).modRing fun r =>
          { r with repeatDue := some (s.now + dt + s.lim.blindRepeatS * 1000) }).quietEnd)
      ∧ (∀ i sl, ((s.control i).state = .returning ∨ (s.control i).state = .faulted) → (s.control i).slot = some sl →
        (∀ j, j ≠ i → (((s.control j).state ≠ .returning ∧ (s.control j).state ≠ .faulted)
          ∨ (s.control j).slot = none)) →
        exec (.blindRepeat dt) s = .next ((((s.begin dt).handOrder
            ⟨s.rectAddr sl, s.ring.ownAddress, 0x20, [0, 0, 0, 0, 0]⟩).handOrder
            ⟨(s.cfg i).contactorAddr, s.ring.ownAddress, 0x21, [1]⟩).modRing fun r =>
          { r with repeatDue := some (s.now + dt + s.lim.blindRepeatS * 1000) }).quietEnd))

/-! ## Readings (R4 to R7, R10, R11, R69, R75) -/

/-- A good frame whose source has a role in a present string is absorbed in either mode. A CELL reading stores its measured
voltage and temperature with their expiry and the level of a probe position, HIGH clearing the deficit; a sensor fault holds
all (R5 to R7). A SHUNT reading stores the measured terminal voltage and is accounted at its arrival; a sensor fault is not
accepted (R10, R22); its account is the one that Charge.integrate gives (ChargeIsAccountedWhole), its water reaches every cell of
the string (R26), and the whole coulombs of a bound string count in charge_in_C (R24). A POSITION reading stores last_position
(R11): EQ in CALLED makes the string EQUALISING and starts its slot at entry 0 (R65), BUS completes a return and ends a round in
EQUALISING with CONTACTOR, its slot freed and its held order released in both (R69, R75, R76; stated for a queue with room while
no other string is away from the bus), OPEN makes a string in ON_BUS, CALLED, EQUALISING or RETURNING FAULTED, and EQ one in
ON_BUS; every other position, MOVING always and any for a FAULTED or OUT string, changes last_position alone (R75). -/
def Obligations.ReadingsReachTheRecords : Prop :=
  ∀ (s : State) (dt : Nat) (b : Byte) (f : Frame), s.lastByteOf f b → s.ring.sight = .seeing →
    f.dst ≠ s.ring.ownAddress →
    (∀ i p v1 v0 t1 t0 lv st rest, s.roleOf f.src = some (.cell i p) → f.kind = 0x10 →
      f.payload = v1 :: v0 :: t1 :: t0 :: lv :: st :: rest →
      ∃ w : State, exec (.frameReceived dt b) s = .next w.settle ∧ (∀ j, j ≠ cellIx i p → w.cell j = s.cell j)
        ∧ (st.getLsbD 0 = true → w.cells = s.cells ∧ w.strings = (s.begin dt).strings)
        ∧ (st.getLsbD 0 = false → ∀ stale, stale = (if s.mgmt.loaded.limits = true then s.lim.staleS * 1000 else 5000) →
          (if v1 ++ v0 = (0xFFFF : BitVec 16) then
            (w.cell (cellIx i p)).voltage = (s.cell (cellIx i p)).voltage
              ∧ (w.cell (cellIx i p)).vExpiry = (s.cell (cellIx i p)).vExpiry
          else (w.cell (cellIx i p)).voltage = some (v1 ++ v0).toNat
              ∧ (w.cell (cellIx i p)).lastV = some (s.now + dt)
              ∧ (w.cell (cellIx i p)).vExpiry = some (s.now + dt + stale))
          ∧ (if t1 ++ t0 = (0x7FFF : BitVec 16) then
            (w.cell (cellIx i p)).temp = (s.cell (cellIx i p)).temp
              ∧ (w.cell (cellIx i p)).tExpiry = (s.cell (cellIx i p)).tExpiry
          else (w.cell (cellIx i p)).temp = some (t1 ++ t0).toInt
              ∧ (w.cell (cellIx i p)).lastT = some (s.now + dt)
              ∧ (w.cell (cellIx i p)).tExpiry = some (s.now + dt + stale))
          ∧ (w.cell (cellIx i p)).level = (if (s.cfg i).hasProbe p = true then
              (match lv.toNat with
                | 1 => .high | 2 => .normal | 3 => .low | 4 => .dry | _ => (s.cell (cellIx i p)).level)
            else (s.cell (cellIx i p)).level)
          ∧ ((s.cfg i).hasProbe p = true → lv = 1 → (w.cell (cellIx i p)).deficit = 0)
          ∧ ((s.cfg i).hasProbe p = true → lv = 2 ∨ lv = 1 → (w.cell (cellIx i p)).confirmDeadline = none)))
    ∧ (∀ i c1 c0 v1 v0 st rest, s.roleOf f.src = some (.shunt i) → f.kind = 0x11 →
      f.payload = c1 :: c0 :: v1 :: v0 :: st :: rest →
      ∃ w : State, exec (.frameReceived dt b) s = .next w.settle
        ∧ (st.getLsbD 0 = true → w.strings = (s.begin dt).strings ∧ w.cells = s.cells)
        ∧ (st.getLsbD 0 = false → (w.charge i).current = (c1 ++ c0).toInt ∧ (w.charge i).tPrev = some (s.now + dt)
          ∧ (∀ r, r = (s.charge i).integrate ((s.cfg i).capacityAh * 3600) (s.cfg i).etaPct
                (if s.mgmt.loaded.limits = true then s.lim.gapMs else 2000) (s.now + dt) (c1 ++ c0).toInt →
              (w.charge i).oTotal = r.charge.oTotal ∧ (w.charge i).dDis = r.charge.dDis
              ∧ (w.charge i).wAcc = r.charge.wAcc ∧ (w.charge i).daysSinceEq = (s.charge i).daysSinceEq
              ∧ (s.mgmt.loaded.limits = false ∨ (s.control i).state ≠ .onBus →
                (w.charge i).qBal = r.charge.qBal ∧ (w.charge i).fine = r.charge.fine
                ∧ (w.charge i).assumed = r.charge.assumed ∧ (w.charge i).floor = r.charge.floor
                ∧ (w.charge i).gap = r.charge.gap)
              ∧ (w.control i).chargeIn = (if 0 < r.whole ∧ (s.control i).slot ≠ none then
                  min 4294967295 ((s.control i).chargeIn + r.whole.toNat) else (s.control i).chargeIn)
              ∧ (∀ p : Pos, p.val < (s.cfg i).cells → w.cell (cellIx i p) = if r.mg = 0 then s.cell (cellIx i p) else
                  { s.cell (cellIx i p) with deficit := min 999999 ((s.cell (cellIx i p)).deficit + r.mg) }))
          ∧ (∀ j, (cellStr j ≠ i ∨ (s.cfg i).cells ≤ (cellPos j).val) → w.cell j = s.cell j)
          ∧ (if v1 ++ v0 = (0xFFFF : BitVec 16) then w.reading i = s.reading i
            else (w.reading i).terminalV = some (v1 ++ v0).toNat ∧ (w.reading i).lastTV = some (s.now + dt)
              ∧ ((s.control i).state = .onBus → (v1 ++ v0).toNat ≤ w.busVoltage.getD 0))))
    ∧ (∀ i code st rest, s.roleOf f.src = some (.contactor i) → f.kind = 0x12 → f.payload = code :: st :: rest →
      ∃ w : State, exec (.frameReceived dt b) s = .next w.settle ∧ w.cells = s.cells
        ∧ (st.getLsbD 0 = true ∨ 3 < code.toNat → w.strings = (s.begin dt).strings)
        ∧ (st.getLsbD 0 = false → ∀ c : Contact, code.toNat = c.code →
          (w.reading i).lastPosition = some c
          ∧ ((s.control i).state = .faulted ∨ (s.control i).state = .out → (w.control i).state = (s.control i).state)
          ∧ (c = .moving ∨ (s.control i).state = .faulted ∨ (s.control i).state = .out
              ∨ (c = .bus ∧ ((s.control i).state = .onBus ∨ (s.control i).state = .called))
              ∨ (c = .eq ∧ ((s.control i).state = .equalising ∨ (s.control i).state = .returning)) →
              w.strings = ((s.begin dt).modReading i fun r => { r with lastPosition := some c }).strings
                ∧ w.slotA = (s.begin dt).slotA ∧ w.slotB = (s.begin dt).slotB ∧ w.queue = s.queue
                ∧ w.ring.orders = s.ring.orders ∧ w.ring.replies = s.ring.replies ∧ w.marks = {})
          ∧ (c = .eq → (s.control i).state = .onBus →
              (w.control i).state = .faulted ∧ (w.control i).slot = (s.control i).slot)
          ∧ (c = .openPos → (s.control i).state = .onBus ∨ (s.control i).state = .called
              ∨ (s.control i).state = .equalising ∨ (s.control i).state = .returning →
              (w.control i).state = .faulted ∧ (w.control i).slot = (s.control i).slot)
          ∧ (c = .bus → (s.control i).state = .returning ∨ (s.control i).state = .equalising →
              (w.control i).state = .onBus ∧ (w.control i).slot = none ∧ (w.control i).heldOrder = none
              ∧ (∀ h, (s.control i).heldOrder = some h → h.isRectOn = false → s.ring.orders.length ≤ 16 → s.onlyAway i →
                  ∃ o ∈ w.ring.orders, o.frame = h)
              ∧ ∀ sl, (s.control i).slot = some sl → w.slot sl = {} ∧ (w.control i).lastEqOutcome = some
                  ⟨.equalise, (s.slot sl).recipe, (s.slot sl).reason, (s.control i).startStamp,
                    if (s.control i).state = .equalising then some .contactor else (s.control i).endReason,
                    if (s.control i).state = .equalising then some s.mgmt.clock else (s.control i).endStamp,
                    (s.control i).chargeIn, (s.slot sl).cut, (s.slot sl).entriesCompleted⟩)
          ∧ (∀ sl, c = .eq → (s.control i).state = .called → s.holds sl i →
              (s.slot sl).suspendedTotal < s.lim.suspendMaxMin * 60000 →
              (∀ id, (s.slot sl).recipe ≠ 0 → recipeEntry s.images.recipe (s.slot sl).recipe 0 = .phase id →
                ((s.phase id).iSet = 0 ∨ s.site.allowance ≠ 0) →
                ((s.phase id).vSet < s.lim.gasMv ∨ s.site.fanFail = false) →
                (w.control i).state = .equalising ∧ (w.control i).confirmLeft = none
                ∧ (w.slot sl).index = 0 ∧ (w.slot sl).entriesCompleted = 0 ∧ (w.slot sl).runElapsed = 0
                ∧ (w.slot sl).dEff = effectiveDuration (s.phase id) (s.cfg i) ∧ (w.slot sl).limit = (s.phase id).iSet
                ∧ ((w.slot sl).entryState = some .run ∨ (w.slot sl).entryState = some .suspended))
              ∧ ((s.slot sl).recipe = 0 → (s.lim.floatMv < s.lim.gasMv ∨ s.site.fanFail = false) →
                (w.control i).state = .equalising ∧ (w.control i).confirmLeft = none ∧ (w.slot sl).index = 0
                ∧ (w.slot sl).directV = s.lim.floatMv ∧ (w.slot sl).directI = 0 ∧ (w.slot sl).limit = 0
                ∧ ((w.slot sl).entryState = some .direct ∨ (w.slot sl).entryState = some .suspended)))
          ∧ (c = .eq → (s.control i).state = .called → (s.control i).slot = none →
              (w.control i).state = .equalising ∧ (w.control i).confirmLeft = none)))

/-! ## Accounts, voltages and doses (R22 to R27, R54 to R56, R93, R126) -/

/-- The integration of a reading (R22 to R27). The interval is cut to gap_ms; a positive charge is reduced for efficiency; the
charge lands whole in Q_bal and F, with F inside one coulomb and of the remainder's sign; Q_bal is held within −capacity…0,
the excess counted in O_total and, for a confirmed account, as water, whose parts lie whole in mg and W_acc; discharge counts in
D_dis. -/
def Obligations.ChargeIsAccountedWhole : Prop :=
  ∀ (c : Charge) (cap eta gap now dt : Nat) (i q : Int) (r : Integrated),
    c.fine.natAbs < 10000 → -(cap : Int) ≤ c.qBal → c.qBal ≤ 0 → c.wAcc < 10000 →
    dt = min (match c.tPrev with | some t => now - t | none => 0) gap →
    q = (if 0 < i * dt then (i * dt * eta).tdiv 100 else i * dt) → r = c.integrate cap eta gap now i →
    (c.qBal + r.whole) * 10000 + r.charge.fine = c.qBal * 10000 + c.fine + q
    ∧ r.charge.fine.natAbs < 10000 ∧ (0 ≤ c.fine + q → 0 ≤ r.charge.fine) ∧ (c.fine + q ≤ 0 → r.charge.fine ≤ 0)
    ∧ r.charge.qBal = max (-(cap : Int)) (min 0 (c.qBal + r.whole))
    ∧ r.charge.oTotal = min 4294967295 (c.oTotal + (c.qBal + r.whole).toNat)
    ∧ r.charge.dDis = min 4294967295 (c.dDis + (-r.whole).toNat)
    ∧ r.charge.wAcc < 10000
    ∧ (c.assumed = false → r.mg * 10000 + r.charge.wAcc = c.wAcc + 933 * (c.qBal + r.whole).toNat)
    ∧ (c.assumed = true → r.mg = 0 ∧ r.charge.wAcc = c.wAcc)
    ∧ (r.charge.floor = true ↔ c.floor = true ∨ c.qBal + r.whole < -(cap : Int))
    ∧ (r.charge.gap = true ↔ c.gap = true ∨ ∃ t, c.tPrev = some t ∧ gap < now - t)
    ∧ r.charge.current = i ∧ r.charge.tPrev = some now ∧ r.charge.assumed = c.assumed

/-- What an accepted SHUNT reading is judged for once LIMITS is loaded (R30 to R33). Full detection of a string in ON_BUS follows
the five lines of R30: a reading out of band clears full_timer, one after a gap or the first in band starts it, one that
completes full_hold_min sets the account to 0 and clears its flags, any other leaves it; in every other state nothing is
detected. The discharge judgement follows the five lines of R31. DISCHARGE then stands exactly while a present string in ON_BUS
is judged discharging (R32): becoming true it ends the holdoff and every round in CALLED or EQUALISING, takes a NORMAL return to
FAST where the bus is low or absent, and hands an ALARM notice in ENGAGED mode; becoming false it starts the holdoff (R33);
staying, it hands nothing on. -/
def Obligations.ReadingsJudgeFullAndDischarge : Prop :=
  ∀ (s : State) (dt : Nat) (b : Byte) (f : Frame) (i : Str) (c1 c0 v1 v0 st : Byte) (rest : List Byte) (amps : Int)
      (now : Nat) (r : Integrated),
    s.lastByteOf f b → s.ring.sight = .seeing → f.dst ≠ s.ring.ownAddress → s.roleOf f.src = some (.shunt i) →
    f.kind = 0x11 → f.payload = c1 :: c0 :: v1 :: v0 :: st :: rest → st.getLsbD 0 = false →
    s.mgmt.loaded.limits = true → amps = (c1 ++ c0).toInt → now = s.now + dt →
    r = (s.charge i).integrate ((s.cfg i).capacityAh * 3600) (s.cfg i).etaPct s.lim.gapMs now amps →
    ∃ w : State, exec (.frameReceived dt b) s = .next w.settle
      ∧ ((s.control i).state ≠ .onBus → (w.charge i).fullTimer = (s.charge i).fullTimer)
      ∧ ((s.control i).state = .onBus →
        (amps < 0 ∨ (s.lim.fullCurrent : Int) < amps → (w.charge i).fullTimer = none ∧ w.accountIs i r)
        ∧ (0 ≤ amps → amps ≤ s.lim.fullCurrent →
          (s.gapBefore i now ∨ (s.charge i).fullTimer = none →
            (w.charge i).fullTimer = some now ∧ w.accountIs i r)
          ∧ (∀ t, ¬ s.gapBefore i now → (s.charge i).fullTimer = some t → now < t + s.lim.fullHoldMin * 60000 →
            (w.charge i).fullTimer = some t ∧ w.accountIs i r)
          ∧ (∀ t, ¬ s.gapBefore i now → (s.charge i).fullTimer = some t → t + s.lim.fullHoldMin * 60000 ≤ now →
            (w.charge i).fullTimer = some now ∧ (w.charge i).qBal = 0 ∧ (w.charge i).fine = 0
              ∧ (w.charge i).assumed = false ∧ (w.charge i).floor = false ∧ (w.charge i).gap = false
              ∧ (w.charge i).oTotal = r.charge.oTotal ∧ (w.charge i).wAcc = r.charge.wAcc)))
      ∧ (-(s.lim.dischargeCurrent : Int) < amps →
        (w.charge i).disStart = none ∧ (w.charge i).discharging = false)
      ∧ (amps ≤ -(s.lim.dischargeCurrent : Int) →
        ((s.charge i).disStart = none →
          (w.charge i).disStart = some now ∧ (w.charge i).discharging = (s.charge i).discharging)
        ∧ (∀ t, (s.charge i).disStart = some t →
          (s.gapBefore i now → (s.charge i).discharging = false →
            (w.charge i).disStart = some now ∧ (w.charge i).discharging = false)
          ∧ (¬ s.gapBefore i now ∨ (s.charge i).discharging = true →
            (w.charge i).disStart = some t ∧ (w.charge i).discharging
              = if t + s.lim.dischargeConfirmS * 1000 ≤ now then true else (s.charge i).discharging)))
      ∧ (w.discharge = true ↔
        ∃ j, (s.cfg j).present = true ∧ (s.control j).state = .onBus ∧ (w.charge j).discharging = true)
      ∧ (s.discharge = false → w.discharge = true → w.holdoffEnd = none
        ∧ (∀ j, (s.control j).state = .called ∨ (s.control j).state = .equalising →
          (w.control j).state = .returning ∧ (w.control j).endReason = some .discharge
            ∧ (w.control j).endStamp = some s.mgmt.clock)
        ∧ (∀ j, (s.control j).state = .returning → (s.control j).variant = some .normal →
          (w.control j).variant = some (if w.busLowOrAbsent = true then .fast else .normal))
        ∧ (s.mgmt.mode = .engaged → s.ring.replies.length < 8 → w.ring.replies
          = s.ring.replies ++ [⟨s.lim.controllerAddr, s.ring.ownAddress, 0x32, [0x03, 3]⟩])
        ∧ (s.mgmt.mode = .transparent → w.ring.replies = s.ring.replies))
      ∧ (s.discharge = true → w.discharge = false →
        if s.lim.dischargeHoldoffMin = 0 then w.holdoffEnd = s.holdoffEnd ∧ w.marks.scan = true
        else w.holdoffEnd = some (now + s.lim.dischargeHoldoffMin * 60000))
      ∧ (w.discharge = s.discharge → w.holdoffEnd = s.holdoffEnd ∧ w.ring.replies = s.ring.replies)
      ∧ (w.discharge = s.discharge ∨ w.discharge = false →
        ∀ j, (w.control j).state = (s.control j).state ∧ (w.control j).endReason = (s.control j).endReason)
      ∧ w.water = s.water ∧ w.mgmt = s.mgmt ∧ w.images = s.images

/-- Voltages (R54 to R56): the adjustment, the compensated voltage of a phase between v_min and the cap with the cap
prevailing, the float voltage of a water point and the voltage of a DIRECT round, by their formulas; a warmer string is never
given a higher one, and no order asks more than the string's order ceiling. Back-off (R93): the step; and a cell voltage that
arrives in RUN or DIRECT. At or above cell_cut_mv, with the order ON and settle_end absent or reached, it lowers L by a step
with the order and a new settle_end, or cuts: a phase goes to the next entry with the cut flag, a DIRECT round (R102) goes on
at 0. Any other voltage leaves L, settle_end and the cut flag. That the voltage acts before a change of T_s or fresh_cells
that the same reading brings, and so before the suspension it can call for (R93, R94), is the model's reading of R18, which
hands the changes of one event together without an order (log 4, DEDUCED). Stated while the suspended time is below its limit.
-/
def Obligations.VoltagesStayUnderTheCeiling : Prop :=
  (∀ (l : Limits) (t : Int), adjustment l t = ((l.compK : Int) * (l.tRef - max (-400) (min 850 t))).tdiv 100)
  ∧ (∀ (l : Limits) (p : PhaseRec) (t : Int) (cap : Nat), cap = min p.vMax l.cellCeilingMv →
      (cap < p.vMin → phaseMv l p t = cap)
      ∧ (p.vMin ≤ cap → (phaseMv l p t : Int) = max (p.vMin : Int) (min (cap : Int) (p.vSet + adjustment l t))))
  ∧ (∀ (l : Limits) (t : Int) (v : Nat), 2000 ≤ l.cellCeilingMv →
      (waterMv l t : Int) = max 2000 (min (l.cellCeilingMv : Int) (l.floatMv + adjustment l t))
      ∧ directMv l v = max 2000 (min l.cellCeilingMv v))
  ∧ (∀ mv cells : Nat, orderVolts mv cells = mv * cells / 10)
  ∧ (∀ (l : Limits) (p : PhaseRec) (t u : Int), t ≤ u →
      phaseMv l p u ≤ phaseMv l p t ∧ (2000 ≤ l.cellCeilingMv → waterMv l u ≤ waterMv l t))
  ∧ (∀ (l : Limits) (p : PhaseRec) (t : Int) (cells : Nat),
      orderVolts (phaseMv l p t) cells ≤ l.cellCeilingMv * cells / 10
      ∧ (2000 ≤ l.cellCeilingMv → orderVolts (waterMv l t) cells ≤ l.cellCeilingMv * cells / 10
          ∧ ∀ v, orderVolts (directMv l v) cells ≤ l.cellCeilingMv * cells / 10))
  ∧ (∀ l : Limits, -400 ≤ l.tRef → l.tRef ≤ 850 → adjustment l l.tRef = 0)
  ∧ (∀ floor limit : Nat,
      (backOffLimit floor limit = none ↔ limit ≤ floor)
      ∧ ∀ next, backOffLimit floor limit = some next → floor ≤ next ∧ next < limit ∧ (limit * 3 / 4 ≤ next)
          ∧ (floor ≤ limit * 3 / 4 → next = limit * 3 / 4) ∧ (limit * 3 / 4 < floor → next = floor))
  ∧ ∀ (s : State) (dt : Nat) (b : Byte) (f : Frame) (i : Str) (p : Pos) (sl : SlotId) (v1 v0 t1 t0 lv st : Byte)
      (rest : List Byte),
    s.lastByteOf f b → s.ring.sight = .seeing → f.dst ≠ s.ring.ownAddress → s.roleOf f.src = some (.cell i p) →
    f.kind = 0x10 → f.payload = v1 :: v0 :: t1 :: t0 :: lv :: st :: rest → st.getLsbD 0 = false →
    v1 ++ v0 ≠ (0xFFFF : BitVec 16) → s.holds sl i →
    ((s.slot sl).entryState = some .run ∨ (s.slot sl).entryState = some .direct) →
    (s.slot sl).suspendedTotal < s.lim.suspendMaxMin * 60000 →
    ∃ w : State, exec (.frameReceived dt b) s = .next w.settle
      ∧ ((v1 ++ v0).toNat < s.lim.cellCutMv ∨ (∃ e, (s.slot sl).settleEnd = some e ∧ s.now + dt < e)
          ∨ (s.slot sl).lastOrder = some .off ∨ (s.slot sl).lastOrder = none →
        (w.slot sl).limit = (s.slot sl).limit ∧ (w.slot sl).settleEnd = (s.slot sl).settleEnd
          ∧ (w.slot sl).cut = (s.slot sl).cut ∧ (w.slot sl).index = (s.slot sl).index)
      ∧ (∀ volts amps, s.lim.cellCutMv ≤ (v1 ++ v0).toNat → (∀ e, (s.slot sl).settleEnd = some e → e ≤ s.now + dt) →
        (s.slot sl).lastOrder = some (.on volts amps) →
        (s.lim.iFloor < (s.slot sl).limit →
          (w.slot sl).limit = max s.lim.iFloor ((s.slot sl).limit * 3 / 4)
            ∧ (w.slot sl).settleEnd = some (s.now + dt + s.lim.backoffSettleS * 1000)
            ∧ (w.slot sl).cut = (s.slot sl).cut ∧ (w.slot sl).index = (s.slot sl).index
            ∧ (((s.slot sl).recipe = 0 ∨ ∃ id, s.slotEntry sl = .phase id) →
              (w.reading i).freshCells = (s.reading i).freshCells → (w.reading i).ts = (s.reading i).ts →
              (w.slot sl).lastOrder = some (match s.entryOrder sl with
                | .on u _ => .on u (max s.lim.iFloor ((s.slot sl).limit * 3 / 4))
                | .off => .off)))
        ∧ ((s.slot sl).limit ≤ s.lim.iFloor → (s.slot sl).entryState = some .run → (s.slot sl).recipe ≠ 0 →
          (w.slot sl).cut = true ∧ (s.slot sl).index < (w.slot sl).index)
        ∧ ((s.slot sl).limit ≤ s.lim.iFloor → (s.slot sl).entryState = some .direct →
          (w.slot sl).cut = true ∧ (w.slot sl).directI = 0 ∧ (w.slot sl).limit = 0
            ∧ (w.slot sl).index = (s.slot sl).index))

/-- The dose plan (R126): for each position 1…cells a dose, min(trunc(deficit / 1000), dose_max_ml), raised to dose_min_ml for a
LOW or DRY cell; the position is planned with that dose exactly when the dose is at or above dose_min_ml, watering_fault is
clear, confirm_deadline is absent and the level is not HIGH; its open time is ceil(dose × 10,000 / flow_x10) ms, between 50 and
5,000,000 for a dose of 1 to 500 and a flow of 1 to 200. The plan stands in ascending position order (R124). -/
def Obligations.PlansHoldEveryCandidate : Prop :=
  ∀ (s : State) (i : Str), 1 ≤ s.lim.flowX10 →
    ((s.buildPlan i).map fun x => x.pos).Pairwise (· < ·)
    ∧ (∀ (p : Pos) (d dose : Nat), d = min ((s.cellAt i p).deficit / 1000) s.lim.doseMaxMl →
        dose = (if ((s.cellAt i p).level = .low ∨ (s.cellAt i p).level = .dry) ∧ d < s.lim.doseMinMl then s.lim.doseMinMl
          else d) →
        ((∃ x ∈ s.buildPlan i, x.pos = p) ↔ p.val < (s.cfg i).cells ∧ s.lim.doseMinMl ≤ dose
          ∧ (s.cellAt i p).wateringFault = false ∧ (s.cellAt i p).confirmDeadline = none ∧ (s.cellAt i p).level ≠ .high)
        ∧ ∀ x ∈ s.buildPlan i, x.pos = p → x.dose = dose
          ∧ dose * 10000 ≤ x.openMs * s.lim.flowX10 ∧ x.openMs * s.lim.flowX10 < dose * 10000 + s.lim.flowX10
          ∧ (1 ≤ dose → dose ≤ 500 → s.lim.flowX10 ≤ 200 → 50 ≤ x.openMs ∧ x.openMs ≤ 5000000))

/-! ## Admission (R63, R64, R82, R113 to R119) -/

/-- A scan passes over every entry of which some condition fails, of the site or of its string (R114, R115, R117, R119, R153), and
a scan that admits nothing changes nothing (R113). Behind entries that it passes over, an EQUALISE entry whose site and string
conditions all hold is admitted: its string is CALLED in slot A if that is free, otherwise in B, with RECT ON at its own voltage
as its standing order and its confirmation started, and RECT ON and CONTACTOR EQ are handed in this order (R64; stated while no
other string is away from the bus). A WATER entry whose conditions hold, of a string in ON_BUS or of one whose
slot stands in WATER_WAIT, begins its round: with nothing to water the outcome is NOTHING, with a first item that does not fit
above the reserve RESERVOIR, and both are reported to a slot in WATER_WAIT, whose next entry starts (R88, R118, R125, R127);
otherwise the first group is opened by one VALVE order to the string's manifold (R128, R129). -/
def Obligations.ScansAdmitByTheConditions : Prop :=
  (∀ s : State, s.marks.scan = true → (∀ e ∈ s.queue, s.barred e) →
      s.scan = { s with marks := { s.marks with scan := false, gate := false } })
  ∧ ∀ (s : State) (e : Entry) (front : List Entry), s.marks.scan = true → s.queue = front ++ [e] →
    (∀ x ∈ front, s.barred x ∧ ¬ (x.string = e.string ∧ x.kind = e.kind)) → s.mgmt.mode = .engaged →
    s.mgmt.staging ≠ .pending → s.site.gasLatch = false → s.ring.sight = .seeing →
    (∀ sl, e.kind = .equalise → s.site.fanFail = false → s.discharge = false → s.judgeDischarge = false →
      s.holdoffEnd = none →
      (s.lim.triggerMode = .off ∨ (s.lim.triggerMode = .edge ∧ s.marks.gate = true)
        ∨ (s.lim.triggerMode = .level ∧ s.trigLevel = true)) →
      s.slotFree sl = true → (sl = .B → s.slotFree .A = false) → s.boundCount < s.lim.maxOut →
      (s.control e.string).state = .onBus → (s.reading e.string).dry = false →
      (e.recipe = 0 ∨ ((s.charge e.string).qBal = 0 ∧ (s.charge e.string).assumed = false)) →
      (∃ ts, (s.reading e.string).ts = some ts ∧ s.lim.coldLimit ≤ ts ∧ ts < s.lim.hotLimit) →
      (s.cfg e.string).cells ≤ (s.reading e.string).freshCells + s.lim.staleAllow →
      s.lim.minOnBus ≤ s.othersOnBus e.string → (s.needsSourceAtStart e.recipe = true → 1 ≤ s.site.allowance) →
      s.scan.queue = front ∧ (s.scan.control e.string).state = .called ∧ (s.scan.control e.string).slot = some sl
        ∧ (s.scan.control e.string).startStamp = some s.mgmt.clock ∧ (s.scan.control e.string).chargeIn = 0
        ∧ (s.scan.control e.string).endReason = none
        ∧ (s.scan.control e.string).confirmLeft = some (s.lim.contactorTimeoutS * 1000)
        ∧ (∀ mv, mv = min ((s.terminalV e.string).getD (s.lim.floatMv * (s.cfg e.string).cells / 10))
              (s.lim.cellCeilingMv * (s.cfg e.string).cells / 10) →
            (s.scan.control e.string).rectOrder = some (.on mv s.lim.iFloor)
            ∧ (s.onlyAway e.string → s.scan.ring.orders = ((s.handOrder
                ⟨s.rectAddr sl, s.ring.ownAddress, 0x20, 1 :: (bytesBE 2 mv ++ bytesBE 2 s.lim.iFloor)⟩).handOrder
                ⟨(s.cfg e.string).contactorAddr, s.ring.ownAddress, 0x21, [2]⟩).ring.orders))
        ∧ (s.scan.slot sl).string = some e.string ∧ (s.scan.slot sl).recipe = e.recipe
        ∧ (s.scan.slot sl).reason = some e.reason ∧ (s.scan.slot sl).priority = some e.priority
        ∧ (s.scan.slot sl).triggerStarted = decide (s.lim.triggerMode ≠ .off) ∧ (s.scan.slot sl).entryState = none
        ∧ (s.scan.slot sl).tc = (s.reading e.string).ts
        ∧ s.scan.cells = s.cells ∧ s.scan.water = s.water ∧ s.scan.mgmt = s.mgmt ∧ s.scan.images = s.images)
    ∧ (e.kind = .water → s.water.state = .idle → s.site.reslow.level = false →
      s.lim.reservoirReserveMl + s.lim.doseMinMl ≤ s.water.reservoir → (s.cfg e.string).manifoldAddr ≠ 0xFF →
      (s.atWaterPoint e.string ∨ (e.origin ≠ .recipe ∧ (s.control e.string).state = .onBus ∧ (s.charge e.string).qBal = 0)) →
      (∀ o : OutcomeRecord,
        ((s.buildPlan e.string = [] ∧ o.endReason = some .nothing)
          ∨ (∃ x rest, s.buildPlan e.string = x :: rest ∧ o.endReason = some .reservoir
            ∧ (s.water.reservoir - s.lim.reservoirReserveMl < x.dose ∨ s.lim.maxOpen = 0))) →
        o = ⟨.water, 0, some e.reason, some s.mgmt.clock, o.endReason, some s.mgmt.clock, 0, false, 0⟩ →
        ((s.control e.string).slot = none →
          s.scan.queue = front ∧ s.scan.water.state = .idle ∧ s.scan.water.pump = (s.water.pump && o.endReason == some .nothing)
          ∧ s.scan.water.reservoir = s.water.reservoir
          ∧ s.scan.strings = (s.modControl e.string fun c => { c with lastWaterOutcome := some o }).strings
          ∧ s.scan.cells = s.cells ∧ s.scan.slotA = s.slotA ∧ s.scan.slotB = s.slotB ∧ s.scan.mgmt = s.mgmt
          ∧ s.scan.images = s.images)
        ∧ (∀ sl, s.holds sl e.string → (s.slot sl).entryState = some .waterWait →
          ∃ w : State, (w.slot sl) = { s.slot sl with waterCalled := false } ∧ w.queue = front
            ∧ w.strings = (s.modControl e.string fun c => { c with lastWaterOutcome := some o }).strings
            ∧ w.cells = s.cells ∧ w.mgmt = s.mgmt ∧ w.images = s.images ∧ w.water.state = .idle
            ∧ w.water.reservoir = s.water.reservoir
            ∧ ((w.nextEntry sl).queue.length ≤ front.length → ∃ m, s.scan = { w.nextEntry sl with marks := m })))
      ∧ (∀ x rest, s.buildPlan e.string = x :: rest → x.dose ≤ s.water.reservoir - s.lim.reservoirReserveMl →
          1 ≤ s.lim.maxOpen →
          s.scan.queue = front ∧ s.scan.water.state = .dosing ∧ s.scan.water.pump = true
          ∧ s.scan.water.string = some e.string ∧ s.scan.water.reason = some e.reason
          ∧ s.scan.water.startStamp = some s.mgmt.clock ∧ x.pos ∈ s.scan.water.openSet
          ∧ s.scan.water.openSet.length ≤ s.lim.maxOpen ∧ s.scan.water.roundMl = 0 ∧ s.scan.strings = s.strings
          ∧ s.scan.water.unsent = s.altersOpening e.string s.scan.water.openSet
          ∧ s.scan.ring.orders = (s.handOrder ⟨(s.cfg e.string).manifoldAddr, s.ring.ownAddress, 0x22,
              valvePayload s.scan.water.unsent⟩).ring.orders
          ∧ s.scan.slotA = s.slotA ∧ s.scan.slotB = s.slotB
          ∧ s.scan.cells = s.cells ∧ s.scan.mgmt = s.mgmt ∧ s.scan.images = s.images))

/-! ## Bindings -/

/-- Strings and slots agree in every state a step leads to from a state where they do (R61, R63, R70, R83, R100, R106), and
water_called is set only while its slot waits at the water point (R82, R87, R88, R100). -/
def Obligations.EveryStepKeepsBindings : Prop :=
  ∀ s t : State, s.BoundOk → step s = .next t → t.BoundOk
end

