-- ==== Sys2Proof/Laws/State.lean ====
section
/-! SUPPORT. What each named update of the state leaves and changes, field by field. -/

namespace Sys2Proof.Machine

/-! ## Blocks -/

@[simp] theorem State.modWater_pending (s : State) (f : Water → Water) : (s.modWater f).pending = s.pending := rfl
@[simp] theorem State.modWater_now (s : State) (f : Water → Water) : (s.modWater f).now = s.now := rfl
@[simp] theorem State.modWater_cells (s : State) (f : Water → Water) : (s.modWater f).cells = s.cells := rfl
@[simp] theorem State.modWater_strings (s : State) (f : Water → Water) : (s.modWater f).strings = s.strings := rfl
@[simp] theorem State.modWater_busVoltage (s : State) (f : Water → Water) : (s.modWater f).busVoltage = s.busVoltage := rfl
@[simp] theorem State.modWater_discharge (s : State) (f : Water → Water) : (s.modWater f).discharge = s.discharge := rfl
@[simp] theorem State.modWater_holdoffEnd (s : State) (f : Water → Water) : (s.modWater f).holdoffEnd = s.holdoffEnd := rfl
@[simp] theorem State.modWater_slotA (s : State) (f : Water → Water) : (s.modWater f).slotA = s.slotA := rfl
@[simp] theorem State.modWater_slotB (s : State) (f : Water → Water) : (s.modWater f).slotB = s.slotB := rfl
@[simp] theorem State.modWater_queue (s : State) (f : Water → Water) : (s.modWater f).queue = s.queue := rfl
@[simp] theorem State.modWater_trigLevel (s : State) (f : Water → Water) : (s.modWater f).trigLevel = s.trigLevel := rfl
@[simp] theorem State.modWater_water (s : State) (f : Water → Water) : (s.modWater f).water = f s.water := rfl
@[simp] theorem State.modWater_site (s : State) (f : Water → Water) : (s.modWater f).site = s.site := rfl
@[simp] theorem State.modWater_ring (s : State) (f : Water → Water) : (s.modWater f).ring = s.ring := rfl
@[simp] theorem State.modWater_mgmt (s : State) (f : Water → Water) : (s.modWater f).mgmt = s.mgmt := rfl
@[simp] theorem State.modWater_images (s : State) (f : Water → Water) : (s.modWater f).images = s.images := rfl
@[simp] theorem State.modWater_marks (s : State) (f : Water → Water) : (s.modWater f).marks = s.marks := rfl

@[simp] theorem State.modSite_pending (s : State) (f : Site → Site) : (s.modSite f).pending = s.pending := rfl
@[simp] theorem State.modSite_now (s : State) (f : Site → Site) : (s.modSite f).now = s.now := rfl
@[simp] theorem State.modSite_cells (s : State) (f : Site → Site) : (s.modSite f).cells = s.cells := rfl
@[simp] theorem State.modSite_strings (s : State) (f : Site → Site) : (s.modSite f).strings = s.strings := rfl
@[simp] theorem State.modSite_busVoltage (s : State) (f : Site → Site) : (s.modSite f).busVoltage = s.busVoltage := rfl
@[simp] theorem State.modSite_discharge (s : State) (f : Site → Site) : (s.modSite f).discharge = s.discharge := rfl
@[simp] theorem State.modSite_holdoffEnd (s : State) (f : Site → Site) : (s.modSite f).holdoffEnd = s.holdoffEnd := rfl
@[simp] theorem State.modSite_slotA (s : State) (f : Site → Site) : (s.modSite f).slotA = s.slotA := rfl
@[simp] theorem State.modSite_slotB (s : State) (f : Site → Site) : (s.modSite f).slotB = s.slotB := rfl
@[simp] theorem State.modSite_queue (s : State) (f : Site → Site) : (s.modSite f).queue = s.queue := rfl
@[simp] theorem State.modSite_trigLevel (s : State) (f : Site → Site) : (s.modSite f).trigLevel = s.trigLevel := rfl
@[simp] theorem State.modSite_water (s : State) (f : Site → Site) : (s.modSite f).water = s.water := rfl
@[simp] theorem State.modSite_site (s : State) (f : Site → Site) : (s.modSite f).site = f s.site := rfl
@[simp] theorem State.modSite_ring (s : State) (f : Site → Site) : (s.modSite f).ring = s.ring := rfl
@[simp] theorem State.modSite_mgmt (s : State) (f : Site → Site) : (s.modSite f).mgmt = s.mgmt := rfl
@[simp] theorem State.modSite_images (s : State) (f : Site → Site) : (s.modSite f).images = s.images := rfl
@[simp] theorem State.modSite_marks (s : State) (f : Site → Site) : (s.modSite f).marks = s.marks := rfl

@[simp] theorem State.modRing_pending (s : State) (f : Ring → Ring) : (s.modRing f).pending = s.pending := rfl
@[simp] theorem State.modRing_now (s : State) (f : Ring → Ring) : (s.modRing f).now = s.now := rfl
@[simp] theorem State.modRing_cells (s : State) (f : Ring → Ring) : (s.modRing f).cells = s.cells := rfl
@[simp] theorem State.modRing_strings (s : State) (f : Ring → Ring) : (s.modRing f).strings = s.strings := rfl
@[simp] theorem State.modRing_busVoltage (s : State) (f : Ring → Ring) : (s.modRing f).busVoltage = s.busVoltage := rfl
@[simp] theorem State.modRing_discharge (s : State) (f : Ring → Ring) : (s.modRing f).discharge = s.discharge := rfl
@[simp] theorem State.modRing_holdoffEnd (s : State) (f : Ring → Ring) : (s.modRing f).holdoffEnd = s.holdoffEnd := rfl
@[simp] theorem State.modRing_slotA (s : State) (f : Ring → Ring) : (s.modRing f).slotA = s.slotA := rfl
@[simp] theorem State.modRing_slotB (s : State) (f : Ring → Ring) : (s.modRing f).slotB = s.slotB := rfl
@[simp] theorem State.modRing_queue (s : State) (f : Ring → Ring) : (s.modRing f).queue = s.queue := rfl
@[simp] theorem State.modRing_trigLevel (s : State) (f : Ring → Ring) : (s.modRing f).trigLevel = s.trigLevel := rfl
@[simp] theorem State.modRing_water (s : State) (f : Ring → Ring) : (s.modRing f).water = s.water := rfl
@[simp] theorem State.modRing_site (s : State) (f : Ring → Ring) : (s.modRing f).site = s.site := rfl
@[simp] theorem State.modRing_ring (s : State) (f : Ring → Ring) : (s.modRing f).ring = f s.ring := rfl
@[simp] theorem State.modRing_mgmt (s : State) (f : Ring → Ring) : (s.modRing f).mgmt = s.mgmt := rfl
@[simp] theorem State.modRing_images (s : State) (f : Ring → Ring) : (s.modRing f).images = s.images := rfl
@[simp] theorem State.modRing_marks (s : State) (f : Ring → Ring) : (s.modRing f).marks = s.marks := rfl

@[simp] theorem State.modMgmt_pending (s : State) (f : Mgmt → Mgmt) : (s.modMgmt f).pending = s.pending := rfl
@[simp] theorem State.modMgmt_now (s : State) (f : Mgmt → Mgmt) : (s.modMgmt f).now = s.now := rfl
@[simp] theorem State.modMgmt_cells (s : State) (f : Mgmt → Mgmt) : (s.modMgmt f).cells = s.cells := rfl
@[simp] theorem State.modMgmt_strings (s : State) (f : Mgmt → Mgmt) : (s.modMgmt f).strings = s.strings := rfl
@[simp] theorem State.modMgmt_busVoltage (s : State) (f : Mgmt → Mgmt) : (s.modMgmt f).busVoltage = s.busVoltage := rfl
@[simp] theorem State.modMgmt_discharge (s : State) (f : Mgmt → Mgmt) : (s.modMgmt f).discharge = s.discharge := rfl
@[simp] theorem State.modMgmt_holdoffEnd (s : State) (f : Mgmt → Mgmt) : (s.modMgmt f).holdoffEnd = s.holdoffEnd := rfl
@[simp] theorem State.modMgmt_slotA (s : State) (f : Mgmt → Mgmt) : (s.modMgmt f).slotA = s.slotA := rfl
@[simp] theorem State.modMgmt_slotB (s : State) (f : Mgmt → Mgmt) : (s.modMgmt f).slotB = s.slotB := rfl
@[simp] theorem State.modMgmt_queue (s : State) (f : Mgmt → Mgmt) : (s.modMgmt f).queue = s.queue := rfl
@[simp] theorem State.modMgmt_trigLevel (s : State) (f : Mgmt → Mgmt) : (s.modMgmt f).trigLevel = s.trigLevel := rfl
@[simp] theorem State.modMgmt_water (s : State) (f : Mgmt → Mgmt) : (s.modMgmt f).water = s.water := rfl
@[simp] theorem State.modMgmt_site (s : State) (f : Mgmt → Mgmt) : (s.modMgmt f).site = s.site := rfl
@[simp] theorem State.modMgmt_ring (s : State) (f : Mgmt → Mgmt) : (s.modMgmt f).ring = s.ring := rfl
@[simp] theorem State.modMgmt_mgmt (s : State) (f : Mgmt → Mgmt) : (s.modMgmt f).mgmt = f s.mgmt := rfl
@[simp] theorem State.modMgmt_images (s : State) (f : Mgmt → Mgmt) : (s.modMgmt f).images = s.images := rfl
@[simp] theorem State.modMgmt_marks (s : State) (f : Mgmt → Mgmt) : (s.modMgmt f).marks = s.marks := rfl

@[simp] theorem State.markScan_pending (s : State) : s.markScan.pending = s.pending := rfl
@[simp] theorem State.markScan_now (s : State) : s.markScan.now = s.now := rfl
@[simp] theorem State.markScan_cells (s : State) : s.markScan.cells = s.cells := rfl
@[simp] theorem State.markScan_strings (s : State) : s.markScan.strings = s.strings := rfl
@[simp] theorem State.markScan_busVoltage (s : State) : s.markScan.busVoltage = s.busVoltage := rfl
@[simp] theorem State.markScan_discharge (s : State) : s.markScan.discharge = s.discharge := rfl
@[simp] theorem State.markScan_holdoffEnd (s : State) : s.markScan.holdoffEnd = s.holdoffEnd := rfl
@[simp] theorem State.markScan_slotA (s : State) : s.markScan.slotA = s.slotA := rfl
@[simp] theorem State.markScan_slotB (s : State) : s.markScan.slotB = s.slotB := rfl
@[simp] theorem State.markScan_queue (s : State) : s.markScan.queue = s.queue := rfl
@[simp] theorem State.markScan_trigLevel (s : State) : s.markScan.trigLevel = s.trigLevel := rfl
@[simp] theorem State.markScan_water (s : State) : s.markScan.water = s.water := rfl
@[simp] theorem State.markScan_site (s : State) : s.markScan.site = s.site := rfl
@[simp] theorem State.markScan_ring (s : State) : s.markScan.ring = s.ring := rfl
@[simp] theorem State.markScan_mgmt (s : State) : s.markScan.mgmt = s.mgmt := rfl
@[simp] theorem State.markScan_images (s : State) : s.markScan.images = s.images := rfl
@[simp] theorem State.markScan_marks (s : State) : s.markScan.marks = { s.marks with scan := true } := rfl

@[simp] theorem State.markCommit_pending (s : State) : s.markCommit.pending = s.pending := rfl
@[simp] theorem State.markCommit_now (s : State) : s.markCommit.now = s.now := rfl
@[simp] theorem State.markCommit_cells (s : State) : s.markCommit.cells = s.cells := rfl
@[simp] theorem State.markCommit_strings (s : State) : s.markCommit.strings = s.strings := rfl
@[simp] theorem State.markCommit_busVoltage (s : State) : s.markCommit.busVoltage = s.busVoltage := rfl
@[simp] theorem State.markCommit_discharge (s : State) : s.markCommit.discharge = s.discharge := rfl
@[simp] theorem State.markCommit_holdoffEnd (s : State) : s.markCommit.holdoffEnd = s.holdoffEnd := rfl
@[simp] theorem State.markCommit_slotA (s : State) : s.markCommit.slotA = s.slotA := rfl
@[simp] theorem State.markCommit_slotB (s : State) : s.markCommit.slotB = s.slotB := rfl
@[simp] theorem State.markCommit_queue (s : State) : s.markCommit.queue = s.queue := rfl
@[simp] theorem State.markCommit_trigLevel (s : State) : s.markCommit.trigLevel = s.trigLevel := rfl
@[simp] theorem State.markCommit_water (s : State) : s.markCommit.water = s.water := rfl
@[simp] theorem State.markCommit_site (s : State) : s.markCommit.site = s.site := rfl
@[simp] theorem State.markCommit_ring (s : State) : s.markCommit.ring = s.ring := rfl
@[simp] theorem State.markCommit_mgmt (s : State) : s.markCommit.mgmt = s.mgmt := rfl
@[simp] theorem State.markCommit_images (s : State) : s.markCommit.images = s.images := rfl
@[simp] theorem State.markCommit_marks (s : State) : s.markCommit.marks = { s.marks with commit := true } := rfl

/-! ## Records -/

@[simp] theorem State.modCell_pending (s : State) (i : CellIx) (f : Cell → Cell) : (s.modCell i f).pending = s.pending := rfl
@[simp] theorem State.modCell_now (s : State) (i : CellIx) (f : Cell → Cell) : (s.modCell i f).now = s.now := rfl
@[simp] theorem State.modCell_cells (s : State) (i : CellIx) (f : Cell → Cell) : (s.modCell i f).cells = s.cells.set i.val (f (s.cell i)) := rfl
@[simp] theorem State.modCell_strings (s : State) (i : CellIx) (f : Cell → Cell) : (s.modCell i f).strings = s.strings := rfl
@[simp] theorem State.modCell_busVoltage (s : State) (i : CellIx) (f : Cell → Cell) : (s.modCell i f).busVoltage = s.busVoltage := rfl
@[simp] theorem State.modCell_discharge (s : State) (i : CellIx) (f : Cell → Cell) : (s.modCell i f).discharge = s.discharge := rfl
@[simp] theorem State.modCell_holdoffEnd (s : State) (i : CellIx) (f : Cell → Cell) : (s.modCell i f).holdoffEnd = s.holdoffEnd := rfl
@[simp] theorem State.modCell_slotA (s : State) (i : CellIx) (f : Cell → Cell) : (s.modCell i f).slotA = s.slotA := rfl
@[simp] theorem State.modCell_slotB (s : State) (i : CellIx) (f : Cell → Cell) : (s.modCell i f).slotB = s.slotB := rfl
@[simp] theorem State.modCell_queue (s : State) (i : CellIx) (f : Cell → Cell) : (s.modCell i f).queue = s.queue := rfl
@[simp] theorem State.modCell_trigLevel (s : State) (i : CellIx) (f : Cell → Cell) : (s.modCell i f).trigLevel = s.trigLevel := rfl
@[simp] theorem State.modCell_water (s : State) (i : CellIx) (f : Cell → Cell) : (s.modCell i f).water = s.water := rfl
@[simp] theorem State.modCell_site (s : State) (i : CellIx) (f : Cell → Cell) : (s.modCell i f).site = s.site := rfl
@[simp] theorem State.modCell_ring (s : State) (i : CellIx) (f : Cell → Cell) : (s.modCell i f).ring = s.ring := rfl
@[simp] theorem State.modCell_mgmt (s : State) (i : CellIx) (f : Cell → Cell) : (s.modCell i f).mgmt = s.mgmt := rfl
@[simp] theorem State.modCell_images (s : State) (i : CellIx) (f : Cell → Cell) : (s.modCell i f).images = s.images := rfl
@[simp] theorem State.modCell_marks (s : State) (i : CellIx) (f : Cell → Cell) : (s.modCell i f).marks = s.marks := rfl

@[simp] theorem State.modStr_pending (s : State) (i : Str) (f : StringRec → StringRec) : (s.modStr i f).pending = s.pending := rfl
@[simp] theorem State.modStr_now (s : State) (i : Str) (f : StringRec → StringRec) : (s.modStr i f).now = s.now := rfl
@[simp] theorem State.modStr_cells (s : State) (i : Str) (f : StringRec → StringRec) : (s.modStr i f).cells = s.cells := rfl
@[simp] theorem State.modStr_busVoltage (s : State) (i : Str) (f : StringRec → StringRec) : (s.modStr i f).busVoltage = s.busVoltage := rfl
@[simp] theorem State.modStr_discharge (s : State) (i : Str) (f : StringRec → StringRec) : (s.modStr i f).discharge = s.discharge := rfl
@[simp] theorem State.modStr_holdoffEnd (s : State) (i : Str) (f : StringRec → StringRec) : (s.modStr i f).holdoffEnd = s.holdoffEnd := rfl
@[simp] theorem State.modStr_slotA (s : State) (i : Str) (f : StringRec → StringRec) : (s.modStr i f).slotA = s.slotA := rfl
@[simp] theorem State.modStr_slotB (s : State) (i : Str) (f : StringRec → StringRec) : (s.modStr i f).slotB = s.slotB := rfl
@[simp] theorem State.modStr_queue (s : State) (i : Str) (f : StringRec → StringRec) : (s.modStr i f).queue = s.queue := rfl
@[simp] theorem State.modStr_trigLevel (s : State) (i : Str) (f : StringRec → StringRec) : (s.modStr i f).trigLevel = s.trigLevel := rfl
@[simp] theorem State.modStr_water (s : State) (i : Str) (f : StringRec → StringRec) : (s.modStr i f).water = s.water := rfl
@[simp] theorem State.modStr_site (s : State) (i : Str) (f : StringRec → StringRec) : (s.modStr i f).site = s.site := rfl
@[simp] theorem State.modStr_ring (s : State) (i : Str) (f : StringRec → StringRec) : (s.modStr i f).ring = s.ring := rfl
@[simp] theorem State.modStr_mgmt (s : State) (i : Str) (f : StringRec → StringRec) : (s.modStr i f).mgmt = s.mgmt := rfl
@[simp] theorem State.modStr_images (s : State) (i : Str) (f : StringRec → StringRec) : (s.modStr i f).images = s.images := rfl
@[simp] theorem State.modStr_marks (s : State) (i : Str) (f : StringRec → StringRec) : (s.modStr i f).marks = s.marks := rfl

@[simp] theorem State.modReading_pending (s : State) (i : Str) (f : Reading → Reading) : (s.modReading i f).pending = s.pending := rfl
@[simp] theorem State.modReading_now (s : State) (i : Str) (f : Reading → Reading) : (s.modReading i f).now = s.now := rfl
@[simp] theorem State.modReading_cells (s : State) (i : Str) (f : Reading → Reading) : (s.modReading i f).cells = s.cells := rfl
@[simp] theorem State.modReading_busVoltage (s : State) (i : Str) (f : Reading → Reading) : (s.modReading i f).busVoltage = s.busVoltage := rfl
@[simp] theorem State.modReading_discharge (s : State) (i : Str) (f : Reading → Reading) : (s.modReading i f).discharge = s.discharge := rfl
@[simp] theorem State.modReading_holdoffEnd (s : State) (i : Str) (f : Reading → Reading) : (s.modReading i f).holdoffEnd = s.holdoffEnd := rfl
@[simp] theorem State.modReading_slotA (s : State) (i : Str) (f : Reading → Reading) : (s.modReading i f).slotA = s.slotA := rfl
@[simp] theorem State.modReading_slotB (s : State) (i : Str) (f : Reading → Reading) : (s.modReading i f).slotB = s.slotB := rfl
@[simp] theorem State.modReading_queue (s : State) (i : Str) (f : Reading → Reading) : (s.modReading i f).queue = s.queue := rfl
@[simp] theorem State.modReading_trigLevel (s : State) (i : Str) (f : Reading → Reading) : (s.modReading i f).trigLevel = s.trigLevel := rfl
@[simp] theorem State.modReading_water (s : State) (i : Str) (f : Reading → Reading) : (s.modReading i f).water = s.water := rfl
@[simp] theorem State.modReading_site (s : State) (i : Str) (f : Reading → Reading) : (s.modReading i f).site = s.site := rfl
@[simp] theorem State.modReading_ring (s : State) (i : Str) (f : Reading → Reading) : (s.modReading i f).ring = s.ring := rfl
@[simp] theorem State.modReading_mgmt (s : State) (i : Str) (f : Reading → Reading) : (s.modReading i f).mgmt = s.mgmt := rfl
@[simp] theorem State.modReading_images (s : State) (i : Str) (f : Reading → Reading) : (s.modReading i f).images = s.images := rfl
@[simp] theorem State.modReading_marks (s : State) (i : Str) (f : Reading → Reading) : (s.modReading i f).marks = s.marks := rfl

@[simp] theorem State.modCharge_pending (s : State) (i : Str) (f : Charge → Charge) : (s.modCharge i f).pending = s.pending := rfl
@[simp] theorem State.modCharge_now (s : State) (i : Str) (f : Charge → Charge) : (s.modCharge i f).now = s.now := rfl
@[simp] theorem State.modCharge_cells (s : State) (i : Str) (f : Charge → Charge) : (s.modCharge i f).cells = s.cells := rfl
@[simp] theorem State.modCharge_busVoltage (s : State) (i : Str) (f : Charge → Charge) : (s.modCharge i f).busVoltage = s.busVoltage := rfl
@[simp] theorem State.modCharge_discharge (s : State) (i : Str) (f : Charge → Charge) : (s.modCharge i f).discharge = s.discharge := rfl
@[simp] theorem State.modCharge_holdoffEnd (s : State) (i : Str) (f : Charge → Charge) : (s.modCharge i f).holdoffEnd = s.holdoffEnd := rfl
@[simp] theorem State.modCharge_slotA (s : State) (i : Str) (f : Charge → Charge) : (s.modCharge i f).slotA = s.slotA := rfl
@[simp] theorem State.modCharge_slotB (s : State) (i : Str) (f : Charge → Charge) : (s.modCharge i f).slotB = s.slotB := rfl
@[simp] theorem State.modCharge_queue (s : State) (i : Str) (f : Charge → Charge) : (s.modCharge i f).queue = s.queue := rfl
@[simp] theorem State.modCharge_trigLevel (s : State) (i : Str) (f : Charge → Charge) : (s.modCharge i f).trigLevel = s.trigLevel := rfl
@[simp] theorem State.modCharge_water (s : State) (i : Str) (f : Charge → Charge) : (s.modCharge i f).water = s.water := rfl
@[simp] theorem State.modCharge_site (s : State) (i : Str) (f : Charge → Charge) : (s.modCharge i f).site = s.site := rfl
@[simp] theorem State.modCharge_ring (s : State) (i : Str) (f : Charge → Charge) : (s.modCharge i f).ring = s.ring := rfl
@[simp] theorem State.modCharge_mgmt (s : State) (i : Str) (f : Charge → Charge) : (s.modCharge i f).mgmt = s.mgmt := rfl
@[simp] theorem State.modCharge_images (s : State) (i : Str) (f : Charge → Charge) : (s.modCharge i f).images = s.images := rfl
@[simp] theorem State.modCharge_marks (s : State) (i : Str) (f : Charge → Charge) : (s.modCharge i f).marks = s.marks := rfl

@[simp] theorem State.modControl_pending (s : State) (i : Str) (f : Control → Control) : (s.modControl i f).pending = s.pending := rfl
@[simp] theorem State.modControl_now (s : State) (i : Str) (f : Control → Control) : (s.modControl i f).now = s.now := rfl
@[simp] theorem State.modControl_cells (s : State) (i : Str) (f : Control → Control) : (s.modControl i f).cells = s.cells := rfl
@[simp] theorem State.modControl_busVoltage (s : State) (i : Str) (f : Control → Control) : (s.modControl i f).busVoltage = s.busVoltage := rfl
@[simp] theorem State.modControl_discharge (s : State) (i : Str) (f : Control → Control) : (s.modControl i f).discharge = s.discharge := rfl
@[simp] theorem State.modControl_holdoffEnd (s : State) (i : Str) (f : Control → Control) : (s.modControl i f).holdoffEnd = s.holdoffEnd := rfl
@[simp] theorem State.modControl_slotA (s : State) (i : Str) (f : Control → Control) : (s.modControl i f).slotA = s.slotA := rfl
@[simp] theorem State.modControl_slotB (s : State) (i : Str) (f : Control → Control) : (s.modControl i f).slotB = s.slotB := rfl
@[simp] theorem State.modControl_queue (s : State) (i : Str) (f : Control → Control) : (s.modControl i f).queue = s.queue := rfl
@[simp] theorem State.modControl_trigLevel (s : State) (i : Str) (f : Control → Control) : (s.modControl i f).trigLevel = s.trigLevel := rfl
@[simp] theorem State.modControl_water (s : State) (i : Str) (f : Control → Control) : (s.modControl i f).water = s.water := rfl
@[simp] theorem State.modControl_site (s : State) (i : Str) (f : Control → Control) : (s.modControl i f).site = s.site := rfl
@[simp] theorem State.modControl_ring (s : State) (i : Str) (f : Control → Control) : (s.modControl i f).ring = s.ring := rfl
@[simp] theorem State.modControl_mgmt (s : State) (i : Str) (f : Control → Control) : (s.modControl i f).mgmt = s.mgmt := rfl
@[simp] theorem State.modControl_images (s : State) (i : Str) (f : Control → Control) : (s.modControl i f).images = s.images := rfl
@[simp] theorem State.modControl_marks (s : State) (i : Str) (f : Control → Control) : (s.modControl i f).marks = s.marks := rfl

theorem State.modSlot_slot (s : State) (sl : SlotId) (f : SlotRec → SlotRec) :
    (s.modSlot sl f).slot sl = f (s.slot sl) := by cases sl <;> rfl

theorem State.modSlot_slot_ne (s : State) {sl m : SlotId} (h : m ≠ sl) (f : SlotRec → SlotRec) :
    (s.modSlot sl f).slot m = s.slot m := by cases sl <;> cases m <;> first | rfl | exact absurd rfl h

@[simp] theorem State.modSlot_pending (s : State) (sl : SlotId) (f : SlotRec → SlotRec) : (s.modSlot sl f).pending = s.pending := by cases sl <;> rfl
@[simp] theorem State.modSlot_now (s : State) (sl : SlotId) (f : SlotRec → SlotRec) : (s.modSlot sl f).now = s.now := by cases sl <;> rfl
@[simp] theorem State.modSlot_cells (s : State) (sl : SlotId) (f : SlotRec → SlotRec) : (s.modSlot sl f).cells = s.cells := by cases sl <;> rfl
@[simp] theorem State.modSlot_strings (s : State) (sl : SlotId) (f : SlotRec → SlotRec) : (s.modSlot sl f).strings = s.strings := by cases sl <;> rfl
@[simp] theorem State.modSlot_busVoltage (s : State) (sl : SlotId) (f : SlotRec → SlotRec) : (s.modSlot sl f).busVoltage = s.busVoltage := by cases sl <;> rfl
@[simp] theorem State.modSlot_discharge (s : State) (sl : SlotId) (f : SlotRec → SlotRec) : (s.modSlot sl f).discharge = s.discharge := by cases sl <;> rfl
@[simp] theorem State.modSlot_holdoffEnd (s : State) (sl : SlotId) (f : SlotRec → SlotRec) : (s.modSlot sl f).holdoffEnd = s.holdoffEnd := by cases sl <;> rfl
@[simp] theorem State.modSlot_queue (s : State) (sl : SlotId) (f : SlotRec → SlotRec) : (s.modSlot sl f).queue = s.queue := by cases sl <;> rfl
@[simp] theorem State.modSlot_trigLevel (s : State) (sl : SlotId) (f : SlotRec → SlotRec) : (s.modSlot sl f).trigLevel = s.trigLevel := by cases sl <;> rfl
@[simp] theorem State.modSlot_water (s : State) (sl : SlotId) (f : SlotRec → SlotRec) : (s.modSlot sl f).water = s.water := by cases sl <;> rfl
@[simp] theorem State.modSlot_site (s : State) (sl : SlotId) (f : SlotRec → SlotRec) : (s.modSlot sl f).site = s.site := by cases sl <;> rfl
@[simp] theorem State.modSlot_ring (s : State) (sl : SlotId) (f : SlotRec → SlotRec) : (s.modSlot sl f).ring = s.ring := by cases sl <;> rfl
@[simp] theorem State.modSlot_mgmt (s : State) (sl : SlotId) (f : SlotRec → SlotRec) : (s.modSlot sl f).mgmt = s.mgmt := by cases sl <;> rfl
@[simp] theorem State.modSlot_images (s : State) (sl : SlotId) (f : SlotRec → SlotRec) : (s.modSlot sl f).images = s.images := by cases sl <;> rfl
@[simp] theorem State.modSlot_marks (s : State) (sl : SlotId) (f : SlotRec → SlotRec) : (s.modSlot sl f).marks = s.marks := by cases sl <;> rfl

/-! ## Reading a record after an update -/

@[simp] theorem State.modCell_cell (s : State) (i : CellIx) (f : Cell → Cell) :
    (s.modCell i f).cell i = f (s.cell i) := by simp [State.cell, State.modCell]

theorem State.modCell_cell_ne (s : State) {i j : CellIx} (h : i ≠ j) (f : Cell → Cell) :
    (s.modCell i f).cell j = s.cell j := by
  have : i.val ≠ j.val := fun e => h (Fin.ext e)
  simp [State.cell, State.modCell, Vector.getElem_set_ne, this]

@[simp] theorem State.modStr_str (s : State) (i : Str) (f : StringRec → StringRec) :
    (s.modStr i f).str i = f (s.str i) := by simp [State.str, State.modStr]

theorem State.modStr_str_ne (s : State) {i j : Str} (h : i ≠ j) (f : StringRec → StringRec) :
    (s.modStr i f).str j = s.str j := by
  have : i.val ≠ j.val := fun e => h (Fin.ext e)
  simp [State.str, State.modStr, Vector.getElem_set_ne, this]

/-- One string record after an update of another or of itself. -/
theorem State.modStr_str_ite (s : State) (i j : Str) (f : StringRec → StringRec) :
    (s.modStr i f).str j = if i = j then f (s.str j) else s.str j := by
  split
  · next h => subst h; simp
  · next h => exact s.modStr_str_ne h f

@[simp] theorem State.modControl_control (s : State) (i : Str) (f : Control → Control) :
    (s.modControl i f).control i = f (s.control i) := by simp [State.control, State.modControl]

@[simp] theorem State.modCharge_charge (s : State) (i : Str) (f : Charge → Charge) :
    (s.modCharge i f).charge i = f (s.charge i) := by simp [State.charge, State.modCharge]

@[simp] theorem State.modReading_reading (s : State) (i : Str) (f : Reading → Reading) :
    (s.modReading i f).reading i = f (s.reading i) := by simp [State.reading, State.modReading]

theorem State.modControl_control_ne (s : State) {i j : Str} (h : i ≠ j) (f : Control → Control) :
    (s.modControl i f).control j = s.control j := by
  simp [State.control, State.modControl, s.modStr_str_ne h]

theorem State.modCharge_charge_ne (s : State) {i j : Str} (h : i ≠ j) (f : Charge → Charge) :
    (s.modCharge i f).charge j = s.charge j := by
  simp [State.charge, State.modCharge, s.modStr_str_ne h]

theorem State.modReading_reading_ne (s : State) {i j : Str} (h : i ≠ j) (f : Reading → Reading) :
    (s.modReading i f).reading j = s.reading j := by
  simp [State.reading, State.modReading, s.modStr_str_ne h]

@[simp] theorem State.modControl_charge (s : State) (i j : Str) (f : Control → Control) :
    (s.modControl i f).charge j = s.charge j := by
  simp only [State.charge, State.modControl, State.modStr_str_ite]
  split <;> rfl

@[simp] theorem State.modControl_reading (s : State) (i j : Str) (f : Control → Control) :
    (s.modControl i f).reading j = s.reading j := by
  simp only [State.reading, State.modControl, State.modStr_str_ite]
  split <;> rfl

@[simp] theorem State.modCharge_control (s : State) (i j : Str) (f : Charge → Charge) :
    (s.modCharge i f).control j = s.control j := by
  simp only [State.control, State.modCharge, State.modStr_str_ite]
  split <;> rfl

@[simp] theorem State.modCharge_reading (s : State) (i j : Str) (f : Charge → Charge) :
    (s.modCharge i f).reading j = s.reading j := by
  simp only [State.reading, State.modCharge, State.modStr_str_ite]
  split <;> rfl

@[simp] theorem State.modReading_control (s : State) (i j : Str) (f : Reading → Reading) :
    (s.modReading i f).control j = s.control j := by
  simp only [State.control, State.modReading, State.modStr_str_ite]
  split <;> rfl

@[simp] theorem State.modReading_charge (s : State) (i j : Str) (f : Reading → Reading) :
    (s.modReading i f).charge j = s.charge j := by
  simp only [State.charge, State.modReading, State.modStr_str_ite]
  split <;> rfl

/-! ## Readings that an update does not touch -/

@[simp] theorem State.modWater_lim (s : State) (f : Water → Water) : (s.modWater f).lim = s.lim := rfl
@[simp] theorem State.modWater_cfg (s : State) (f : Water → Water) (j : Str) : (s.modWater f).cfg j = s.cfg j := rfl
@[simp] theorem State.modWater_phase (s : State) (f : Water → Water) (n : Nat) : (s.modWater f).phase n = s.phase n := rfl
@[simp] theorem State.modWater_limitsLoaded (s : State) (f : Water → Water) : (s.modWater f).limitsLoaded = s.limitsLoaded := rfl
@[simp] theorem State.modWater_engaged (s : State) (f : Water → Water) : (s.modWater f).engaged = s.engaged := rfl
@[simp] theorem State.modWater_cell (s : State) (f : Water → Water) (j : CellIx) : (s.modWater f).cell j = s.cell j := rfl
@[simp] theorem State.modWater_str (s : State) (f : Water → Water) (j : Str) : (s.modWater f).str j = s.str j := rfl
@[simp] theorem State.modWater_reading (s : State) (f : Water → Water) (j : Str) : (s.modWater f).reading j = s.reading j := rfl
@[simp] theorem State.modWater_charge (s : State) (f : Water → Water) (j : Str) : (s.modWater f).charge j = s.charge j := rfl
@[simp] theorem State.modWater_control (s : State) (f : Water → Water) (j : Str) : (s.modWater f).control j = s.control j := rfl
@[simp] theorem State.modWater_slot (s : State) (f : Water → Water) (m : SlotId) : (s.modWater f).slot m = s.slot m := by cases m <;> rfl

@[simp] theorem State.modSite_lim (s : State) (f : Site → Site) : (s.modSite f).lim = s.lim := rfl
@[simp] theorem State.modSite_cfg (s : State) (f : Site → Site) (j : Str) : (s.modSite f).cfg j = s.cfg j := rfl
@[simp] theorem State.modSite_phase (s : State) (f : Site → Site) (n : Nat) : (s.modSite f).phase n = s.phase n := rfl
@[simp] theorem State.modSite_limitsLoaded (s : State) (f : Site → Site) : (s.modSite f).limitsLoaded = s.limitsLoaded := rfl
@[simp] theorem State.modSite_engaged (s : State) (f : Site → Site) : (s.modSite f).engaged = s.engaged := rfl
@[simp] theorem State.modSite_cell (s : State) (f : Site → Site) (j : CellIx) : (s.modSite f).cell j = s.cell j := rfl
@[simp] theorem State.modSite_str (s : State) (f : Site → Site) (j : Str) : (s.modSite f).str j = s.str j := rfl
@[simp] theorem State.modSite_reading (s : State) (f : Site → Site) (j : Str) : (s.modSite f).reading j = s.reading j := rfl
@[simp] theorem State.modSite_charge (s : State) (f : Site → Site) (j : Str) : (s.modSite f).charge j = s.charge j := rfl
@[simp] theorem State.modSite_control (s : State) (f : Site → Site) (j : Str) : (s.modSite f).control j = s.control j := rfl
@[simp] theorem State.modSite_slot (s : State) (f : Site → Site) (m : SlotId) : (s.modSite f).slot m = s.slot m := by cases m <;> rfl

@[simp] theorem State.modRing_lim (s : State) (f : Ring → Ring) : (s.modRing f).lim = s.lim := rfl
@[simp] theorem State.modRing_cfg (s : State) (f : Ring → Ring) (j : Str) : (s.modRing f).cfg j = s.cfg j := rfl
@[simp] theorem State.modRing_phase (s : State) (f : Ring → Ring) (n : Nat) : (s.modRing f).phase n = s.phase n := rfl
@[simp] theorem State.modRing_limitsLoaded (s : State) (f : Ring → Ring) : (s.modRing f).limitsLoaded = s.limitsLoaded := rfl
@[simp] theorem State.modRing_engaged (s : State) (f : Ring → Ring) : (s.modRing f).engaged = s.engaged := rfl
@[simp] theorem State.modRing_cell (s : State) (f : Ring → Ring) (j : CellIx) : (s.modRing f).cell j = s.cell j := rfl
@[simp] theorem State.modRing_str (s : State) (f : Ring → Ring) (j : Str) : (s.modRing f).str j = s.str j := rfl
@[simp] theorem State.modRing_reading (s : State) (f : Ring → Ring) (j : Str) : (s.modRing f).reading j = s.reading j := rfl
@[simp] theorem State.modRing_charge (s : State) (f : Ring → Ring) (j : Str) : (s.modRing f).charge j = s.charge j := rfl
@[simp] theorem State.modRing_control (s : State) (f : Ring → Ring) (j : Str) : (s.modRing f).control j = s.control j := rfl
@[simp] theorem State.modRing_slot (s : State) (f : Ring → Ring) (m : SlotId) : (s.modRing f).slot m = s.slot m := by cases m <;> rfl

@[simp] theorem State.modMgmt_lim (s : State) (f : Mgmt → Mgmt) : (s.modMgmt f).lim = s.lim := rfl
@[simp] theorem State.modMgmt_cfg (s : State) (f : Mgmt → Mgmt) (j : Str) : (s.modMgmt f).cfg j = s.cfg j := rfl
@[simp] theorem State.modMgmt_phase (s : State) (f : Mgmt → Mgmt) (n : Nat) : (s.modMgmt f).phase n = s.phase n := rfl
@[simp] theorem State.modMgmt_cell (s : State) (f : Mgmt → Mgmt) (j : CellIx) : (s.modMgmt f).cell j = s.cell j := rfl
@[simp] theorem State.modMgmt_str (s : State) (f : Mgmt → Mgmt) (j : Str) : (s.modMgmt f).str j = s.str j := rfl
@[simp] theorem State.modMgmt_reading (s : State) (f : Mgmt → Mgmt) (j : Str) : (s.modMgmt f).reading j = s.reading j := rfl
@[simp] theorem State.modMgmt_charge (s : State) (f : Mgmt → Mgmt) (j : Str) : (s.modMgmt f).charge j = s.charge j := rfl
@[simp] theorem State.modMgmt_control (s : State) (f : Mgmt → Mgmt) (j : Str) : (s.modMgmt f).control j = s.control j := rfl
@[simp] theorem State.modMgmt_slot (s : State) (f : Mgmt → Mgmt) (m : SlotId) : (s.modMgmt f).slot m = s.slot m := by cases m <;> rfl

@[simp] theorem State.modCell_lim (s : State) (i : CellIx) (f : Cell → Cell) : (s.modCell i f).lim = s.lim := rfl
@[simp] theorem State.modCell_cfg (s : State) (i : CellIx) (f : Cell → Cell) (j : Str) : (s.modCell i f).cfg j = s.cfg j := rfl
@[simp] theorem State.modCell_phase (s : State) (i : CellIx) (f : Cell → Cell) (n : Nat) : (s.modCell i f).phase n = s.phase n := rfl
@[simp] theorem State.modCell_limitsLoaded (s : State) (i : CellIx) (f : Cell → Cell) : (s.modCell i f).limitsLoaded = s.limitsLoaded := rfl
@[simp] theorem State.modCell_engaged (s : State) (i : CellIx) (f : Cell → Cell) : (s.modCell i f).engaged = s.engaged := rfl
@[simp] theorem State.modCell_str (s : State) (i : CellIx) (f : Cell → Cell) (j : Str) : (s.modCell i f).str j = s.str j := rfl
@[simp] theorem State.modCell_reading (s : State) (i : CellIx) (f : Cell → Cell) (j : Str) : (s.modCell i f).reading j = s.reading j := rfl
@[simp] theorem State.modCell_charge (s : State) (i : CellIx) (f : Cell → Cell) (j : Str) : (s.modCell i f).charge j = s.charge j := rfl
@[simp] theorem State.modCell_control (s : State) (i : CellIx) (f : Cell → Cell) (j : Str) : (s.modCell i f).control j = s.control j := rfl
@[simp] theorem State.modCell_slot (s : State) (i : CellIx) (f : Cell → Cell) (m : SlotId) : (s.modCell i f).slot m = s.slot m := by cases m <;> rfl

@[simp] theorem State.modSlot_lim (s : State) (sl : SlotId) (f : SlotRec → SlotRec) : (s.modSlot sl f).lim = s.lim := by cases sl <;> rfl
@[simp] theorem State.modSlot_cfg (s : State) (sl : SlotId) (f : SlotRec → SlotRec) (j : Str) : (s.modSlot sl f).cfg j = s.cfg j := by cases sl <;> rfl
@[simp] theorem State.modSlot_phase (s : State) (sl : SlotId) (f : SlotRec → SlotRec) (n : Nat) : (s.modSlot sl f).phase n = s.phase n := by cases sl <;> rfl
@[simp] theorem State.modSlot_limitsLoaded (s : State) (sl : SlotId) (f : SlotRec → SlotRec) : (s.modSlot sl f).limitsLoaded = s.limitsLoaded := by cases sl <;> rfl
@[simp] theorem State.modSlot_engaged (s : State) (sl : SlotId) (f : SlotRec → SlotRec) : (s.modSlot sl f).engaged = s.engaged := by cases sl <;> rfl
@[simp] theorem State.modSlot_cell (s : State) (sl : SlotId) (f : SlotRec → SlotRec) (j : CellIx) : (s.modSlot sl f).cell j = s.cell j := by cases sl <;> rfl
@[simp] theorem State.modSlot_str (s : State) (sl : SlotId) (f : SlotRec → SlotRec) (j : Str) : (s.modSlot sl f).str j = s.str j := by cases sl <;> rfl
@[simp] theorem State.modSlot_reading (s : State) (sl : SlotId) (f : SlotRec → SlotRec) (j : Str) : (s.modSlot sl f).reading j = s.reading j := by cases sl <;> rfl
@[simp] theorem State.modSlot_charge (s : State) (sl : SlotId) (f : SlotRec → SlotRec) (j : Str) : (s.modSlot sl f).charge j = s.charge j := by cases sl <;> rfl
@[simp] theorem State.modSlot_control (s : State) (sl : SlotId) (f : SlotRec → SlotRec) (j : Str) : (s.modSlot sl f).control j = s.control j := by cases sl <;> rfl

@[simp] theorem State.modReading_lim (s : State) (k : Str) (f : Reading → Reading) : (s.modReading k f).lim = s.lim := rfl
@[simp] theorem State.modReading_cfg (s : State) (k : Str) (f : Reading → Reading) (j : Str) : (s.modReading k f).cfg j = s.cfg j := rfl
@[simp] theorem State.modReading_phase (s : State) (k : Str) (f : Reading → Reading) (n : Nat) : (s.modReading k f).phase n = s.phase n := rfl
@[simp] theorem State.modReading_limitsLoaded (s : State) (k : Str) (f : Reading → Reading) : (s.modReading k f).limitsLoaded = s.limitsLoaded := rfl
@[simp] theorem State.modReading_engaged (s : State) (k : Str) (f : Reading → Reading) : (s.modReading k f).engaged = s.engaged := rfl
@[simp] theorem State.modReading_cell (s : State) (k : Str) (f : Reading → Reading) (j : CellIx) : (s.modReading k f).cell j = s.cell j := rfl
@[simp] theorem State.modReading_slot (s : State) (k : Str) (f : Reading → Reading) (m : SlotId) : (s.modReading k f).slot m = s.slot m := by cases m <;> rfl

@[simp] theorem State.modCharge_lim (s : State) (k : Str) (f : Charge → Charge) : (s.modCharge k f).lim = s.lim := rfl
@[simp] theorem State.modCharge_cfg (s : State) (k : Str) (f : Charge → Charge) (j : Str) : (s.modCharge k f).cfg j = s.cfg j := rfl
@[simp] theorem State.modCharge_phase (s : State) (k : Str) (f : Charge → Charge) (n : Nat) : (s.modCharge k f).phase n = s.phase n := rfl
@[simp] theorem State.modCharge_limitsLoaded (s : State) (k : Str) (f : Charge → Charge) : (s.modCharge k f).limitsLoaded = s.limitsLoaded := rfl
@[simp] theorem State.modCharge_engaged (s : State) (k : Str) (f : Charge → Charge) : (s.modCharge k f).engaged = s.engaged := rfl
@[simp] theorem State.modCharge_cell (s : State) (k : Str) (f : Charge → Charge) (j : CellIx) : (s.modCharge k f).cell j = s.cell j := rfl
@[simp] theorem State.modCharge_slot (s : State) (k : Str) (f : Charge → Charge) (m : SlotId) : (s.modCharge k f).slot m = s.slot m := by cases m <;> rfl

@[simp] theorem State.modControl_lim (s : State) (k : Str) (f : Control → Control) : (s.modControl k f).lim = s.lim := rfl
@[simp] theorem State.modControl_cfg (s : State) (k : Str) (f : Control → Control) (j : Str) : (s.modControl k f).cfg j = s.cfg j := rfl
@[simp] theorem State.modControl_phase (s : State) (k : Str) (f : Control → Control) (n : Nat) : (s.modControl k f).phase n = s.phase n := rfl
@[simp] theorem State.modControl_limitsLoaded (s : State) (k : Str) (f : Control → Control) : (s.modControl k f).limitsLoaded = s.limitsLoaded := rfl
@[simp] theorem State.modControl_engaged (s : State) (k : Str) (f : Control → Control) : (s.modControl k f).engaged = s.engaged := rfl
@[simp] theorem State.modControl_cell (s : State) (k : Str) (f : Control → Control) (j : CellIx) : (s.modControl k f).cell j = s.cell j := rfl
@[simp] theorem State.modControl_slot (s : State) (k : Str) (f : Control → Control) (m : SlotId) : (s.modControl k f).slot m = s.slot m := by cases m <;> rfl

end Sys2Proof.Machine
end

