-- ==== Sys2Proof/Laws/Evolves.lean ====
section
/-! SUPPORT. What the blocks' shared operations leave, said once: `State.Evolves wet com s t` holds of a state `t` that the
blocks make of `s`
inside an event, by orders, notices, rounds, records, scans and commits; with `wet` false no cell record moves, and with `com`
false no committed image and nothing of the Management Agent does. It keeps the clock, the record window, the receiver,
the forward buffer, the frame at the output, the counts but ORDER_DROP, the filtered lines and the latches; it only adds to
the reply queue; and it keeps the bounds of the Ring Port and of the cell records. -/

namespace Sys2Proof.Machine

/-! ## The relation -/

/-- The counts that no block operation moves. -/
def Counts.kept (c : Counts) : Nat × Nat × Nat × Nat × Nat :=
  (c.runt, c.badCheck, c.overflow, c.requestDrop, c.policed)

/-- The items of the Ring Port that no block operation changes. -/
def Ring.kept (r : Ring) : (Byte × RxState × Nat × Option Nat × Bool) × (List Frame × Option Sending × Nat × Nat)
    × Nat × Nat × Nat × Nat × Nat :=
  ((r.ownAddress, r.rx, r.rxLast, r.lastGood, r.gasStop), (r.forward, r.sending, r.replyWait, r.fwdSkip), r.counts.kept)

/-- The items of the Site Line Unit that no block operation changes. -/
def Site.kept (t : Site) : (Filter × Filter × Filter × Filter) × Option Nat × Bool × Bool :=
  ((t.src, t.gas, t.reslow, t.trig), t.lastEdge, t.gasLatch, t.fanFail)

/-- The items of the Management Agent that no block operation changes. -/
def Mgmt.kept (m : Mgmt) : Cursor × Bool × Option Cursor × Stamp × Nat :=
  (m.cursor, m.held, m.mark, m.clock, m.minuteEnd)

/-- What the blocks make of a state inside an event. -/
structure State.Evolves (wet com : Bool) (s t : State) : Prop where
  pending : t.pending = s.pending
  now : t.now = s.now
  trigLevel : t.trigLevel = s.trigLevel
  ring : t.ring.kept = s.ring.kept
  site : t.site.kept = s.site.kept
  mgmt : t.mgmt.kept = s.mgmt.kept
  dry : wet = false → t.cells = s.cells
  images : com = false → t.images = s.images ∧ t.mgmt = s.mgmt ∧ t.ring.thin = s.ring.thin
  replies : s.ring.replies <+: t.ring.replies
  ringOk : s.ring.Ok → t.ring.Ok
  countsOk : s.ring.counts.Ok → t.ring.counts.Ok
  cellsOk : s.CellsOk → t.CellsOk
  queueOk : QueueOk s.queue → QueueOk t.queue
  siteOk : s.site.Ok → t.site.Ok
  pumpOk : s.water.PumpOk → t.water.PumpOk

@[simp] theorem State.Evolves.refl {wet com : Bool} (s : State) : State.Evolves wet com s s :=
  ⟨rfl, rfl, rfl, rfl, rfl, rfl, fun _ => rfl, fun _ => ⟨rfl, rfl, rfl⟩, List.prefix_rfl, id, id, id, id, id, id⟩

theorem State.Evolves.trans {wet com : Bool} {s t u : State} (h : State.Evolves wet com s t)
    (k : State.Evolves wet com t u) : State.Evolves wet com s u :=
  ⟨k.pending.trans h.pending, k.now.trans h.now, k.trigLevel.trans h.trigLevel, k.ring.trans h.ring, k.site.trans h.site,
    k.mgmt.trans h.mgmt, fun d => (k.dry d).trans (h.dry d),
    fun d => ⟨(k.images d).1.trans (h.images d).1, (k.images d).2.1.trans (h.images d).2.1,
      (k.images d).2.2.trans (h.images d).2.2⟩, h.replies.trans k.replies, k.ringOk ∘ h.ringOk, k.countsOk ∘ h.countsOk, k.cellsOk ∘ h.cellsOk,
    k.queueOk ∘ h.queueOk, k.siteOk ∘ h.siteOk, k.pumpOk ∘ h.pumpOk⟩

/-- Every evolution is one in which cell records may move and a commit may be applied. -/
theorem State.Evolves.all {wet com : Bool} {s t : State} (h : State.Evolves wet com s t) : State.Evolves true true s t :=
  { h with dry := fun d => by cases d
           images := fun d => by cases d }

/-! ## Updates -/

section
variable {wet com : Bool} {s t : State}

/-- A state that differs from an evolved one in nothing that the relation speaks of. -/
theorem State.Evolves.same {u : State} (h : State.Evolves wet com s t) (hp : u.pending = t.pending := by rfl)
    (hn : u.now = t.now := by rfl) (hl : u.trigLevel = t.trigLevel := by rfl) (hr : u.ring = t.ring := by rfl)
    (hs : u.site = t.site := by rfl) (hm : u.mgmt = t.mgmt := by rfl) (hc : u.cells = t.cells := by rfl)
    (hi : u.images = t.images := by rfl) (hq : u.queue = t.queue := by rfl) (hw : u.water = t.water := by rfl) :
    State.Evolves wet com s u := by
  refine h.trans ⟨hp, hn, hl, by rw [hr], by rw [hs], by rw [hm], fun _ => hc, fun _ => ⟨hi, hm, by rw [hr]⟩, by rw [hr],
    by rw [hr]; exact id, by rw [hr]; exact id, ?_, by rw [hq]; exact id, by rw [hs]; exact id, by rw [hw]; exact id⟩
  intro k i
  have := k i
  simpa [State.cell, hc] using this

@[simp] theorem evolves_ite {c : Prop} [Decidable c] {u : State} (h : State.Evolves wet com s t) (k : State.Evolves wet com s u) :
    State.Evolves wet com s (if c then t else u) := by split <;> assumption

/-- An update of the Watering Unit that keeps PUMP in step with its state. -/
@[simp] theorem evolves_modWater (h : State.Evolves wet com s t) (f : Water → Water) (hf : ∀ w, ((f w).pump = w.pump ∧ (f w).state = w.state) ∨ (f w).pump = ((f w).state == .dosing)) :
    State.Evolves wet com s (t.modWater f) := by
  refine h.trans ⟨rfl, rfl, rfl, rfl, rfl, rfl, fun _ => rfl, fun _ => ⟨rfl, rfl, rfl⟩, List.prefix_rfl, id, id, fun k i => k i, id, id, fun k => ?_⟩
  show (f t.water).PumpOk
  rcases hf t.water with ⟨h1, h2⟩ | h
  · unfold Water.PumpOk; rw [h1, h2]; exact k
  · exact h

@[simp] theorem evolves_modStr (h : State.Evolves wet com s t) (i : Str) (f : StringRec → StringRec) : State.Evolves wet com s (t.modStr i f) :=
  h.same

@[simp] theorem evolves_modControl (h : State.Evolves wet com s t) (i : Str) (f : Control → Control) : State.Evolves wet com s (t.modControl i f) :=
  h.same

@[simp] theorem evolves_modCharge (h : State.Evolves wet com s t) (i : Str) (f : Charge → Charge) : State.Evolves wet com s (t.modCharge i f) :=
  h.same

@[simp] theorem evolves_modReading (h : State.Evolves wet com s t) (i : Str) (f : Reading → Reading) : State.Evolves wet com s (t.modReading i f) :=
  h.same

@[simp] theorem evolves_modSlot (h : State.Evolves wet com s t) (sl : SlotId) (f : SlotRec → SlotRec) : State.Evolves wet com s (t.modSlot sl f) :=
  h.same (by simp) (by simp) (by simp) (by simp) (by simp) (by simp) (by simp) (by simp) (by simp) (by simp)

@[simp] theorem evolves_markScan (h : State.Evolves wet com s t) : State.Evolves wet com s t.markScan :=
  h.same

@[simp] theorem evolves_markCommit (h : State.Evolves wet com s t) : State.Evolves wet com s t.markCommit :=
  h.same

@[simp] theorem evolves_keepMarks (h : State.Evolves wet com s t) (m : Marks) : State.Evolves wet com s (t.keepMarks m) :=
  h.same

@[simp] theorem evolves_marks (h : State.Evolves wet com s t) (m : Marks) : State.Evolves wet com s { t with marks := m } :=
  h.same

/-- An update of the Round Queue that keeps its order and its names. -/
theorem evolves_queue (h : State.Evolves wet com s t) (q : List Entry) (hq : QueueOk t.queue → QueueOk q) :
    State.Evolves wet com s { t with queue := q } :=
  h.trans ⟨rfl, rfl, rfl, rfl, rfl, rfl, fun _ => rfl, fun _ => ⟨rfl, rfl, rfl⟩, List.prefix_rfl, id, id, fun k i => k i, hq, id, id⟩

@[simp] theorem evolves_bus (h : State.Evolves wet com s t) (v : Option Nat) : State.Evolves wet com s { t with busVoltage := v } :=
  h.same

@[simp] theorem evolves_discharge (h : State.Evolves wet com s t) (d : Bool) : State.Evolves wet com s { t with discharge := d } :=
  h.same

@[simp] theorem evolves_holdoff (h : State.Evolves wet com s t) (e : Option Nat) : State.Evolves wet com s { t with holdoffEnd := e } :=
  h.same

@[simp] theorem evolves_discharge_holdoff (h : State.Evolves wet com s t) (d : Bool) (e : Option Nat) :
    State.Evolves wet com s { t with discharge := d, holdoffEnd := e } :=
  h.same

@[simp] theorem evolves_images (h : State.Evolves wet true s t) (m : Images) :
    State.Evolves wet true s { t with images := m } :=
  h.trans ⟨rfl, rfl, rfl, rfl, rfl, rfl, fun _ => rfl, fun d => (by cases d), List.prefix_rfl, id, id, fun k i => k i, id, id,
    id⟩

theorem evolves_modSite (h : State.Evolves wet com s t) (f : Site → Site) (hf : (f t.site).kept = t.site.kept)
    (ho : t.site.Ok → (f t.site).Ok) : State.Evolves wet com s (t.modSite f) :=
  h.trans ⟨rfl, rfl, rfl, rfl, hf, rfl, fun _ => rfl, fun _ => ⟨rfl, rfl, rfl⟩, List.prefix_rfl, id, id, fun k i => k i, id, ho, id⟩

theorem evolves_modMgmt (h : State.Evolves wet true s t) (f : Mgmt → Mgmt) (hf : (f t.mgmt).kept = t.mgmt.kept) :
    State.Evolves wet true s (t.modMgmt f) :=
  h.trans ⟨rfl, rfl, rfl, rfl, rfl, hf, fun _ => rfl, fun d => (by cases d), List.prefix_rfl, id, id, fun k i => k i, id, id,
    id⟩

/-- An update of the Ring Port that keeps its bounds and only adds to the reply queue. -/
theorem evolves_modRing (h : State.Evolves wet com s t) (f : Ring → Ring) (hk : (f t.ring).kept = t.ring.kept)
    (hp : t.ring.replies <+: (f t.ring).replies) (ho : t.ring.Ok → (f t.ring).Ok)
    (hc : t.ring.counts.Ok → (f t.ring).counts.Ok)
    (ht : com = false → (f t.ring).thin = t.ring.thin := by intro _; rfl) : State.Evolves wet com s (t.modRing f) :=
  h.trans ⟨rfl, rfl, rfl, hk, rfl, rfl, fun _ => rfl, fun d => ⟨rfl, rfl, ht d⟩, hp, ho, hc, fun k i => k i, id, id, id⟩

/-- An update of one cell record that keeps its ranges. -/
theorem evolves_modCell (h : State.Evolves true com s t) (i : CellIx) (f : Cell → Cell) (hf : ∀ c : Cell, c.Ok → (f c).Ok) :
    State.Evolves true com s (t.modCell i f) := by
  refine h.trans ⟨rfl, rfl, rfl, rfl, rfl, rfl, fun d => (by cases d), fun _ => ⟨rfl, rfl, rfl⟩, List.prefix_rfl, id, id, ?_, id, id, id⟩
  intro k j
  by_cases e : i = j
  · subst e; simpa using hf _ (k i)
  · rw [t.modCell_cell_ne e]; exact k j

/-- An operation made along a list. -/
theorem evolves_foldl {α : Type} (l : List α) (f : State → α → State) (hf : ∀ u a, State.Evolves wet com s u → State.Evolves wet com s (f u a)) :
    ∀ t, State.Evolves wet com s t → State.Evolves wet com s (l.foldl f t) := by
  induction l with
  | nil => intro t h; exact h
  | cons a l ih => intro t h; exact ih _ (hf _ _ h)

theorem evolves_eachStr (h : State.Evolves wet com s t) (f : Str → State → State) (hf : ∀ i u, State.Evolves wet com s u → State.Evolves wet com s (f i u)) :
    State.Evolves wet com s (t.eachStr f) :=
  evolves_foldl _ _ (fun u i k => hf i u k) t h

theorem evolves_eachSlot (h : State.Evolves wet com s t) (f : SlotId → State → State) (hf : ∀ i u, State.Evolves wet com s u → State.Evolves wet com s (f i u)) :
    State.Evolves wet com s (t.eachSlot f) :=
  evolves_foldl _ _ (fun u i k => hf i u k) t h

theorem evolves_onSlotOf (h : State.Evolves wet com s t) (i : Str) (f : SlotId → State → State)
    (hf : ∀ sl u, State.Evolves wet com s u → State.Evolves wet com s (f sl u)) : State.Evolves wet com s (t.onSlotOf i f) := by
  unfold State.onSlotOf; split
  · exact hf _ _ h
  · exact h

/-! ## The queues of the Ring Port -/

theorem notice_kept {wet com : Bool} (s : State) (p : List Byte) : State.Evolves wet com s (s.notice p) := by
  unfold State.notice
  split
  · split
    · next h =>
      refine evolves_modRing (.refl s) _ rfl ⟨_, rfl⟩ ?_ id
      intro k
      exact { k with replies := by simpa [replyCap] using h }
    · exact evolves_modRing (.refl s) _ rfl List.prefix_rfl (fun k => { k with }) id
  · exact .refl s

@[simp] theorem evolves_notice (h : State.Evolves wet com s t) (p : List Byte) : State.Evolves wet com s (t.notice p) :=
  h.trans (notice_kept t p)

@[simp] theorem evolves_noticeStarted (h : State.Evolves wet com s t) (i : Str) (k : RoundKind) (sl : Option SlotId) (r : Option Reason) :
    State.Evolves wet com s (t.noticeStarted i k sl r) := evolves_notice h _

@[simp] theorem evolves_noticeEnded (h : State.Evolves wet com s t) (i : Str) (o : OutcomeRecord) : State.Evolves wet com s (t.noticeEnded i o) :=
  evolves_notice h _

@[simp] theorem evolves_noticeAlarm (h : State.Evolves wet com s t) (a : Alarm) : State.Evolves wet com s (t.noticeAlarm a) := evolves_notice h _

@[simp] theorem evolves_noticeCell (h : State.Evolves wet com s t) (i : Str) (p : Pos) (e : CellEvent) :
    State.Evolves wet com s (t.noticeCell i p e) := evolves_notice h _

@[simp] theorem evolves_noticeStringFault (h : State.Evolves wet com s t) (i : Str) : State.Evolves wet com s (t.noticeStringFault i) :=
  evolves_notice h _

@[simp] theorem evolves_noticeDropped (h : State.Evolves wet com s t) (i : Str) (k : RoundKind) : State.Evolves wet com s (t.noticeDropped i k) :=
  evolves_notice h _

@[simp] theorem evolves_noticeNothing (h : State.Evolves wet com s t) (i : Str) : State.Evolves wet com s (t.noticeNothing i) := evolves_notice h _

end

/-! ## Handing an order (R164, R165) -/

theorem eraseLast_some {p : Order → Bool} {q q' : List Order} (h : eraseLast p q = some q') :
    q'.length + 1 = q.length ∧ List.Sublist q' q := by
  induction q generalizing q' with
  | nil => simp [eraseLast] at h
  | cons o os ih =>
    simp only [eraseLast] at h
    split at h
    · next e => cases h; have := ih e; exact ⟨by simp [this.1], this.2.cons_cons o⟩
    · split at h
      · cases h; exact ⟨rfl, List.sublist_cons_self o os⟩
      · cases h

/-- The destinations of a queue after an order is placed in it: as before, or as before without one and with the order's own
at the tail; in the last case no frame for that destination was waiting (R164). -/
theorem placeOrder_cases (named : Byte → Bool) (o : Order) (q : List Order) :
    (∃ b, placeOrder named o q = (q.map fun w => if w.frame.dst == o.frame.dst then o else w, b))
      ∨ (∀ w ∈ q, w.frame.dst ≠ o.frame.dst) ∧
        ((placeOrder named o q).1 = q ∨
          ∃ q', List.Sublist q' q ∧ q'.length < orderCap ∧ (placeOrder named o q).1 = q' ++ [o])
      ∨ (∀ w ∈ q, w.frame.dst ≠ o.frame.dst) ∧ orderCap < q.length := by
  unfold placeOrder
  split
  · exact .inl ⟨_, rfl⟩
  · next h =>
    have hne : ∀ w ∈ q, w.frame.dst ≠ o.frame.dst := by
      intro w hw e
      exact h (List.any_eq_true.mpr ⟨w, hw, by simp [e]⟩)
    split
    · next hl => exact .inr (.inl ⟨hne, .inr ⟨q, List.Sublist.refl q, hl, rfl⟩⟩)
    · next hl =>
      by_cases hc : orderCap < q.length
      · exact .inr (.inr ⟨hne, hc⟩)
      · refine .inr (.inl ⟨hne, ?_⟩)
        split
        · next e =>
          have := eraseLast_some e
          exact .inr ⟨_, this.2, by omega, rfl⟩
        · exact .inl rfl

/-- Placing an order keeps the order queue within its capacity, with one order for each destination (R164). -/
theorem placeOrder_ok (named : Byte → Bool) (o : Order) (q : List Order) (hl : q.length ≤ orderCap) (hd : oneOrderEach q) :
    (placeOrder named o q).1.length ≤ orderCap ∧ oneOrderEach (placeOrder named o q).1 := by
  rcases placeOrder_cases named o q with ⟨b, h⟩ | ⟨hne, h | ⟨q', hs, hlt, h⟩⟩ | ⟨-, h⟩
  · rw [h]
    refine ⟨by simpa using hl, ?_⟩
    have : (q.map fun w => if w.frame.dst == o.frame.dst then o else w).map (fun o => o.frame.dst)
        = q.map fun o => o.frame.dst := by
      rw [List.map_map]
      apply List.map_congr_left
      intro w _
      simp only [Function.comp]
      split
      · next e => exact (beq_iff_eq.mp e).symm
      · rfl
    unfold oneOrderEach; rw [this]; exact hd
  · rw [h]; exact ⟨hl, hd⟩
  · rw [h]
    refine ⟨by simp; omega, ?_⟩
    simp only [oneOrderEach, List.map_append, List.map_cons, List.map_nil]
    refine List.Nodup.append ?_ (List.nodup_singleton _) ?_
    · exact List.Sublist.nodup (hs.map _) hd
    · intro a ha hb
      simp only [List.mem_singleton] at hb
      obtain ⟨w, hw, e⟩ := List.mem_map.mp ha
      exact hne w (hs.subset hw) (e.trans hb)
  · omega

/-- Every order of the queue after a placing was waiting before it, or is the order placed. -/
theorem placeOrder_mem {named : Byte → Bool} {o w : Order} {q : List Order} (hl : q.length ≤ orderCap)
    (h : w ∈ (placeOrder named o q).1) : w = o ∨ w ∈ q := by
  rcases placeOrder_cases named o q with ⟨b, e⟩ | ⟨-, e | ⟨q', hs, -, e⟩⟩ | ⟨-, e⟩
  · rw [e] at h
    obtain ⟨x, hx, rfl⟩ := List.mem_map.mp h
    split
    · exact .inl rfl
    · exact .inr hx
  · rw [e] at h; exact .inr h
  · rw [e] at h
    rcases List.mem_append.mp h with h | h
    · exact .inr (hs.subset h)
    · exact .inl (List.mem_singleton.mp h)
  · omega

/-- Under the gas stop no frame is taken as a RECT ON (R165). -/
theorem gasStopped_isRectOn (f : Frame) : (gasStopped true f).isRectOn = false := by
  unfold gasStopped
  split
  · rfl
  · next h => simpa using h

@[simp] theorem gasStopped_dst (b : Bool) (f : Frame) : (gasStopped b f).dst = f.dst := by
  unfold gasStopped; split <;> rfl

theorem countUp_le (n : Nat) : countUp n ≤ sat16 := by
  unfold countUp satAdd; omega

/-- Handing an order changes the order queue, its numbering and ORDER_DROP alone, and keeps the queue's bounds (R164, R165). -/
theorem handOrder_kept {wet com : Bool} (s : State) (f : Frame) : State.Evolves wet com s (s.handOrder f) := by
  unfold State.handOrder
  refine evolves_modRing (.refl s) _ ?_ List.prefix_rfl ?_ ?_
  · simp only [Ring.kept, Counts.kept]; split <;> rfl
  · intro k
    have h := placeOrder_ok s.bindingsName ⟨gasStopped s.ring.gasStop f, s.ring.orderCount⟩ s.ring.orders k.orders k.oneEach
    refine { k with orders := h.1, oneEach := h.2, gas := ?_ }
    intro g w hw
    rcases placeOrder_mem k.orders hw with rfl | hw
    · simp only at g; rw [g]; exact gasStopped_isRectOn f
    · exact k.gas g w hw
  · intro k
    simp only
    split
    · exact ⟨k.1, k.2.1, k.2.2.1, k.2.2.2.1, k.2.2.2.2.1, countUp_le _⟩
    · exact k

section
variable {wet com : Bool} {s t : State}

@[simp] theorem evolves_handOrder (h : State.Evolves wet com s t) (f : Frame) : State.Evolves wet com s (t.handOrder f) :=
  h.trans (handOrder_kept t f)

@[simp] theorem evolves_handRect (h : State.Evolves wet com s t) (sl : SlotId) (o : RectOrder) : State.Evolves wet com s (t.handRect sl o) :=
  evolves_handOrder h _

@[simp] theorem evolves_handContactor (h : State.Evolves wet com s t) (i : Str) (c : Byte) : State.Evolves wet com s (t.handContactor i c) :=
  evolves_handOrder h _

/-! ## The Round Queue (R107 to R109) -/

/-- Entries may leave a queue (R107). -/
theorem QueueOk.filter {q : List Entry} (h : QueueOk q) (p : Entry → Bool) : QueueOk (q.filter p) :=
  ⟨h.once.sublist (List.filter_sublist.map _), h.urgent.sublist List.filter_sublist⟩

/-- An entry whose name is not queued joins at the place R107 gives. -/
theorem QueueOk.join {q : List Entry} (h : QueueOk q) (e : Entry) (hn : ∀ x ∈ q, x.named e.string e.kind = false) :
    QueueOk (joinQueue e q) := by
  have hne : ∀ x ∈ q, (x.string, x.kind) ≠ (e.string, e.kind) := by
    intro x hx he
    have := hn x hx
    simp only [Prod.mk.injEq] at he
    simp [Entry.named, he.1, he.2] at this
  unfold joinQueue
  split
  · next hp =>
    refine ⟨?_, ?_⟩
    · simp only [namesOnce, List.map_append, List.map_cons, List.map_nil]
      refine List.Nodup.append h.once (List.nodup_singleton _) ?_
      intro a ha hb
      obtain ⟨x, hx, rfl⟩ := List.mem_map.mp ha
      exact hne x hx (List.mem_singleton.mp hb)
    · refine List.pairwise_append.mpr ⟨h.urgent, List.pairwise_singleton _ _, ?_⟩
      intro a _ b hb hu
      rw [List.mem_singleton.mp hb, hp] at hu
      cases hu
  · next hp =>
    have hq := List.takeWhile_append_dropWhile (p := fun x : Entry => x.priority == .urgent) (l := q)
    have ho := h.once
    have hu := h.urgent
    rw [← hq] at ho hu
    refine ⟨?_, ?_⟩
    · simp only [namesOnce, List.map_append, List.map_cons] at ho ⊢
      have hp : (((q.takeWhile fun x => x.priority == .urgent).map fun x => (x.string, x.kind)) ++
          (e.string, e.kind) :: (q.dropWhile fun x => x.priority == .urgent).map fun x => (x.string, x.kind)).Perm
          ((e.string, e.kind) :: (((q.takeWhile fun x => x.priority == .urgent).map fun x => (x.string, x.kind)) ++
            (q.dropWhile fun x => x.priority == .urgent).map fun x => (x.string, x.kind))) := List.perm_middle
      refine hp.nodup_iff.mpr (List.nodup_cons.mpr ⟨?_, ho⟩)
      intro ha
      rw [← List.map_append, hq] at ha
      obtain ⟨x, hx, he⟩ := List.mem_map.mp ha
      exact hne x hx he
    · have hu := List.pairwise_append.mp hu
      refine List.pairwise_append.mpr ⟨hu.1, List.pairwise_cons.mpr ⟨fun _ _ _ => hp, hu.2.1⟩, ?_⟩
      intro a ha b _ _
      simpa using List.mem_takeWhile_imp ha

@[simp] theorem Entry.merge_named (o n : Entry) (i : Str) (k : RoundKind) : (o.merge n).named i k = o.named i k := by
  unfold Entry.merge; dsimp only; split <;> rfl

@[simp] theorem Entry.merge_string (o n : Entry) : (o.merge n).string = o.string := by
  unfold Entry.merge; dsimp only; split <;> rfl

@[simp] theorem Entry.merge_kind (o n : Entry) : (o.merge n).kind = o.kind := by
  unfold Entry.merge; dsimp only; split <;> rfl

theorem Entry.merge_priority (o n : Entry) :
    (o.merge n).priority = if n.priority = .urgent then .urgent else o.priority := by
  unfold Entry.merge; dsimp only; split <;> rfl

/-- A merge keeps the order and the names of the queue (R109). -/
theorem QueueOk.merge {q : List Entry} (h : QueueOk q) (o n : Entry)
    (ho : q.find? (fun e => e.named n.string n.kind) = some o) : QueueOk (mergeQueue o n q) := by
  have hn : o.named n.string n.kind = true := List.find?_some (p := fun e : Entry => e.named n.string n.kind) ho
  have hk : o.string = n.string ∧ o.kind = n.kind := by simpa [Entry.named] using hn
  have hm := List.mem_of_find?_eq_some ho
  unfold mergeQueue
  split
  · refine (h.filter _).join _ ?_
    intro x hx
    have := (List.mem_filter.mp hx).2
    simp only [Entry.merge_string, Entry.merge_kind, hk.1, hk.2]
    simpa using this
  · next hc =>
    have key : ∀ e ∈ q, e.named n.string n.kind = true → e = o := by
      intro e he hen
      have h1 : e.string = n.string ∧ e.kind = n.kind := by simpa [Entry.named] using hen
      exact List.inj_on_of_nodup_map h.once he hm (by simp [h1.1, h1.2, hk.1, hk.2])
    refine ⟨?_, ?_⟩
    · have : (q.map fun e => if e.named n.string n.kind then e.merge n else e).map (fun e => (e.string, e.kind))
          = q.map fun e => (e.string, e.kind) := by
        rw [List.map_map]
        refine List.map_congr_left fun e _ => ?_
        simp only [Function.comp]
        split <;> simp
      unfold namesOnce; rw [this]; exact h.once
    · refine List.pairwise_map.mpr ?_
      have hpr : ∀ e ∈ q, (if e.named n.string n.kind then e.merge n else e).priority = e.priority := by
        intro e he
        split
        · next hen =>
          have := key e he hen
          subst this
          rw [Entry.merge_priority]
          split
          · next hu =>
            cases hp : e.priority with
            | normal => exact absurd ⟨hp, hu⟩ hc
            | urgent => rfl
          · rfl
        · rfl
      refine h.urgent.imp_of_mem ?_
      intro a b ha hb hab
      rw [hpr a ha, hpr b hb]; exact hab

theorem find_none_named {q : List Entry} {i : Str} {k : RoundKind}
    (h : q.find? (fun e => e.named i k) = none) : ∀ x ∈ q, x.named i k = false := by
  intro x hx
  simpa using List.find?_eq_none.mp h x hx

@[simp] theorem evolves_removeEntry (h : State.Evolves wet com s t) (i : Str) (k : RoundKind) : State.Evolves wet com s (t.removeEntry i k) :=
  evolves_queue h _ fun q => q.filter _

@[simp] theorem evolves_withdrawWater (h : State.Evolves wet com s t) (i : Str) : State.Evolves wet com s (t.withdrawWater i) := by
  unfold State.withdrawWater; split
  · exact evolves_markScan (evolves_removeEntry h i _)
  · exact h

@[simp] theorem evolves_enqueue (h : State.Evolves wet com s t) (n : Entry) : State.Evolves wet com s (t.enqueue n) := by
  unfold State.enqueue; split
  · next e => exact evolves_markScan (evolves_queue h _ fun q => q.merge _ _ e)
  · next e => exact evolves_markScan (evolves_queue h _ fun q => q.join _ (find_none_named e))

end

end Sys2Proof.Machine
end

