-- ==== Sys2Proof/Laws/Blocks.lean ====
section
/-! SUPPORT. Every operation of the blocks evolves the state: one lemma for each shared operation, to be cited for what it
leaves and for the bounds it keeps (`State.Evolves`). -/

namespace Sys2Proof.Machine

section
variable {wet com : Bool} {s t : State}

/-! ## String Control (Returns.lean) -/

@[simp] theorem evolves_stringRect (h : State.Evolves wet com s t) (i : Str) (o : RectOrder) :
    State.Evolves wet com s (t.stringRect i o) := by
  unfold State.stringRect; split <;> simp (maxDischargeDepth := 50) [h]

@[simp] theorem evolves_toConfirm (h : State.Evolves wet com s t) (i : Str) :
    State.Evolves wet com s (t.toConfirm i) := by
  unfold State.toConfirm; simp (maxDischargeDepth := 50) [h]

@[simp] theorem evolves_judgeWindow (h : State.Evolves wet com s t) (i : Str) :
    State.Evolves wet com s (t.judgeWindow i) := by
  unfold State.judgeWindow; simp (maxDischargeDepth := 50) [h]

@[simp] theorem evolves_stopSlot (h : State.Evolves wet com s t) (sl : SlotId) :
    State.Evolves wet com s (t.stopSlot sl) := by
  unfold State.stopSlot; try dsimp only
  (split) <;> simp (maxDischargeDepth := 50) [h]

@[simp] theorem evolves_stopSlotOf (h : State.Evolves wet com s t) (i : Str) :
    State.Evolves wet com s (t.stopSlotOf i) := by
  unfold State.stopSlotOf; split <;> simp (maxDischargeDepth := 50) [h]

@[simp] theorem evolves_setEnd (h : State.Evolves wet com s t) (i : Str) (c : EndReason) :
    State.Evolves wet com s (t.setEnd i c) := by
  unfold State.setEnd; simp (maxDischargeDepth := 50) [h]

@[simp] theorem evolves_setHoldoff (h : State.Evolves wet com s t) (i : Str) (c : EndReason) :
    State.Evolves wet com s (t.setHoldoff i c) := by
  unfold State.setHoldoff; simp (maxDischargeDepth := 50) [h]

@[simp] theorem evolves_offAndConfirm (h : State.Evolves wet com s t) (i : Str) :
    State.Evolves wet com s (t.offAndConfirm i) := by
  unfold State.offAndConfirm; simp (maxDischargeDepth := 50) [h]

@[simp] theorem evolves_startReturn (h : State.Evolves wet com s t) (i : Str) (v : Variant) (b : Bool) :
    State.Evolves wet com s (t.startReturn i v b) := by
  unfold State.startReturn; try dsimp only
  (repeat' split) <;> simp (maxDischargeDepth := 50) [h]

@[simp] theorem evolves_changeVariant (h : State.Evolves wet com s t) (i : Str) (v : Variant) :
    State.Evolves wet com s (t.changeVariant i v) := by
  unfold State.changeVariant; simp (maxDischargeDepth := 50) [h]

@[simp] theorem evolves_completeEqualise (h : State.Evolves wet com s t) (i : Str) :
    State.Evolves wet com s (t.completeEqualise i) := by
  unfold State.completeEqualise; simp (maxDischargeDepth := 50) [h]

@[simp] theorem evolves_endRound (h : State.Evolves wet com s t) (i : Str) (c : EndReason) :
    State.Evolves wet com s (t.endRound i c) := by
  unfold State.endRound; simp (maxDischargeDepth := 50) [h]

@[simp] theorem evolves_causeInReturn (h : State.Evolves wet com s t) (i : Str) (c : EndReason) :
    State.Evolves wet com s (t.causeInReturn i c) := by
  unfold State.causeInReturn; try dsimp only
  (repeat' split) <;> simp (maxDischargeDepth := 50) [h]

@[simp] theorem evolves_endCause (h : State.Evolves wet com s t) (i : Str) (c : EndReason) :
    State.Evolves wet com s (t.endCause i c) := by
  unfold State.endCause; split <;> simp (maxDischargeDepth := 50) [h]

@[simp] theorem evolves_matchTakesBus (h : State.Evolves wet com s t) (i : Str) :
    State.Evolves wet com s (t.matchTakesBus i) := by
  unfold State.matchTakesBus; simp (maxDischargeDepth := 50) [h]

@[simp] theorem evolves_handBus (h : State.Evolves wet com s t) (b : Option Nat) :
    State.Evolves wet com s (t.handBus b) := by
  unfold State.handBus; split
  · exact h
  · exact evolves_eachStr h _ fun i u k => evolves_matchTakesBus k i

@[simp] theorem evolves_recomputeBus (h : State.Evolves wet com s t) : State.Evolves wet com s (t.recomputeBus) := by
  unfold State.recomputeBus; simp (maxDischargeDepth := 50) [h]

@[simp] theorem evolves_judgeSpreadTimer (h : State.Evolves wet com s t) (i : Str) :
    State.Evolves wet com s (t.judgeSpreadTimer i) := by
  unfold State.judgeSpreadTimer; simp (maxDischargeDepth := 50) [h]

@[simp] theorem evolves_dischargeBegins (h : State.Evolves wet com s t) :
    State.Evolves wet com s (t.dischargeBegins) := by
  unfold State.dischargeBegins
  exact evolves_noticeAlarm (evolves_eachStr (evolves_discharge_holdoff h _ _) _ fun i u k => evolves_endCause k i _) _

@[simp] theorem evolves_dischargeEnds (h : State.Evolves wet com s t) : State.Evolves wet com s (t.dischargeEnds) := by
  unfold State.dischargeEnds; simp (maxDischargeDepth := 50) [h]

@[simp] theorem evolves_rejudgeDischarge (h : State.Evolves wet com s t) :
    State.Evolves wet com s (t.rejudgeDischarge) := by
  unfold State.rejudgeDischarge; simp (maxDischargeDepth := 50) [h]

@[simp] theorem evolves_onBusChanged (h : State.Evolves wet com s t) (i : Str) :
    State.Evolves wet com s (t.onBusChanged i) := by
  unfold State.onBusChanged; simp (maxDischargeDepth := 50) [h]

@[simp] theorem evolves_stateChanged (h : State.Evolves wet com s t) (i : Str) (b : StringState) :
    State.Evolves wet com s (t.stateChanged i b) := by
  unfold State.stateChanged; simp (maxDischargeDepth := 50) [h]

@[simp] theorem evolves_freeSlot (h : State.Evolves wet com s t) (i : Str) :
    State.Evolves wet com s (t.freeSlot i) := by
  unfold State.freeSlot; split <;> simp (maxDischargeDepth := 50) [h]

@[simp] theorem evolves_releaseHeld (h : State.Evolves wet com s t) (i : Str) :
    State.Evolves wet com s (t.releaseHeld i) := by
  unfold State.releaseHeld; split <;> simp (maxDischargeDepth := 50) [h]

@[simp] theorem evolves_toBusAndFree (h : State.Evolves wet com s t) (i : Str) :
    State.Evolves wet com s (t.toBusAndFree i) := by
  unfold State.toBusAndFree; simp (maxDischargeDepth := 50) [h]

@[simp] theorem evolves_completeReturn (h : State.Evolves wet com s t) (i : Str) :
    State.Evolves wet com s (t.completeReturn i) := by
  unfold State.completeReturn; simp (maxDischargeDepth := 50) [h]

@[simp] theorem evolves_enterFaulted (h : State.Evolves wet com s t) (i : Str) :
    State.Evolves wet com s (t.enterFaulted i) := by
  unfold State.enterFaulted; simp (maxDischargeDepth := 50) [h]

/-! ## Site Line Unit (SiteLine.lean) -/

@[simp] theorem evolves_genPulse (h : State.Evolves wet com s t) : State.Evolves wet com s (t.genPulse) :=
  evolves_modSite h _ rfl fun k => ⟨rfl, k.2⟩

@[simp] theorem evolves_genIdle (h : State.Evolves wet com s t) : State.Evolves wet com s (t.genIdle) :=
  evolves_modSite h _ rfl fun k => ⟨rfl, k.2⟩

@[simp] theorem evolves_genRequest (h : State.Evolves wet com s t) : State.Evolves wet com s (t.genRequest) := by
  unfold State.genRequest; split
  · next g =>
    have w := evolves_modSite h (fun x => { x with genWidth := t.lim.genreqWidth }) rfl id
    dsimp only; split
    · exact evolves_genPulse w
    · exact evolves_modSite w _ rfl fun k => ⟨k.1.trans (by simp [State.modSite, g]), k.2⟩
  · exact h

@[simp] theorem evolves_followActivity (h : State.Evolves wet com s t) :
    State.Evolves wet com s (t.followActivity) := by
  unfold State.followActivity
  exact evolves_modSite h _ rfl fun k => ⟨k.1, k.2.1, k.2.2.1, fun g => if_pos g⟩

@[simp] theorem evolves_followDuty (h : State.Evolves wet com s t) : State.Evolves wet com s (t.followDuty) :=
  evolves_modSite h _ rfl id

@[simp] theorem evolves_followMeasuring (h : State.Evolves wet com s t) :
    State.Evolves wet com s (t.followMeasuring) := by
  unfold State.followMeasuring
  refine evolves_modSite h _ rfl fun k => ⟨k.1, ?_, ?_, k.2.2.2⟩
  · dsimp only; split
    · exact k.2.1
    · exact Nat.zero_le _
  · dsimp only; split
    · exact k.2.2.1
    · exact Nat.zero_le _

@[simp] theorem evolves_followLamp (h : State.Evolves wet com s t) : State.Evolves wet com s (t.followLamp) :=
  evolves_modSite h _ rfl id

@[simp] theorem evolves_followSite (h : State.Evolves wet com s t) : State.Evolves wet com s (t.followSite) := by
  unfold State.followSite; simp (maxDischargeDepth := 50) [h]

/-! ## Slot sequencers (Slot.lean) -/

@[simp] theorem evolves_slotOrder (h : State.Evolves wet com s t) (sl : SlotId) (o : RectOrder) :
    State.Evolves wet com s (t.slotOrder sl o) := by
  unfold State.slotOrder; simp (maxDischargeDepth := 50) [h]

@[simp] theorem evolves_slotEnds (h : State.Evolves wet com s t) (sl : SlotId) (c : EndReason) :
    State.Evolves wet com s (t.slotEnds sl c) := by
  unfold State.slotEnds; split <;> simp (maxDischargeDepth := 50) [h]

@[simp] theorem evolves_judgeReasons (h : State.Evolves wet com s t) (sl : SlotId) :
    State.Evolves wet com s (t.judgeReasons sl) := by
  unfold State.judgeReasons; simp (maxDischargeDepth := 50) [h]

@[simp] theorem evolves_judgeCriterion (h : State.Evolves wet com s t) (sl : SlotId) :
    State.Evolves wet com s (t.judgeCriterion sl) := by
  unfold State.judgeCriterion; try dsimp only
  (repeat' split) <;> simp (maxDischargeDepth := 50) [h]

@[simp] theorem evolves_suspend (h : State.Evolves wet com s t) (sl : SlotId) (b : ResumeState) (o : RectOrder) :
    State.Evolves wet com s (t.suspend sl b o) := by
  unfold State.suspend; simp (maxDischargeDepth := 50) [h]

@[simp] theorem evolves_resume (h : State.Evolves wet com s t) (sl : SlotId) :
    State.Evolves wet com s (t.resume sl) := by
  unfold State.resume; split <;> simp (maxDischargeDepth := 50) [h]

@[simp] theorem evolves_actOnReasons (h : State.Evolves wet com s t) (sl : SlotId) :
    State.Evolves wet com s (t.actOnReasons sl) := by
  unfold State.actOnReasons; split <;> simp (maxDischargeDepth := 50) [h]

@[simp] theorem evolves_reviewReasons (h : State.Evolves wet com s t) (sl : SlotId) :
    State.Evolves wet com s (t.reviewReasons sl) := by
  unfold State.reviewReasons; simp (maxDischargeDepth := 50) [h]

@[simp] theorem evolves_beginStretch (h : State.Evolves wet com s t) (sl : SlotId) (b : ResumeState) :
    State.Evolves wet com s (t.beginStretch sl b) := by
  unfold State.beginStretch; try dsimp only
  (split) <;> simp (maxDischargeDepth := 50) [h]

@[simp] theorem evolves_startPhase (h : State.Evolves wet com s t) (sl : SlotId) (n : Nat) :
    State.Evolves wet com s (t.startPhase sl n) := by
  unfold State.startPhase; simp (maxDischargeDepth := 50) [h]

@[simp] theorem evolves_startWait (h : State.Evolves wet com s t) (sl : SlotId) (n : Nat) :
    State.Evolves wet com s (t.startWait sl n) := by
  unfold State.startWait; simp (maxDischargeDepth := 50) [h]

@[simp] theorem evolves_startWater (h : State.Evolves wet com s t) (sl : SlotId) (i : Str) :
    State.Evolves wet com s (t.startWater sl i) := by
  unfold State.startWater; simp (maxDischargeDepth := 50) [h]

@[simp] theorem evolves_startDirect (h : State.Evolves wet com s t) (sl : SlotId) :
    State.Evolves wet com s (t.startDirect sl) := by
  unfold State.startDirect; simp (maxDischargeDepth := 50) [h]

@[simp] theorem evolves_startEntry (n : Nat) : ∀ (t : State) (_ : State.Evolves wet com s t) (sl : SlotId), State.Evolves wet com s (t.startEntry sl n) := by
  induction n with
  | zero => intro t h sl; exact h
  | succ n ih =>
    intro t h sl
    have h' := evolves_modSlot h sl SlotRec.entryReset
    simp only [State.startEntry]
    split
    · exact evolves_startDirect h' sl
    · split
      · exact evolves_startPhase h' sl _
      · exact evolves_startWait h' sl _
      · exact evolves_slotEnds h' sl _
      · split
        · split
          · exact evolves_startWater h' sl _
          · exact ih _ (evolves_modSlot h' sl _) sl
        · exact h'

@[simp] theorem evolves_startAt (h : State.Evolves wet com s t) (sl : SlotId) :
    State.Evolves wet com s (t.startAt sl) := evolves_followSite (evolves_startEntry _ _ h _)

@[simp] theorem evolves_nextEntry (h : State.Evolves wet com s t) (sl : SlotId) :
    State.Evolves wet com s (t.nextEntry sl) := evolves_startAt (evolves_modSlot h _ _) _

@[simp] theorem evolves_cutDirect (h : State.Evolves wet com s t) (sl : SlotId) :
    State.Evolves wet com s (t.cutDirect sl) := by
  unfold State.cutDirect; simp (maxDischargeDepth := 50) [h]

@[simp] theorem evolves_backOffStep (h : State.Evolves wet com s t) (sl : SlotId) :
    State.Evolves wet com s (t.backOffStep sl) := by
  unfold State.backOffStep; try dsimp only
  (repeat' split) <;> simp (maxDischargeDepth := 50) [h]

@[simp] theorem evolves_cellVoltageArrives (h : State.Evolves wet com s t) (sl : SlotId) (v : Nat) :
    State.Evolves wet com s (t.cellVoltageArrives sl v) := by
  unfold State.cellVoltageArrives; simp (maxDischargeDepth := 50) [h]

@[simp] theorem evolves_temperatureArrives (h : State.Evolves wet com s t) (sl : SlotId) (v : Option Int) :
    State.Evolves wet com s (t.temperatureArrives sl v) := by
  unfold State.temperatureArrives; try dsimp only
  (repeat' split) <;> simp (maxDischargeDepth := 50) [h]

@[simp] theorem evolves_directRequest (h : State.Evolves wet com s t) (sl : SlotId) (v i : Nat) :
    State.Evolves wet com s (t.directRequest sl v i) := by
  unfold State.directRequest; try dsimp only
  (repeat' split) <;> simp (maxDischargeDepth := 50) [h]

@[simp] theorem evolves_endWaterWait (h : State.Evolves wet com s t) (sl : SlotId) :
    State.Evolves wet com s (t.endWaterWait sl) := by
  unfold State.endWaterWait; simp (maxDischargeDepth := 50) [h]

@[simp] theorem evolves_reportToSlot (h : State.Evolves wet com s t) (i : Str) :
    State.Evolves wet com s (t.reportToSlot i) := by
  unfold State.reportToSlot; split <;> simp (maxDischargeDepth := 50) [h]

@[simp] theorem evolves_startRound (h : State.Evolves wet com s t) (sl : SlotId) :
    State.Evolves wet com s (t.startRound sl) := evolves_startAt (evolves_modSlot h _ _) _

/-! ## Charge Account Unit (Accounts.lean) -/

theorem Cell.accrue_ok (mg : Nat) {c : Cell} (h : c.Ok) : (c.accrue mg).Ok :=
  ⟨by simp only [Cell.accrue]; omega, h.2⟩


@[simp] theorem evolves_accrueWater (h : State.Evolves true com s t) (i : Str) (mg : Nat) :
    State.Evolves true com s (t.accrueWater i mg) := by
  unfold State.accrueWater; split
  · exact h
  · exact evolves_foldl _ _ (fun u p k => evolves_modCell k _ _ fun c hc => Cell.accrue_ok mg hc) t h

@[simp] theorem evolves_accountChanged (h : State.Evolves wet com s t) (i : Str) (c : Charge) :
    State.Evolves wet com s (t.accountChanged i c) := by
  unfold State.accountChanged; simp (maxDischargeDepth := 50) [h]

@[simp] theorem evolves_integrateReading (h : State.Evolves true com s t) (i : Str) (c : Int) :
    State.Evolves true com s (t.integrateReading i c) := by
  unfold State.integrateReading; try dsimp only
  (split) <;> simp (maxDischargeDepth := 50) [h]

@[simp] theorem evolves_clearHoldoff (h : State.Evolves wet com s t) (i : Str) :
    State.Evolves wet com s (t.clearHoldoff i) := by
  unfold State.clearHoldoff; split <;> simp (maxDischargeDepth := 50) [h]

@[simp] theorem evolves_evaluateDue (h : State.Evolves wet com s t) (i : Str) :
    State.Evolves wet com s (t.evaluateDue i) := by
  unfold State.evaluateDue; try dsimp only
  (repeat' split) <;> simp (maxDischargeDepth := 50) [h]

@[simp] theorem evolves_judgeWaterDue (h : State.Evolves wet com s t) (i : Str) :
    State.Evolves wet com s (t.judgeWaterDue i) := by
  unfold State.judgeWaterDue; simp (maxDischargeDepth := 50) [h]

@[simp] theorem evolves_holdoffEnds (h : State.Evolves wet com s t) : State.Evolves wet com s (t.holdoffEnds) := by
  unfold State.holdoffEnds; simp (maxDischargeDepth := 50) [h]

/-! ## Watering Unit (Watering.lean) -/

@[simp] theorem evolves_handValve (h : State.Evolves wet com s t) (i : Str) (a : List Alter) :
    State.Evolves wet com s (t.handValve i a) := by
  unfold State.handValve; simp (maxDischargeDepth := 50) [h]

theorem Cell.afterClose_ok (ml : Nat) (p o : Bool) (d : Nat) {c : Cell} (h : c.Ok) : (c.afterClose ml p o d).Ok := by
  obtain ⟨h1, h2⟩ := h
  unfold Cell.afterClose
  dsimp only
  split
  · exact ⟨by dsimp only; omega, by dsimp only; omega⟩
  · split <;> exact ⟨by dsimp only; omega, by dsimp only; omega⟩


@[simp] theorem evolves_accountClose (h : State.Evolves true com s t) (i : Str) (p : Pos) (ml : Nat) (o : Bool) :
    State.Evolves true com s (t.accountClose i p ml o) := by
  unfold State.accountClose
  refine evolves_modWater (evolves_modCell (evolves_modWater h _ ?_) _ _ ?_) _ ?_
  · exact fun _ => .inl ⟨rfl, rfl⟩
  · exact fun c hc => Cell.afterClose_ok ml _ o _ hc
  · exact fun _ => .inl ⟨rfl, rfl⟩

@[simp] theorem evolves_startGap (h : State.Evolves wet com s t) : State.Evolves wet com s (t.startGap) := by
  unfold State.startGap; simp (maxDischargeDepth := 50) [h]

@[simp] theorem evolves_closeValve (h : State.Evolves true com s t) (i : Str) (p : Pos) (ml : Nat) (o : Bool) :
    State.Evolves true com s (t.closeValve i p ml o) := by
  unfold State.closeValve; simp (maxDischargeDepth := 50) [h]

@[simp] theorem evolves_endWatering (h : State.Evolves wet com s t) (i : Str) (c : EndReason) :
    State.Evolves wet com s (t.endWatering i c) := by
  unfold State.endWatering; simp (maxDischargeDepth := 50) [h, Water.ended]

@[simp] theorem evolves_accountOpen (h : State.Evolves true com s t) (i : Str) :
    State.Evolves true com s (t.accountOpen i) := by
  unfold State.accountOpen
  refine evolves_foldl _ _ (fun u p k => ?_) t h
  split
  · exact evolves_accountClose k i p _ _
  · exact k

@[simp] theorem evolves_endWateringEarly (h : State.Evolves true com s t) (c : EndReason) :
    State.Evolves true com s (t.endWateringEarly c) := by
  unfold State.endWateringEarly; try dsimp only
  (split) <;> simp (maxDischargeDepth := 50) [h]

@[simp] theorem evolves_restartWatering (h : State.Evolves true com s t) :
    State.Evolves true com s (t.restartWatering) := by
  unfold State.restartWatering; try dsimp only
  (split) <;> simp (maxDischargeDepth := 50) [h]

@[simp] theorem evolves_formGroup (h : State.Evolves wet com s t) (i : Str) :
    State.Evolves wet com s (t.formGroup i) := by
  unfold State.formGroup; simp (maxDischargeDepth := 50) [h]

@[simp] theorem evolves_nothingToWater (h : State.Evolves wet com s t) (i : Str) (r : Reason) :
    State.Evolves wet com s (t.nothingToWater i r) := by
  unfold State.nothingToWater; simp (maxDischargeDepth := 50) [h]

@[simp] theorem evolves_beginWatering (h : State.Evolves wet com s t) (i : Str) (r : Reason) :
    State.Evolves wet com s (t.beginWatering i r) := by
  unfold State.beginWatering; simp (maxDischargeDepth := 50) [h]

@[simp] theorem evolves_endGap (h : State.Evolves wet com s t) (i : Str) : State.Evolves wet com s (t.endGap i) := by
  unfold State.endGap; simp (maxDischargeDepth := 50) [h]

@[simp] theorem evolves_orderSent (h : State.Evolves wet com s t) (n : Nat) (f : Frame) :
    State.Evolves wet com s (t.orderSent n f) := by
  unfold State.orderSent; simp (maxDischargeDepth := 50) [h]

@[simp] theorem evolves_highArrives (h : State.Evolves true com s t) (i : Str) (p : Pos) :
    State.Evolves true com s (t.highArrives i p) := by
  unfold State.highArrives; try dsimp only
  (repeat' split) <;> simp (maxDischargeDepth := 50) [h]

theorem Cell.confirmed_ok {c : Cell} (h : c.Ok) : c.confirmed.Ok := by
  unfold Cell.confirmed; split
  · exact ⟨h.1, by dsimp only; omega⟩
  · exact h

theorem Cell.deadlineExpired_ok {c : Cell} (h : c.Ok) : c.deadlineExpired.Ok := by
  obtain ⟨h1, h2⟩ := h
  unfold Cell.deadlineExpired
  dsimp only
  split <;> exact ⟨by dsimp only; omega, by dsimp only; omega⟩


@[simp] theorem evolves_levelArrives (h : State.Evolves true com s t) (i : Str) (p : Pos) (lv : Level) :
    State.Evolves true com s (t.levelArrives i p lv) := by
  have k : State.Evolves true com s (if lv = .high then t.highArrives i p else t) := evolves_ite (evolves_highArrives h i p) h
  unfold State.levelArrives
  exact evolves_ite (evolves_modCell k _ _ fun c hc => Cell.confirmed_ok hc) k

@[simp] theorem evolves_deadlineExpires (h : State.Evolves true com s t) (i : CellIx) :
    State.Evolves true com s (t.deadlineExpires i) := by
  have k := evolves_modCell h i Cell.deadlineExpired fun c hc => Cell.deadlineExpired_ok hc
  unfold State.deadlineExpires; simp (maxDischargeDepth := 50) [k]

@[simp] theorem evolves_setReservoir (h : State.Evolves wet com s t) (ml : Nat) :
    State.Evolves wet com s (t.setReservoir ml) := by
  unfold State.setReservoir; simp (maxDischargeDepth := 50) [h]

@[simp] theorem evolves_refillTo (h : State.Evolves wet com s t) (ml : Nat) :
    State.Evolves wet com s (t.refillTo ml) := by
  unfold State.refillTo; simp (maxDischargeDepth := 50) [h]

/-! ## Scheduler (Scheduler.lean) -/

@[simp] theorem evolves_setup (h : State.Evolves wet com s t) (i : Str) : State.Evolves wet com s (t.setup i) := by
  unfold State.setup; simp (maxDischargeDepth := 50) [h]

@[simp] theorem evolves_admitEqualise (h : State.Evolves wet com s t) (e : Entry) (sl : SlotId) :
    State.Evolves wet com s (t.admitEqualise e sl) := by
  unfold State.admitEqualise; simp (maxDischargeDepth := 50) [h]

@[simp] theorem evolves_admitWater (h : State.Evolves wet com s t) (e : Entry) :
    State.Evolves wet com s (t.admitWater e) := by
  unfold State.admitWater; simp (maxDischargeDepth := 50) [h]

theorem evolves_scanEntry (edge : Bool) (c : ScanState) (k : Str × RoundKind) (h : State.Evolves wet com s c.state) :
    State.Evolves wet com s (scanEntry edge c k).state := by
  unfold scanEntry
  split
  · exact h
  · split
    · split
      · split
        · exact evolves_keepMarks (evolves_admitEqualise h _ _) _
        · exact h
      · exact h
    · split
      · exact evolves_admitWater h _
      · exact h


@[simp] theorem evolves_scanOnce (h : State.Evolves wet com s t) (edge : Bool) :
    State.Evolves wet com s (t.scanOnce edge) := by
  unfold State.scanOnce
  generalize t.queue.map _ = l
  suffices ∀ (c : ScanState), State.Evolves wet com s c.state → State.Evolves wet com s (l.foldl (scanEntry edge) c).state from this ⟨t, false⟩ h
  induction l with
  | nil => exact fun c h => h
  | cons a l ih => exact fun c h => ih _ (evolves_scanEntry edge c a h)

@[simp] theorem evolves_runScans (n : Nat) : ∀ (t : State) (_ : State.Evolves wet com s t), State.Evolves wet com s (t.runScans n) := by
  induction n with
  | zero => exact fun t h => evolves_marks h _
  | succ n ih =>
    intro t h
    unfold State.runScans; split
    · exact ih _ (evolves_scanOnce (evolves_marks h _) _)
    · exact h


@[simp] theorem evolves_scan (h : State.Evolves wet com s t) :
    State.Evolves wet com s (t.scan) := evolves_runScans _ t h

/-! ## Record Store (Records.lean) -/

@[simp] theorem evolves_recompute (h : State.Evolves wet com s t) (i : Str) :
    State.Evolves wet com s (t.recompute i) := by
  unfold State.recompute; simp (maxDischargeDepth := 50) [h]

@[simp] theorem evolves_handDerived (h : State.Evolves wet com s t) (i : Str) (r : Reading) :
    State.Evolves wet com s (t.handDerived i r) := by
  have h1 : State.Evolves wet com s (if (t.reading i).freshCells = r.freshCells then t
      else t.markScan.onSlotOf i fun sl s => s.reviewReasons sl) :=
    evolves_ite h (evolves_onSlotOf (evolves_markScan h) _ _ fun sl u k => evolves_reviewReasons k sl)
  unfold State.handDerived
  dsimp only
  refine evolves_ite ?_ (evolves_onSlotOf (evolves_judgeSpreadTimer ?_ i) _ _ fun sl u k => evolves_judgeCriterion k sl)
  all_goals
    exact evolves_ite h1 (evolves_onSlotOf (evolves_markScan h1) _ _ fun sl u k => evolves_temperatureArrives k sl _)

@[simp] theorem evolves_handDry (h : State.Evolves wet com s t) (i : Str) (r : Reading) :
    State.Evolves wet com s (t.handDry i r) := by
  unfold State.handDry; simp (maxDischargeDepth := 50) [h]

theorem Cell.take_ok (now st : Nat) (r : CellReading) (lv : Option Level) {c : Cell} (h : c.Ok) :
    (c.take now st r lv).Ok := by
  obtain ⟨h1, h2⟩ := h
  unfold Cell.take
  split <;> split <;> split <;> first | exact ⟨h1, h2⟩ | exact ⟨Nat.zero_le _, h2⟩


@[simp] theorem evolves_absorbCell (h : State.Evolves true com s t) (i : Str) (p : Pos) (r : CellReading) :
    State.Evolves true com s (t.absorbCell i p r) := by
  unfold State.absorbCell
  split
  · exact h
  · have k := evolves_recompute (evolves_modCell h (cellIx i p)
      (Cell.take t.now t.staleMs r (if (t.cfg i).hasProbe p then levelOf r.levelCode else none)) fun c hc =>
        Cell.take_ok _ _ r _ hc) i
    dsimp only
    refine evolves_handDry ?_ i _
    split
    · refine evolves_levelArrives (evolves_handDerived ?_ i _) i p _
      split
      · exact evolves_onSlotOf (evolves_ite (evolves_noticeCell k _ _ _) k) _ _ fun sl u k => evolves_cellVoltageArrives k sl _
      · exact evolves_ite (evolves_noticeCell k _ _ _) k
    · refine evolves_handDerived ?_ i _
      split
      · exact evolves_onSlotOf (evolves_ite (evolves_noticeCell k _ _ _) k) _ _ fun sl u k => evolves_cellVoltageArrives k sl _
      · exact evolves_ite (evolves_noticeCell k _ _ _) k

@[simp] theorem evolves_absorbShunt (h : State.Evolves true com s t) (i : Str) (r : ShuntReading) :
    State.Evolves true com s (t.absorbShunt i r) := by
  unfold State.absorbShunt
  refine evolves_ite h (evolves_handBus (evolves_ite (evolves_judgeWindow (evolves_integrateReading ?_ i _) i)
    (evolves_integrateReading ?_ i _)) _)
  all_goals
    split
    · exact evolves_ite (evolves_bus (evolves_modReading h _ _) _) (evolves_modReading h _ _)
    · exact h

@[simp] theorem evolves_setupConfirmed (h : State.Evolves wet com s t) (i : Str) :
    State.Evolves wet com s (t.setupConfirmed i) :=
  evolves_onSlotOf (evolves_stateChanged (evolves_modControl h _ _) _ _) _ _ fun sl _ k => evolves_startRound k sl

@[simp] theorem evolves_busInEqualising (h : State.Evolves wet com s t) (i : Str) :
    State.Evolves wet com s (t.busInEqualising i) := by
  unfold State.busInEqualising; simp (maxDischargeDepth := 50) [h]

@[simp] theorem evolves_positionArrives (h : State.Evolves wet com s t) (i : Str) (c : Contact) :
    State.Evolves wet com s (t.positionArrives i c) := by
  unfold State.positionArrives; try dsimp only
  (split) <;> simp (maxDischargeDepth := 50) [h]

@[simp] theorem evolves_absorbPosition (h : State.Evolves wet com s t) (i : Str) (r : PositionReading) :
    State.Evolves wet com s (t.absorbPosition i r) := by
  unfold State.absorbPosition; try dsimp only
  (repeat' split) <;> simp (maxDischargeDepth := 50) [h]

@[simp] theorem evolves_absorb (h : State.Evolves true com s t) (f : Frame) :
    State.Evolves true com s (t.absorb f) := by
  unfold State.absorb; try dsimp only
  (repeat' split) <;> simp (maxDischargeDepth := 50) [h]

@[simp] theorem evolves_becomeStale (h : State.Evolves true com s t) (m : Measured) :
    State.Evolves true com s (t.becomeStale m) := by
  unfold State.becomeStale; split
  · next i =>
    have k := evolves_modCell h i (fun c => { c with vExpiry := none }) fun c hc => hc
    exact evolves_handDry (evolves_handDerived (evolves_recompute k _) _ _) _ _
  · next i =>
    have k := evolves_modCell h i (fun c => { c with tExpiry := none }) fun c hc => hc
    exact evolves_handDry (evolves_handDerived (evolves_recompute k _) _ _) _ _
  · simp (maxDischargeDepth := 50) [h]

/-! ## Site events and sight (SiteEvents.lean) -/

@[simp] theorem evolves_srcChanges (h : State.Evolves wet com s t) : State.Evolves wet com s (t.srcChanges) := by
  have k := evolves_eachSlot h (fun sl s => s.reviewReasons sl) fun sl u k => evolves_reviewReasons k sl
  unfold State.srcChanges; simp (maxDischargeDepth := 50) [k]

@[simp] theorem evolves_reslowRises (h : State.Evolves true com s t) : State.Evolves true com s (t.reslowRises) := by
  unfold State.reslowRises; simp (maxDischargeDepth := 50) [h]

@[simp] theorem evolves_endTriggered (h : State.Evolves wet com s t) (c : EndReason) :
    State.Evolves wet com s (t.endTriggered c) :=
  evolves_eachStr h _ fun i _ k => evolves_ite (evolves_endCause k i c) k

@[simp] theorem evolves_allowanceExhausted (h : State.Evolves wet com s t) :
    State.Evolves wet com s (t.allowanceExhausted) :=
  evolves_eachSlot h _ fun sl _ k => evolves_ite (evolves_slotEnds k sl _) k

@[simp] theorem evolves_allowanceMinute (h : State.Evolves wet com s t) (b : Bool) :
    State.Evolves wet com s (t.allowanceMinute b) := by
  unfold State.allowanceMinute
  refine evolves_modSite ?_ _ rfl id
  refine evolves_ite (evolves_modSite h _ rfl id) (evolves_ite ?_ h)
  exact evolves_ite (evolves_allowanceExhausted (evolves_modSite h _ rfl id)) (evolves_modSite h _ rfl id)

@[simp] theorem evolves_accountMinute (h : State.Evolves wet com s t) (b : Bool) :
    State.Evolves wet com s (t.accountMinute b) := by
  unfold State.accountMinute
  refine evolves_eachStr ?_ _ fun i u k => evolves_judgeWaterDue k i
  refine evolves_eachStr ?_ _ fun i u k => evolves_evaluateDue k i
  refine evolves_eachStr ?_ _ fun i u k => evolves_clearHoldoff k i
  exact evolves_ite (evolves_eachStr h _ fun i u k => evolves_ite (evolves_modCharge k _ _) k) h

theorem evolves_repeatDue (h : State.Evolves wet com s t) (d : Option Nat) :
    State.Evolves wet com s (t.modRing fun r => { r with repeatDue := d }) :=
  evolves_modRing h _ rfl List.prefix_rfl (fun k => { k with }) id

theorem evolves_sight (h : State.Evolves wet com s t) (v : Sight) (d : Option Nat) :
    State.Evolves wet com s (t.modRing fun r => { r with sight := v, repeatDue := d }) :=
  evolves_modRing h _ rfl List.prefix_rfl (fun k => { k with }) id


@[simp] theorem evolves_restoreSight (h : State.Evolves wet com s t) (b : Bool) :
    State.Evolves wet com s (t.restoreSight b) := by
  have k := evolves_eachSlot (evolves_followSite (evolves_sight h .seeing none)) (fun sl s => s.reviewReasons sl) fun sl u k =>
    evolves_reviewReasons k sl
  unfold State.restoreSight; simp (maxDischargeDepth := 50) [h, k]

@[simp] theorem evolves_goWarn (h : State.Evolves wet com s t) :
    State.Evolves wet com s (t.goWarn) :=
  evolves_eachSlot (evolves_modRing h _ rfl List.prefix_rfl (fun k => { k with }) id) _ fun sl _ k => evolves_reviewReasons k sl

@[simp] theorem evolves_safeOrders (h : State.Evolves wet com s t) : State.Evolves wet com s (t.safeOrders) := by
  unfold State.safeOrders
  refine evolves_eachStr h _ fun i u k => ?_
  split
  · exact evolves_ite (evolves_handContactor (evolves_handRect k _ _) _ _) k
  · exact k

@[simp] theorem evolves_blindOrders (h : State.Evolves wet com s t) : State.Evolves wet com s (t.blindOrders) := by
  unfold State.blindOrders
  exact evolves_repeatDue (evolves_safeOrders h) _

@[simp] theorem evolves_goBlind (h : State.Evolves true com s t) : State.Evolves true com s (t.goBlind) := by
  have h1 : State.Evolves true com s (t.modRing fun r => { r with sight := .blind }) :=
    evolves_modRing h _ rfl List.prefix_rfl (fun k => { k with }) id
  have h2 := evolves_endWateringEarly (evolves_eachStr h1 (fun i s => s.endCause i .blind) fun i u k =>
    evolves_endCause k i _) .blind
  have h3 := evolves_eachSlot h2 (fun sl s => s.reviewReasons sl) fun sl u k => evolves_reviewReasons k sl
  unfold State.goBlind; simp (maxDischargeDepth := 50) [h2, h3]

@[simp] theorem evolves_reviewSilence (h : State.Evolves true com s t) :
    State.Evolves true com s (t.reviewSilence) := by
  unfold State.reviewSilence; simp (maxDischargeDepth := 50) [h]

/-! ## Commits (Commit.lean) -/

@[simp] theorem evolves_recomputeAll (h : State.Evolves wet com s t) : State.Evolves wet com s (t.recomputeAll) := by
  unfold State.recomputeAll
  refine evolves_recomputeBus (evolves_eachStr h _ fun i u k => ?_)
  exact evolves_ite (evolves_handDry (evolves_handDerived (evolves_recompute k i) i _) i _) k

theorem mapVector_get {α β : Type} {n : Nat} (f : α → β) (v : Vector α n) (i : Nat) (hi : i < n) :
    (mapVector f v)[i] = f v[i] := by
  simp [mapVector, Vector.getElem_mk]


@[simp] theorem evolves_staleChanged (h : State.Evolves true com s t) (b : Nat) :
    State.Evolves true com s (t.staleChanged b) := by
  unfold State.staleChanged; split
  · exact h
  · refine evolves_recomputeAll (h.trans ⟨rfl, rfl, rfl, rfl, rfl, rfl, fun d => (by cases d), fun _ => ⟨rfl, rfl, rfl⟩,
      List.prefix_rfl, id, id, ?_, id, id, id⟩)
    intro k i
    have := k i
    simp only [State.cell, mapVector_get]
    exact this

@[simp] theorem evolves_limitsApplied (h : State.Evolves true com s t) (b : Nat) :
    State.Evolves true com s (t.limitsApplied b) := by
  unfold State.limitsApplied
  exact evolves_reviewSilence (evolves_modSite (evolves_setReservoir (evolves_staleChanged h b) _) _ rfl
    fun k => ⟨k.1, Nat.zero_le _, Nat.zero_le _, k.2.2.2⟩)

theorem commitCell_ok (o n : StringCfg) (p : Pos) {c : Cell} (h : c.Ok) : (commitCell o n p c).Ok := by
  have k : Cell.Ok {} := ⟨by decide, by decide⟩
  have lv : ∀ (d : Cell), d.Ok → ∀ l : Level, Cell.Ok { d with level := l } := fun d hd _ => hd
  unfold commitCell
  split
  · exact k
  · extract_lets m d
    have hd : d.Ok := by
      show Cell.Ok (if m then {} else c)
      split
      · exact k
      · exact h
    split
    · exact hd
    · split
      · exact lv d hd _
      · exact hd


@[simp] theorem evolves_commitString (h : State.Evolves true com s t) (o : List Byte) (i : Str) :
    State.Evolves true com s (t.commitString o i) := by
  unfold State.commitString
  refine evolves_modStr (evolves_foldl _ _ (fun u p k => ?_) t h) _ _
  exact evolves_modCell k _ _ fun c hc => commitCell_ok _ _ p hc

@[simp] theorem evolves_removeAtCommit (h : State.Evolves wet com s t) (g d : Entry → Bool) :
    State.Evolves wet com s (t.removeAtCommit g d) := by
  unfold State.removeAtCommit
  exact evolves_foldl _ _ (fun u e k => evolves_noticeDropped k _ _) _ (evolves_queue h _ fun q => q.filter _)

@[simp] theorem evolves_stringsApplied (h : State.Evolves true com s t) (o : List Byte) :
    State.Evolves true com s (t.stringsApplied o) := by
  unfold State.stringsApplied
  refine evolves_removeAtCommit (evolves_rejudgeDischarge (evolves_eachStr (evolves_recomputeAll ?_) _ fun i u k => ?_)) _ _
  · exact evolves_eachStr h _ fun i u k => evolves_commitString k o i
  · exact evolves_ite (evolves_judgeSpreadTimer k i) k

@[simp] theorem evolves_recipesJudged (h : State.Evolves wet com s t) : State.Evolves wet com s (t.recipesJudged) := by
  unfold State.recipesJudged; simp (maxDischargeDepth := 50) [h]

@[simp] theorem evolves_blocksAct (h : State.Evolves true true s t) (x : TableId) (o : List Byte) (b : Nat) :
    State.Evolves true true s (t.blocksAct x o b) := by
  unfold State.blocksAct; split
  · exact evolves_limitsApplied h b
  · exact evolves_stringsApplied h o
  · exact evolves_recipesJudged h
  · exact evolves_recipesJudged h
  · exact evolves_modRing h _ rfl List.prefix_rfl (fun k => { k with }) id (fun d => by cases d)

/-- What the blocks make of a new image leaves the images and the Management Agent as they are. -/
theorem State.blocksAct_images (t : State) (x : TableId) (o : List Byte) (b : Nat) :
    (t.blocksAct x o b).images = t.images ∧ (t.blocksAct x o b).mgmt = t.mgmt := by
  have key : ∀ v, State.Evolves true false t v → v.images = t.images ∧ v.mgmt = t.mgmt :=
    fun v h => ⟨(h.images rfl).1, (h.images rfl).2.1⟩
  cases x
  · exact key _ (evolves_limitsApplied (.refl t) b)
  · exact key _ (evolves_stringsApplied (.refl t) o)
  · exact key _ (evolves_recipesJudged (.refl t))
  · exact key _ (evolves_recipesJudged (.refl t))
  · exact ⟨rfl, rfl⟩

@[simp] theorem evolves_engage (h : State.Evolves wet true s t) : State.Evolves wet true s (t.engage) := by
  unfold State.engage; exact evolves_markScan (evolves_modMgmt h _ rfl)

@[simp] theorem evolves_applyImage (h : State.Evolves true true s t) (x : TableId) (b : List Byte) :
    State.Evolves true true s (t.applyImage x b) := by
  have h1 := evolves_modMgmt (evolves_images h (t.images.put x b)) (fun m => { m with loaded := m.loaded.add x }) rfl
  have h2 := evolves_modMgmt (evolves_blocksAct h1 x (t.images.get x) t.staleMs) Mgmt.emptied rfl
  unfold State.applyImage
  exact evolves_markScan (evolves_ite (evolves_engage h2) h2)

@[simp] theorem evolves_applyPending (h : State.Evolves true true s t) :
    State.Evolves true true s (t.applyPending) := by
  unfold State.applyPending; split <;> simp (maxDischargeDepth := 50) [h]

@[simp] theorem evolves_deferredCommit (h : State.Evolves true true s t) :
    State.Evolves true true s (t.deferredCommit) := by
  have k := evolves_marks h { t.marks with commit := false }
  unfold State.deferredCommit; exact evolves_ite (evolves_applyPending k) k

end

end Sys2Proof.Machine
end

