-- ==== Sys2Proof/Laws/Settle.lean ====
section
/-! SUPPORT. What the passing of time, the output arbiter and the settlement of an event leave and keep. -/

namespace Sys2Proof.Machine

/-! ## The bounds along an evolution -/

/-- What the blocks make of a state keeps every bound of a run. -/
theorem State.Evolves.ok {wet com : Bool} {s t : State} (h : State.Evolves wet com s t) (k : s.Ok) : t.Ok := by
  have hm : t.mgmt.clock = s.mgmt.clock := congrArg (fun x => x.2.2.2.1) h.mgmt
  have hr : t.ring.gasStop = s.ring.gasStop := congrArg (fun x => x.1.2.2.2.2) h.ring
  have hs : t.site.gasLatch = s.site.gasLatch := congrArg (fun x => x.2.2.1) h.site
  refine ⟨h.ringOk k.ring, h.countsOk k.counts, h.cellsOk k.cells, ?_, ?_, h.queueOk k.queue, h.siteOk k.site,
    h.pumpOk k.pump⟩
  · rw [hm]; exact k.clock
  · have := k.gas
    unfold State.GasOk at this ⊢
    rw [hr, hs]; exact this

section
variable {wet com : Bool} {s t : State}

theorem State.Evolves.ownAddress (h : State.Evolves wet com s t) : t.ring.ownAddress = s.ring.ownAddress :=
  congrArg (fun x => x.1.1) h.ring

theorem State.Evolves.rx (h : State.Evolves wet com s t) : t.ring.rx = s.ring.rx :=
  congrArg (fun x => x.1.2.1) h.ring

theorem State.Evolves.rxLast (h : State.Evolves wet com s t) : t.ring.rxLast = s.ring.rxLast :=
  congrArg (fun x => x.1.2.2.1) h.ring

theorem State.Evolves.lastGood (h : State.Evolves wet com s t) : t.ring.lastGood = s.ring.lastGood :=
  congrArg (fun x => x.1.2.2.2.1) h.ring

theorem State.Evolves.gasStop (h : State.Evolves wet com s t) : t.ring.gasStop = s.ring.gasStop :=
  congrArg (fun x => x.1.2.2.2.2) h.ring

theorem State.Evolves.forward (h : State.Evolves wet com s t) : t.ring.forward = s.ring.forward :=
  congrArg (fun x => x.2.1.1) h.ring

theorem State.Evolves.sending (h : State.Evolves wet com s t) : t.ring.sending = s.ring.sending :=
  congrArg (fun x => x.2.1.2.1) h.ring

theorem State.Evolves.counts (h : State.Evolves wet com s t) : t.ring.counts.kept = s.ring.counts.kept :=
  congrArg (fun x => x.2.2) h.ring

theorem State.Evolves.src (h : State.Evolves wet com s t) : t.site.src = s.site.src :=
  congrArg (fun x => x.1.1) h.site

theorem State.Evolves.gas (h : State.Evolves wet com s t) : t.site.gas = s.site.gas :=
  congrArg (fun x => x.1.2.1) h.site

theorem State.Evolves.reslow (h : State.Evolves wet com s t) : t.site.reslow = s.site.reslow :=
  congrArg (fun x => x.1.2.2.1) h.site

theorem State.Evolves.trig (h : State.Evolves wet com s t) : t.site.trig = s.site.trig :=
  congrArg (fun x => x.1.2.2.2) h.site

theorem State.Evolves.gasLatch (h : State.Evolves wet com s t) : t.site.gasLatch = s.site.gasLatch :=
  congrArg (fun x => x.2.2.1) h.site

theorem State.Evolves.fanFail (h : State.Evolves wet com s t) : t.site.fanFail = s.site.fanFail :=
  congrArg (fun x => x.2.2.2) h.site

theorem State.Evolves.cursor (h : State.Evolves wet com s t) : t.mgmt.cursor = s.mgmt.cursor :=
  congrArg (fun x => x.1) h.mgmt

theorem State.Evolves.clock (h : State.Evolves wet com s t) : t.mgmt.clock = s.mgmt.clock :=
  congrArg (fun x => x.2.2.2.1) h.mgmt

theorem State.Evolves.minuteEnd (h : State.Evolves wet com s t) : t.mgmt.minuteEnd = s.mgmt.minuteEnd :=
  congrArg (fun x => x.2.2.2.2) h.mgmt

end

/-! ## The arbiter (R167) -/

/-- The arbiter keeps the Ring Port's bounds. -/
theorem Ring.arbitrate_ok {r : Ring} (now : Nat) (h : r.Ok) : (r.arbitrate now).Ok := by
  unfold Ring.arbitrate
  split
  · exact h
  · split
    · unfold Ring.beginReply
      split
      · exact h
      · next e =>
        have hl := h.replies
        rw [e] at hl
        refine { h with replies := ?_, replyWait := Nat.zero_le _, fwdSkip := ?_ }
        · simp only [List.length_cons] at hl ⊢; omega
        · have := h.fwdSkip
          dsimp only [Ring.skipUp]; split <;> omega
    · unfold Ring.beginForward
      split
      · exact h
      · next e =>
        have hl := h.forward
        rw [e] at hl
        refine { h with forward := ?_, replyWait := ?_, fwdSkip := Nat.zero_le _ }
        · simp only [List.length_cons] at hl ⊢; omega
        · have := h.replyWait
          dsimp only [Ring.waitUp]; split <;> omega
    · unfold Ring.beginOrder
      split
      · exact h
      · next e =>
        have hl := h.orders
        have h1 := h.oneEach
        have h2 := h.gas
        rw [e] at hl h1 h2
        refine { h with orders := ?_, replyWait := ?_, fwdSkip := ?_, oneEach := ?_, gas := ?_ }
        · simp only [List.length_cons] at hl ⊢; omega
        · have := h.replyWait
          dsimp only [Ring.waitUp]; split <;> omega
        · have := h.fwdSkip
          dsimp only [Ring.skipUp]; split <;> omega
        · exact List.Nodup.of_cons (by simpa [oneOrderEach] using h1)
        · exact fun g w hw => h2 g w (List.mem_cons_of_mem _ hw)
    · exact h

/-- The arbiter takes from the three places alone: what it keeps of the Ring Port. -/
theorem Ring.arbitrate_kept (now : Nat) (r : Ring) :
    (r.arbitrate now).ownAddress = r.ownAddress ∧ (r.arbitrate now).rx = r.rx ∧ (r.arbitrate now).rxLast = r.rxLast
      ∧ (r.arbitrate now).counts = r.counts ∧ (r.arbitrate now).noticeLost = r.noticeLost
      ∧ (r.arbitrate now).gasStop = r.gasStop ∧ (r.arbitrate now).sight = r.sight
      ∧ (r.arbitrate now).lastGood = r.lastGood ∧ (r.arbitrate now).repeatDue = r.repeatDue
      ∧ (r.arbitrate now).thin = r.thin ∧ (r.arbitrate now).orderCount = r.orderCount := by
  unfold Ring.arbitrate Ring.beginReply Ring.beginForward Ring.beginOrder
  (repeat' split) <;> simp

/-- While a frame is being sent the arbiter does nothing. -/
theorem Ring.arbitrate_sending {now : Nat} {r : Ring} {x : Sending} (h : r.sending = some x) : r.arbitrate now = r := by
  simp [Ring.arbitrate, h]

/-! ## Settlement (log 5) -/

/-- The settlement of an event: what the blocks make of it, and then the arbiter, with the marks cleared. -/
theorem State.settle_blocks (s : State) :
    ∃ u : State, State.Evolves true true s u ∧ s.settle = { u.arbitrate with marks := {} } :=
  ⟨_, evolves_followSite (evolves_scan (evolves_followSite (evolves_deferredCommit (evolves_followSite (.refl s))))), rfl⟩

/-- The settlement keeps every bound of a run. -/
theorem State.settle_ok {s : State} (h : s.Ok) : s.settle.Ok := by
  obtain ⟨u, e, r⟩ := s.settle_blocks
  rw [r]
  have k := e.ok h
  exact { k with ring := Ring.arbitrate_ok _ k.ring, counts := by
                  show ((u.ring.arbitrate _).counts).Ok
                  rw [(Ring.arbitrate_kept _ _).2.2.2.1]; exact k.counts
                 gas := by
                  show (u.ring.arbitrate _).gasStop = _
                  rw [(Ring.arbitrate_kept _ _).2.2.2.2.2.1]; exact k.gas }

section
variable (s : State)

theorem State.settle_pending : s.settle.pending = s.pending := by
  obtain ⟨u, e, r⟩ := s.settle_blocks; rw [r]; exact e.pending

theorem State.settle_now : s.settle.now = s.now := by
  obtain ⟨u, e, r⟩ := s.settle_blocks; rw [r]; exact e.now

theorem State.settle_trigLevel : s.settle.trigLevel = s.trigLevel := by
  obtain ⟨u, e, r⟩ := s.settle_blocks; rw [r]; exact e.trigLevel

theorem State.settle_site_kept : s.settle.site.kept = s.site.kept := by
  obtain ⟨u, e, r⟩ := s.settle_blocks; rw [r]; exact e.site

theorem State.settle_mgmt_kept : s.settle.mgmt.kept = s.mgmt.kept := by
  obtain ⟨u, e, r⟩ := s.settle_blocks; rw [r]; exact e.mgmt

theorem State.settle_ownAddress : s.settle.ring.ownAddress = s.ring.ownAddress := by
  obtain ⟨u, e, r⟩ := s.settle_blocks; rw [r]; exact (Ring.arbitrate_kept _ _).1.trans e.ownAddress

theorem State.settle_rx : s.settle.ring.rx = s.ring.rx := by
  obtain ⟨u, e, r⟩ := s.settle_blocks; rw [r]; exact (Ring.arbitrate_kept _ _).2.1.trans e.rx

theorem State.settle_rxLast : s.settle.ring.rxLast = s.ring.rxLast := by
  obtain ⟨u, e, r⟩ := s.settle_blocks; rw [r]; exact (Ring.arbitrate_kept _ _).2.2.1.trans e.rxLast

theorem State.settle_counts : s.settle.ring.counts.kept = s.ring.counts.kept := by
  obtain ⟨u, e, r⟩ := s.settle_blocks; rw [r]
  exact (congrArg Counts.kept (Ring.arbitrate_kept _ _).2.2.2.1).trans e.counts

theorem State.settle_gasStop : s.settle.ring.gasStop = s.ring.gasStop := by
  obtain ⟨u, e, r⟩ := s.settle_blocks; rw [r]; exact (Ring.arbitrate_kept _ _).2.2.2.2.2.1.trans e.gasStop

theorem State.settle_lastGood : s.settle.ring.lastGood = s.ring.lastGood := by
  obtain ⟨u, e, r⟩ := s.settle_blocks; rw [r]; exact (Ring.arbitrate_kept _ _).2.2.2.2.2.2.2.1.trans e.lastGood

theorem State.settle_marks : s.settle.marks = {} := rfl

end

/-- Judging the outputs of the Site Line Unit moves them, its timers and its windows alone: each output is the judgement of the
state, and a run-on, a window and a lamp pattern start only at a change (R145, R147, R149, R150, R155). -/
theorem State.followSite_eq (s : State) (g p m : Bool) (d : Nat) (l : Lamp) (hg : s.judgeGassingRun = g)
    (hp : s.judgeSpending = p) (hd : s.followActivity.judgeDuty = d) (hm : s.followActivity.followDuty.judgeMeasuring = m)
    (hl : s.judgeLamp = l) :
    s.followSite = { s with site := { s.site with
      gassingRun := g, spending := p, duty := d, measuring := m, lamp := l
      spendMark := s.site.spendMark || (s.site.src.level && p)
      runOnEnd := if g then none
        else if s.site.gassingRun ∧ s.lim.runOnMin ≠ 0 then some (s.now + s.lim.runOnMin * 60000) else s.site.runOnEnd
      window := if m then (if s.site.measuring && s.site.window.isSome then s.site.window else some ⟨s.now, 0⟩) else none
      lowWindows := if m then s.site.lowWindows else 0
      okWindows := if m then s.site.okWindows else 0
      lampStart := if l = s.site.lamp then s.site.lampStart else s.now } } := by
  subst hg hp hd hm hl
  rfl

/-- Outputs that are already those of the state stand. -/
theorem State.followSite_same {s : State} (hg : s.site.gassingRun = s.judgeGassingRun) (hp : s.site.spending = s.judgeSpending)
    (hr : s.site.gassingRun = true → s.site.runOnEnd = none)
    (hk : s.site.src.level = true → s.site.spending = true → s.site.spendMark = true)
    (hd : s.site.duty = s.judgeDuty) (hm : s.site.measuring = s.judgeMeasuring)
    (hw : s.site.window.isSome = s.site.measuring)
    (hc : s.site.measuring = false → s.site.lowWindows = 0 ∧ s.site.okWindows = 0) (hl : s.site.lamp = s.judgeLamp) :
    s.followSite = s := by
  have a : s.followActivity = s := by
    unfold State.followActivity State.modSite
    dsimp only
    rw [← hg, ← hp]
    have e1 : (if s.site.gassingRun = true then none else if s.site.gassingRun = true ∧ s.lim.runOnMin ≠ 0 then
        some (s.now + s.lim.runOnMin * 60000) else s.site.runOnEnd) = s.site.runOnEnd := by
      cases h : s.site.gassingRun
      · simp
      · simp [hr h]
    have e2 : (s.site.spendMark || (s.site.src.level && s.site.spending)) = s.site.spendMark := by
      cases h : s.site.src.level <;> cases h' : s.site.spending <;> simp [hk, h, h']
    rw [e1, e2]
  have d : s.followDuty = s := by
    unfold State.followDuty State.modSite
    rw [← hd]
  have m : s.followMeasuring = s := by
    unfold State.followMeasuring State.modSite
    dsimp only
    rw [← hm]
    have ew : (if s.site.measuring = true then (if (s.site.measuring && s.site.window.isSome) = true then s.site.window
        else some ⟨s.now, 0⟩) else none) = s.site.window := by
      cases h : s.site.measuring <;> rw [h] at hw
      · exact (Option.not_isSome_iff_eq_none.mp (by simp [hw])).symm
      · simp [hw]
    have el : (if s.site.measuring = true then s.site.lowWindows else 0) = s.site.lowWindows := by
      cases h : s.site.measuring <;> simp [hc, h]
    have eo : (if s.site.measuring = true then s.site.okWindows else 0) = s.site.okWindows := by
      cases h : s.site.measuring <;> simp [hc, h]
    rw [ew, el, eo]
  have l : s.followLamp = s := by
    unfold State.followLamp State.modSite
    dsimp only
    rw [← hl, if_pos rfl]
  unfold State.followSite
  rw [a, d, m, l]

/-- The duty, the measuring and the lamp read few items of the Site Line Unit (R145, R149, R155). -/
theorem State.judgeDuty_modSite (s : State) (f : Site → Site) (h : (f s.site).gasLatch = s.site.gasLatch
    ∧ (f s.site).gassingRun = s.site.gassingRun ∧ (f s.site).runOnEnd = s.site.runOnEnd
    ∧ (f s.site).fanFail = s.site.fanFail) : (s.modSite f).judgeDuty = s.judgeDuty := by
  unfold State.judgeDuty
  simp only [State.modSite, h.1, h.2.1, h.2.2.1, h.2.2.2]
  rfl

theorem State.judgeMeasuring_modSite (s : State) (f : Site → Site) (h : (f s.site).duty = s.site.duty) :
    (s.modSite f).judgeMeasuring = s.judgeMeasuring := by
  unfold State.judgeMeasuring
  simp only [State.modSite, h]
  rfl

theorem State.judgeLamp_modSite (s : State) (f : Site → Site) (h : (f s.site).gasLatch = s.site.gasLatch
    ∧ (f s.site).fanFail = s.site.fanFail) : (s.modSite f).judgeLamp = s.judgeLamp := by
  unfold State.judgeLamp
  simp only [State.modSite, h.1, h.2]
  rfl

theorem State.judgeActivity_modSite (s : State) (f : Site → Site) :
    (s.modSite f).judgeGassingRun = s.judgeGassingRun ∧ (s.modSite f).judgeSpending = s.judgeSpending := ⟨rfl, rfl⟩

/-- The activity that is judged is that of the state left. -/
theorem State.followSite_activity (s : State) : s.followSite.site.gassingRun = s.followSite.judgeGassingRun
    ∧ s.followSite.site.spending = s.followSite.judgeSpending := by
  have h : s.followActivity.site.gassingRun = s.followActivity.judgeGassingRun
      ∧ s.followActivity.site.spending = s.followActivity.judgeSpending := by
    exact ⟨(s.judgeActivity_modSite _).1.symm, (s.judgeActivity_modSite _).2.symm⟩
  unfold State.followSite
  revert h
  generalize s.followActivity = u
  intro h
  have e1 := u.judgeActivity_modSite fun t => { t with duty := u.judgeDuty }
  replace h : u.followDuty.site.gassingRun = u.followDuty.judgeGassingRun
      ∧ u.followDuty.site.spending = u.followDuty.judgeSpending := ⟨h.1.trans e1.1.symm, h.2.trans e1.2.symm⟩
  clear e1
  revert h
  generalize u.followDuty = v
  intro h
  have h' : v.followMeasuring.site.gassingRun = v.followMeasuring.judgeGassingRun
      ∧ v.followMeasuring.site.spending = v.followMeasuring.judgeSpending := h
  clear h
  revert h'
  generalize v.followMeasuring = w
  exact fun h => h

/-- The duty, the measuring and the lamp that are judged are those of the state left. -/
theorem State.followSite_judged (s : State) : s.followSite.site.duty = s.followSite.judgeDuty
    ∧ s.followSite.site.measuring = s.followSite.judgeMeasuring ∧ s.followSite.site.lamp = s.followSite.judgeLamp := by
  unfold State.followSite
  generalize s.followActivity = u
  refine ⟨?_, ?_, ?_⟩
  · calc u.followDuty.followMeasuring.followLamp.site.duty = u.judgeDuty := rfl
      _ = u.followDuty.judgeDuty := (u.judgeDuty_modSite _ ⟨rfl, rfl, rfl, rfl⟩).symm
      _ = u.followDuty.followMeasuring.judgeDuty := (u.followDuty.judgeDuty_modSite _ ⟨rfl, rfl, rfl, rfl⟩).symm
      _ = _ := (u.followDuty.followMeasuring.judgeDuty_modSite _ ⟨rfl, rfl, rfl, rfl⟩).symm
  · generalize u.followDuty = v
    calc v.followMeasuring.followLamp.site.measuring = v.judgeMeasuring := rfl
      _ = v.followMeasuring.judgeMeasuring := (v.judgeMeasuring_modSite _ rfl).symm
      _ = _ := (v.followMeasuring.judgeMeasuring_modSite _ rfl).symm
  · generalize u.followDuty.followMeasuring = v
    exact (v.judgeLamp_modSite _ ⟨rfl, rfl⟩).symm

/-- Judging the outputs again leaves them. -/
theorem State.followSite_again (s : State) : s.followSite.followSite = s.followSite := by
  apply State.followSite_same
  case hg => exact s.followSite_activity.1
  case hp => exact s.followSite_activity.2
  case hd => exact s.followSite_judged.1
  case hm => exact s.followSite_judged.2.1
  case hl => exact s.followSite_judged.2.2
  all_goals rw [s.followSite_eq _ _ _ _ _ rfl rfl rfl rfl rfl]; dsimp only
  case hr => intro h; rw [if_pos h]
  case hk => intro h1 h2; rw [h1, h2]; simp
  case hw =>
    cases s.followActivity.followDuty.judgeMeasuring
    · rfl
    · simp only [if_true]; split <;> simp_all
  case hc => intro h; rw [h]; exact ⟨rfl, rfl⟩

/-- An event that started no scan and made no commit applicable moves only the site outputs and the arbiter. -/
theorem State.settle_quiet {s : State} (h1 : s.marks.scan = false) (h2 : s.marks.commit = false) :
    s.settle = s.quietEnd := by
  have m1 : s.followSite.marks.scan = false := h1
  have m2 : s.followSite.marks.commit = false := h2
  have e : s.followSite.deferredCommit = s.followSite := by
    unfold State.deferredCommit
    rw [m2]
    simp only [Bool.false_eq_true, if_false]
    rw [← m2]
  have e' : s.followSite.scan = s.followSite := by
    unfold State.scan scanFuel State.runScans
    rw [if_neg (by simp [m1])]
  unfold State.settle State.quietEnd
  rw [e, s.followSite_again, e', s.followSite_again]

/-! ## The passing of time -/

/-- Time passes: nothing but the clock of the time base, the counting slots and the counting confirmations moves. -/
theorem elapse_evolves {wet com : Bool} (s : State) (dt : Nat) :
    State.Evolves wet com { s with now := s.now + dt } (s.elapse dt) := by
  have h := evolves_eachSlot (wet := wet) (com := com) (.refl { s with now := s.now + dt }) (fun sl s => s.modSlot sl (SlotRec.elapse dt))
    fun sl u k => evolves_modSlot k sl _
  unfold State.elapse
  exact evolves_ite (evolves_eachStr h _ fun i u k => evolves_modControl k i _) h

theorem begin_evolves {wet com : Bool} (s : State) (dt : Nat) :
    State.Evolves wet com { s with now := s.now + dt } (s.begin dt) :=
  evolves_marks (elapse_evolves s dt) {}

section
variable (s : State) (dt : Nat)

@[simp] theorem State.begin_now : (s.begin dt).now = s.now + dt := (begin_evolves (wet := true) (com := true) s dt).now

@[simp] theorem State.begin_pending : (s.begin dt).pending = s.pending := (begin_evolves (wet := true) (com := true) s dt).pending

@[simp] theorem State.begin_trigLevel : (s.begin dt).trigLevel = s.trigLevel := (begin_evolves (wet := true) (com := true) s dt).trigLevel

@[simp] theorem State.begin_marks : (s.begin dt).marks = {} := rfl

theorem State.begin_ok {s : State} (h : s.Ok) (dt : Nat) : (s.begin dt).Ok :=
  (begin_evolves (wet := true) (com := true) s dt).ok { h with }

end

/-- What the passing of time leaves as it was: everything but the time base, the slot records and the control halves. -/
theorem State.elapse_eq (s : State) (dt : Nat) : ∃ v a b,
    s.elapse dt = { s with now := s.now + dt, strings := v, slotA := a, slotB := b } := by
  have key : ∀ (l : List Str) (u : State), ∃ v,
      l.foldl (fun s i => s.modControl i (Control.elapse dt)) u = { u with strings := v } := by
    intro l
    induction l with
    | nil => exact fun u => ⟨u.strings, rfl⟩
    | cons a l ih =>
      intro u
      obtain ⟨v, hv⟩ := ih (u.modControl a (Control.elapse dt))
      exact ⟨v, hv⟩
  by_cases h : s.ring.sight = .seeing
  · obtain ⟨v, hv⟩ := key allStrs
      { s with now := s.now + dt, slotA := s.slotA.elapse dt, slotB := s.slotB.elapse dt }
    refine ⟨v, s.slotA.elapse dt, s.slotB.elapse dt, ?_⟩
    refine Eq.trans ?_ hv
    exact if_pos h
  · refine ⟨s.strings, s.slotA.elapse dt, s.slotB.elapse dt, ?_⟩
    exact if_neg h

section
variable (s : State) (dt : Nat)

@[simp] theorem State.begin_cells : (s.begin dt).cells = s.cells := by
  obtain ⟨v, a, b, h⟩ := s.elapse_eq dt; simp [State.begin, h]

@[simp] theorem State.begin_queue : (s.begin dt).queue = s.queue := by
  obtain ⟨v, a, b, h⟩ := s.elapse_eq dt; simp [State.begin, h]

@[simp] theorem State.begin_water : (s.begin dt).water = s.water := by
  obtain ⟨v, a, b, h⟩ := s.elapse_eq dt; simp [State.begin, h]

@[simp] theorem State.begin_site : (s.begin dt).site = s.site := by
  obtain ⟨v, a, b, h⟩ := s.elapse_eq dt; simp [State.begin, h]

@[simp] theorem State.begin_ring : (s.begin dt).ring = s.ring := by
  obtain ⟨v, a, b, h⟩ := s.elapse_eq dt; simp [State.begin, h]

@[simp] theorem State.begin_mgmt : (s.begin dt).mgmt = s.mgmt := by
  obtain ⟨v, a, b, h⟩ := s.elapse_eq dt; simp [State.begin, h]

@[simp] theorem State.begin_images : (s.begin dt).images = s.images := by
  obtain ⟨v, a, b, h⟩ := s.elapse_eq dt; simp [State.begin, h]

@[simp] theorem State.begin_busVoltage : (s.begin dt).busVoltage = s.busVoltage := by
  obtain ⟨v, a, b, h⟩ := s.elapse_eq dt; simp [State.begin, h]

@[simp] theorem State.begin_discharge : (s.begin dt).discharge = s.discharge := by
  obtain ⟨v, a, b, h⟩ := s.elapse_eq dt; simp [State.begin, h]

@[simp] theorem State.begin_holdoffEnd : (s.begin dt).holdoffEnd = s.holdoffEnd := by
  obtain ⟨v, a, b, h⟩ := s.elapse_eq dt; simp [State.begin, h]

@[simp] theorem State.begin_lim : (s.begin dt).lim = s.lim := by simp [State.lim]

@[simp] theorem State.begin_cfg (i : Str) : (s.begin dt).cfg i = s.cfg i := by simp [State.cfg]

@[simp] theorem State.begin_cell (i : CellIx) : (s.begin dt).cell i = s.cell i := by simp [State.cell]

@[simp] theorem State.begin_engaged : (s.begin dt).engaged = s.engaged := by simp [State.engaged]

@[simp] theorem State.begin_limitsLoaded : (s.begin dt).limitsLoaded = s.limitsLoaded := by simp [State.limitsLoaded]

@[simp] theorem State.begin_present (i : Str) : (s.begin dt).present i = s.present i := by simp [State.present]

end

/-! ### The records after the time of an event -/

theorem foldl_modControl_control (f : Control → Control) : ∀ (l : List Str), l.Nodup → ∀ (s : State) (i : Str),
    (l.foldl (fun s i => s.modControl i f) s).control i = if i ∈ l then f (s.control i) else s.control i := by
  intro l
  induction l with
  | nil => simp
  | cons a l ih =>
    intro hn s i
    simp only [List.nodup_cons] at hn
    simp only [List.foldl_cons, List.mem_cons]
    rw [ih hn.2]
    by_cases h : i = a
    · subst h; simp [hn.1]
    · simp [h, State.modControl_control_ne s (Ne.symm h)]

theorem foldl_modControl_rest (f : Control → Control) : ∀ (l : List Str) (s : State) (i : Str) (sl : SlotId),
    (l.foldl (fun s i => s.modControl i f) s).reading i = s.reading i
      ∧ (l.foldl (fun s i => s.modControl i f) s).charge i = s.charge i
      ∧ (l.foldl (fun s i => s.modControl i f) s).slot sl = s.slot sl := by
  intro l
  induction l with
  | nil => simp
  | cons a l ih =>
    intro s i sl
    simp only [List.foldl_cons]
    rw [(ih _ i sl).1, (ih _ i sl).2.1, (ih _ i sl).2.2]
    simp

/-- Every string is in the list of the strings. -/
theorem mem_allStrs (i : Str) : i ∈ allStrs := by revert i; decide

/-- A control half after the time of an event: its confirmation counts while sight is SEEING (R66). -/
theorem State.begin_control (s : State) (dt : Nat) (i : Str) :
    (s.begin dt).control i
      = if s.ring.sight = .seeing then (s.control i).elapse dt else s.control i := by
  have h : ∀ j, (({ s with now := s.now + dt } : State).eachSlot
      fun sl s => s.modSlot sl (SlotRec.elapse dt)).control j = s.control j := fun j => rfl
  show (s.elapse dt).control i = _
  unfold State.elapse
  dsimp only
  split
  · next h2 =>
    unfold State.eachStr
    rw [foldl_modControl_control _ allStrs (by decide), if_pos (mem_allStrs i), h]
    exact (if_pos (by exact h2)).symm
  · next h2 => rw [h]; exact (if_neg (by exact h2)).symm

/-- The time of an event leaves the readings and the accounts. -/
theorem State.begin_reading (s : State) (dt : Nat) (i : Str) : (s.begin dt).reading i = s.reading i := by
  show (s.elapse dt).reading i = _
  unfold State.elapse
  dsimp only
  split
  · exact (foldl_modControl_rest _ _ _ i .A).1
  · rfl

theorem State.begin_charge (s : State) (dt : Nat) (i : Str) : (s.begin dt).charge i = s.charge i := by
  show (s.elapse dt).charge i = _
  unfold State.elapse
  dsimp only
  split
  · exact (foldl_modControl_rest _ _ _ i .A).2.1
  · rfl

/-- A slot record after the time of an event (R85, R96, R101). -/
theorem State.begin_slot (s : State) (dt : Nat) (sl : SlotId) : (s.begin dt).slot sl = (s.slot sl).elapse dt := by
  have e : (s.begin dt).slot sl = (({ s with now := s.now + dt } : State).eachSlot
      fun sl s => s.modSlot sl (SlotRec.elapse dt)).slot sl := by
    show (s.elapse dt).slot sl = _
    unfold State.elapse
    dsimp only
    split
    · exact (foldl_modControl_rest _ _ _ 0 sl).2.2
    · rfl
  rw [e]
  cases sl <;> rfl

end Sys2Proof.Machine
end

