-- ==== Sys2Proof/Laws/Events.lean ====
section
/-! SUPPORT. What the events themselves keep: the bounds of a run (`State.Ok`) across the effects that are more than the
blocks' own operations. -/

namespace Sys2Proof.Machine

section
variable {s : State}

/-! ## Updates of one block -/

theorem State.Ok.modMgmt (h : s.Ok) (f : Mgmt → Mgmt) (hf : (f s.mgmt).clock.Ok) : (s.modMgmt f).Ok :=
  { h with clock := hf }

theorem State.Ok.modRing (h : s.Ok) (f : Ring → Ring) (ho : (f s.ring).Ok) (hc : (f s.ring).counts.Ok)
    (hg : (f s.ring).gasStop = s.ring.gasStop) : (s.modRing f).Ok :=
  { h with ring := ho, counts := hc, gas := hg.trans h.gas }

theorem State.Ok.modSite (h : s.Ok) (f : Site → Site) (ho : (f s.site).Ok)
    (hg : (f s.site).gasLatch = s.site.gasLatch) : (s.modSite f).Ok :=
  { h with site := ho, gas := Eq.trans h.gas hg.symm }

theorem State.Ok.modCell (h : s.Ok) (i : CellIx) (f : Cell → Cell) (hf : (f (s.cell i)).Ok) : (s.modCell i f).Ok := by
  refine { h with cells := ?_ }
  intro j
  by_cases e : i = j
  · subst e; simpa using hf
  · rw [s.modCell_cell_ne e]; exact h.cells j

theorem State.Ok.evolves (h : s.Ok) {t : State} (k : State.Evolves true true s t) : t.Ok :=
  k.ok h

/-! ## Lines and site (R144 to R155) -/

theorem Site.withFilter_kept (t : Site) (l : Line) (f : Filter) :
    (t.withFilter l f).gasLatch = t.gasLatch ∧ (t.withFilter l f).genreq = t.genreq
      ∧ (t.withFilter l f).genState = t.genState ∧ (t.withFilter l f).lowWindows = t.lowWindows
      ∧ (t.withFilter l f).okWindows = t.okWindows ∧ (t.withFilter l f).fanFail = t.fanFail
      ∧ (t.withFilter l f).gassingRun = t.gassingRun ∧ (t.withFilter l f).runOnEnd = t.runOnEnd := by
  cases l <;> simp [Site.withFilter]

theorem Site.withFilter_ok {t : Site} (h : t.Ok) (l : Line) (f : Filter) : (t.withFilter l f).Ok := by
  obtain ⟨-, h2, h3, h4, h5, -, h6, h7⟩ := t.withFilter_kept l f
  unfold Site.Ok Site.GenOk Site.RunOnOk
  rw [h2, h3, h4, h5, h6, h7]
  exact h

theorem State.Ok.rawLine (h : s.Ok) (l : Line) (b : Bool) : (s.rawLine l b).Ok :=
  h.modSite _ (Site.withFilter_ok h.site l _) (Site.withFilter_kept _ l _).1

theorem State.Ok.takeLevel (h : s.Ok) (l : Line) : (s.takeLevel l).Ok :=
  h.modSite _ (Site.withFilter_ok h.site l _) (Site.withFilter_kept _ l _).1

/-- Under the gas stop every waiting order is no RECT ON, and each destination keeps its one order (R164, R165). -/
theorem Ring.gasStopped_ok {r : Ring} (h : r.Ok) :
    ({ r with gasStop := true, orders := r.orders.map fun o => { o with frame := gasStopped true o.frame } } : Ring).Ok := by
  refine { h with orders := by simpa using h.orders, oneEach := ?_, gas := ?_ }
  · have := h.oneEach
    unfold oneOrderEach at this ⊢
    rw [List.map_map]
    have e : ((fun o : Order => o.frame.dst) ∘ fun o : Order => { o with frame := gasStopped true o.frame })
        = fun o : Order => o.frame.dst := by
      funext o; simp
    rw [e]; exact this
  · intro _ o ho
    obtain ⟨w, -, rfl⟩ := List.mem_map.mp ho
    exact gasStopped_isRectOn _

theorem State.Ok.gasTrips (h : s.Ok) : s.gasTrips.Ok := by
  unfold State.gasTrips
  split
  · exact h
  · have key : ∀ v : State, State.Evolves true true (s.modSite fun t => { t with gasLatch := true }) v → v.setGasStop.Ok := by
      intro v e
      exact {
        ring := Ring.gasStopped_ok (e.ringOk h.ring)
        counts := e.countsOk h.counts
        cells := e.cellsOk h.cells
        clock := by
          show v.mgmt.clock.Ok
          rw [e.clock]; exact h.clock
        gas := by
          show true = v.site.gasLatch
          rw [e.gasLatch]; rfl
        queue := e.queueOk h.queue
        site := e.siteOk h.site
        pump := e.pumpOk h.pump }
    refine State.Ok.evolves (key _ ?_) (evolves_noticeAlarm (.refl _) _)
    exact evolves_endWateringEarly (evolves_eachStr (.refl _) _ fun i _ k => evolves_endCause k i _) _

theorem State.Ok.gasClears (h : s.Ok) : s.gasClears.Ok :=
  State.Ok.evolves (s := (s.modSite fun t => { t with gasLatch := false }).clearGasStop)
    { h with ring := { h.ring with gas := fun g => by cases g }, gas := rfl } (evolves_markScan (.refl _))

theorem State.Ok.trigChanges (h : s.Ok) (b : Bool) : (s.trigChanges b).Ok := by
  have k : ({ s with trigLevel := b } : State).Ok := { h with }
  unfold State.trigChanges
  refine State.Ok.evolves k (evolves_markScan ?_)
  dsimp only
  split
  · split
    · exact evolves_endTriggered (.refl _) _
    · exact evolves_marks (.refl _) _
  · exact evolves_endTriggered (.refl _) _
  · exact .refl _

theorem Site.edge_kept (d : Bool) (now : Nat) (t : Site) :
    (t.edge d now).gasLatch = t.gasLatch ∧ ((t.Ok) → (t.edge d now).Ok) := by
  unfold Site.edge
  extract_lets tooSoon
  by_cases e : tooSoon = true
  · rw [if_pos e]; exact ⟨rfl, id⟩
  · rw [if_neg e]; exact ⟨rfl, fun k => k⟩

theorem State.Ok.edge (h : s.Ok) (d : Bool) (now : Nat) : (s.modSite (Site.edge d now)).Ok :=
  h.modSite _ ((Site.edge_kept d now s.site).2 h.site) (Site.edge_kept d now s.site).1

theorem Site.judgeWindow_ok {t : Site} (h : t.Ok) (a b : Nat) (w : Option TachWindow) :
    Site.Ok { t.judgeWindow a b with window := w } ∧ (t.judgeWindow a b).gasLatch = t.gasLatch := by
  unfold Site.judgeWindow
  split
  · exact ⟨⟨h.1, by dsimp only; omega, by dsimp only; omega, h.2.2.2⟩, rfl⟩
  · exact ⟨⟨h.1, by dsimp only; omega, by dsimp only; omega, h.2.2.2⟩, rfl⟩

theorem State.Ok.fanFails (h : s.Ok) : s.fanFails.Ok := by
  have k := h.modSite (fun t => { t with fanFail := true, lowWindows := 0 })
    ⟨h.site.1, Nat.zero_le _, h.site.2.2⟩ rfl
  refine k.evolves (evolves_noticeAlarm (evolves_eachSlot (.refl _) _ fun sl u e => ?_) _)
  exact evolves_ite (evolves_slotEnds e sl _) e

theorem State.Ok.fanRecovers (h : s.Ok) : s.fanRecovers.Ok :=
  (h.modSite (fun t => { t with fanFail := false, okWindows := 0 }) ⟨h.site.1, h.site.2.1, Nat.zero_le _, h.site.2.2.2⟩ rfl).evolves
    (evolves_markScan (.refl _))

theorem State.Ok.windowEnds (h : s.Ok) (w : TachWindow) : (s.windowEnds w).Ok := by
  have j := Site.judgeWindow_ok h.site s.lim.fanMinRate w.count (some ⟨w.start + 1000, 0⟩)
  have k := h.modSite (fun t => { t.judgeWindow s.lim.fanMinRate w.count with window := some ⟨w.start + 1000, 0⟩ }) j.1 j.2
  unfold State.windowEnds
  dsimp only
  split
  · exact k.fanFails
  · split
    · exact k.fanRecovers
    · exact k

theorem State.Ok.takeWindowEnd (h : s.Ok) : s.takeWindowEnd.Ok := by
  unfold State.takeWindowEnd; split
  · exact h.windowEnds _
  · exact h

theorem evolves_genEnds {wet com : Bool} {s t : State} (h : State.Evolves wet com s t) : State.Evolves wet com s t.genEnds := by
  unfold State.genEnds; split
  · exact evolves_genPulse h
  · exact evolves_genIdle h
  · exact h

/-! ## Clock -/

theorem Stamp.next_ok {t : Stamp} (h : t.Ok) : t.next.Ok := by
  obtain ⟨h1, h2⟩ := h
  unfold Stamp.next
  split
  · exact ⟨by dsimp only; omega, by dsimp only; omega⟩
  · exact ⟨h1, by dsimp only; omega⟩

theorem State.Ok.minutePasses (h : s.Ok) : s.minutePasses.Ok :=
  (h.modMgmt (fun m => { m with clock := m.clock.next, minuteEnd := m.minuteEnd + 60000 }) (Stamp.next_ok h.clock)).evolves
    (evolves_markScan (evolves_allowanceMinute (evolves_accountMinute (.refl _) _) _))

/-! ## Requests (R174 to R187) -/

theorem evolves_toBus {wet com : Bool} {s t : State} (h : State.Evolves wet com s t) (i : Str) : State.Evolves wet com s (t.toBus i) :=
  evolves_stateChanged (evolves_modControl h i _) i _

theorem evolves_excludeStr {wet com : Bool} {s t : State} (h : State.Evolves wet com s t) (i : Str) : State.Evolves wet com s (t.excludeStr i) :=
  evolves_stateChanged (evolves_modControl (evolves_removeEntry (evolves_removeEntry h i _) i _) i _) i _

theorem evolves_cancelEntry {wet com : Bool} {s t : State} (h : State.Evolves wet com s t) (i : Str) (k : RoundKind) : State.Evolves wet com s (t.cancelEntry i k) := by
  have e := evolves_markScan (evolves_removeEntry h i k)
  unfold State.cancelEntry
  cases k
  · exact e
  · exact evolves_reportToSlot e i

theorem evolves_abortRounds {com : Bool} {s t : State} (h : State.Evolves true com s t) (i : Str) : State.Evolves true com s (t.abortRounds i) := by
  have e := evolves_ite (c := (t.inRound i : Prop)) (evolves_endCause h i .abortRequest) h
  unfold State.abortRounds
  exact evolves_ite (evolves_endWateringEarly e _) e

theorem evolves_discardStaging {wet : Bool} {s t : State} (h : State.Evolves wet true s t) : State.Evolves wet true s t.discardStaging := by
  have e := evolves_modMgmt h Mgmt.emptied rfl
  unfold State.discardStaging
  exact evolves_ite (evolves_markScan e) e

theorem evolves_disengage {wet : Bool} {s t : State} (h : State.Evolves wet true s t) : State.Evolves wet true s t.disengage :=
  evolves_modRing (evolves_modMgmt h _ rfl) _ rfl List.prefix_rfl
    (fun k => { k with orders := Nat.zero_le _, oneEach := List.nodup_nil, gas := fun _ _ h => by cases h }) id

theorem evolves_writeItems {wet com : Bool} {s t : State} (h : State.Evolves wet com s t) (i : Str) (sel : Nat) (q : Int) (d : Nat) :
    State.Evolves wet com s (t.writeItems i sel q d) := by
  unfold State.writeItems
  refine evolves_accountChanged ?_ i _
  have h1 := evolves_ite (c := (bit sel 0 : Prop)) (evolves_modCharge h i (Charge.writeBalance (t.cfg i).capacityC q)) h
  have h2 := evolves_ite (c := (bit sel 1 : Prop)) (evolves_modCharge h1 i fun c => { c with daysSinceEq := d }) h1
  exact evolves_ite (evolves_modControl h2 i _) h2

theorem State.Ok.withStr (h : s.Ok) (b : Byte) (f : Str → Answer) (hf : ∀ i, (f i).state.Ok) :
    (s.withStr b f).state.Ok := by
  unfold State.withStr
  split
  · split
    · exact hf _
    · exact h
  · exact h

theorem State.Ok.emptied (h : s.Ok) : (s.modRing Ring.emptied).Ok :=
  h.modRing _ { h.ring with forward := Nat.zero_le _, orders := Nat.zero_le _, replies := Nat.zero_le _,
                            oneEach := List.nodup_nil, gas := fun _ _ h => by cases h } h.counts rfl

theorem evolves_standingOrders {wet com : Bool} {s t : State} (h : State.Evolves wet com s t) (i : Str) : State.Evolves wet com s (t.standingOrders i) := by
  have e : State.Evolves wet com s (match (t.control i).rectOrder with
      | some o => t.stringRect i o
      | none => t) := by
    split
    · exact evolves_stringRect h i _
    · exact h
  unfold State.standingOrders
  exact evolves_ite h (evolves_ite (evolves_stringRect h i _) (evolves_ite (evolves_handContactor e i _) e))

theorem State.Ok.warmRestart (h : s.Ok) : s.warmRestart.Ok := by
  unfold State.warmRestart
  extract_lets s1 s2 s3 s4 s5 s6 s7 s8 s9
  have h1 : s1.Ok := h.emptied
  clear_value s1
  have h2 : s2.Ok := h1.evolves (evolves_eachStr (.refl _) _ fun i _ k => evolves_endCause k i _)
  clear_value s2
  have h3 : s3.Ok := h2.evolves (evolves_eachStr (.refl _) _ fun i _ k => evolves_standingOrders k i)
  clear_value s3
  have h4 : s4.Ok := h3.evolves (evolves_restartWatering (evolves_modWater (.refl _) _ fun _ => .inl ⟨rfl, rfl⟩))
  clear_value s4
  have h5 : s5.Ok := h4.evolves (evolves_genIdle (.refl _))
  clear_value s5
  have h6 : s6.Ok := h5.evolves (evolves_eachStr (.refl _) _ fun i _ k => evolves_modCharge k i _)
  clear_value s6
  have h7 : s7.Ok := h6.evolves (evolves_queue (.refl _) [] fun _ => ⟨List.nodup_nil, List.Pairwise.nil⟩)
  clear_value s7
  have h8' := h7.evolves (evolves_discardStaging (.refl s7))
  have h8 : s8.Ok := h8'.modMgmt _ (by exact h8'.clock)
  clear_value s8
  have h9' : (s8.modRing Ring.countersCleared).Ok :=
    h8.modRing _ (by exact { h8.ring with replyWait := Nat.zero_le _, fwdSkip := Nat.zero_le _ })
      (by exact ⟨Nat.zero_le _, Nat.zero_le _, Nat.zero_le _, Nat.zero_le _, Nat.zero_le _, Nat.zero_le _⟩) (by rfl)
  have h9 : s9.Ok := h9'.evolves (evolves_restoreSight (.refl _) false)
  clear_value s9
  exact h9.modRing _ (by exact { h9.ring with }) (by exact h9.counts) (by rfl)

theorem State.Ok.writeItems (h : s.Ok) (i : Str) (sel : Nat) (q : Int) (d : Nat) :
    ((s.writeItems i sel q d).modMgmt (Mgmt.advance 1)).Ok :=
  have k := h.evolves (evolves_writeItems (.refl s) i sel q d)
  k.modMgmt (Mgmt.advance 1) k.clock

theorem State.Ok.clearLost (h : s.Ok) : (s.modRing fun r => { r with noticeLost := false }).Ok :=
  h.modRing _ (by exact { h.ring with }) (by exact h.counts) (by rfl)

/-- A request keeps the bounds of a run, whatever it is answered (R174). -/
theorem State.Ok.act (h : s.Ok) (r : Request) (hr : ∀ d m, r = .setTime d m → d ≤ 65535) : (s.act r).state.Ok := by
  cases r with
  | status => exact h.clearLost
  | tableRead t o n =>
    show (s.askTableRead t o n).state.Ok
    unfold State.askTableRead; split
    · exact h
    · split <;> exact h
  | loadBegin t n =>
    show (s.askLoadBegin t n).state.Ok
    unfold State.askLoadBegin; split
    · exact h
    · split
      · exact h
      · split
        · exact h
        · (dsimp only [State.accept]; exact h.modMgmt _ (by exact h.clock))
  | loadPart o d =>
    show (s.askLoadPart o d).state.Ok
    unfold State.askLoadPart; (repeat' split) <;> first | exact h | (dsimp only [State.accept]; exact h.modMgmt _ (by exact h.clock))
  | loadCommit =>
    show s.askLoadCommit.state.Ok
    unfold State.askLoadCommit; split
    · split
      · unfold State.commitStaged; split
        · (dsimp only [State.accept]; exact h.modMgmt _ (by exact h.clock))
        · dsimp only; split
          · exact h.evolves (evolves_applyImage (.refl _) _ _)
          · (dsimp only [State.accept]; exact h.modMgmt _ (by exact h.clock))
      · exact h
    · exact h
  | loadDiscard => exact h.evolves (evolves_discardStaging (.refl _))
  | cursor sp ix =>
    show (s.askCursor sp ix).state.Ok
    unfold State.askCursor; (repeat' split) <;> first | exact h | (dsimp only [State.accept]; exact h.modMgmt _ (by exact h.clock))
  | read n =>
    show (s.askRead n).state.Ok
    unfold State.askRead; dsimp only
    split
    · exact h
    · split
      · exact h
      · show State.Ok (if s.mgmt.held then s else _)
        split
        · exact h
        · exact h.modMgmt (Mgmt.advance _) h.clock
  | write a =>
    show (s.askWrite a).state.Ok
    unfold State.askWrite; dsimp only
    split
    · split
      · exact h
      · unfold State.writeCell; split
        · split
          · exact (h.modCell _ (Cell.written _) ⟨Nat.min_le_left _ _, Nat.zero_le _⟩).modMgmt (Mgmt.advance 1) h.clock
          · exact h
        · exact h
    · split
      · exact h
      · unfold State.writeString; split
        · split
          · exact h.writeItems _ _ _ _
          · exact h
        · exact h
    · split <;> exact h
    · split <;> exact h
  | hold =>
    show (s.modMgmt fun m => { m with mark := some m.cursor, held := true }).Ok
    exact h.modMgmt _ (by exact h.clock)
  | release =>
    show s.askRelease.state.Ok
    unfold State.askRelease; split
    · (dsimp only [State.accept]; exact h.modMgmt _ (by exact h.clock))
    · exact h
  | enqueue st k r p =>
    refine h.withStr st _ fun i => ?_
    split
    · split
      · exact h
      · split
        · exact h
        · exact h.evolves (evolves_enqueue (.refl _) _)
    · exact h
  | cancel st k =>
    show (s.askCancel st k).state.Ok
    unfold State.askCancel; split
    · split
      · exact h.evolves (evolves_cancelEntry (.refl _) _ _)
      · exact h
    · exact h
  | abort st =>
    refine h.withStr st _ fun i => ?_
    split
    · exact h.evolves (evolves_abortRounds (.refl _) _)
    · exact h
  | direct st v i =>
    refine h.withStr st _ fun j => ?_
    split
    · exact h.evolves (evolves_directRequest (.refl _) _ _ _)
    · exact h
  | excludeStr st =>
    refine h.withStr st _ fun j => ?_
    split
    · exact h.evolves (evolves_excludeStr (.refl _) _)
    · exact h
  | includeStr st =>
    refine h.withStr st _ fun j => ?_
    split
    · exact h.evolves (evolves_toBus (.refl _) _)
    · exact h
  | clearFault st =>
    refine h.withStr st _ fun j => ?_
    split
    · exact h
    · split
      · exact h.evolves (evolves_toBusAndFree (.refl _) _)
      · exact h.evolves (evolves_toBus (.refl _) _)
      · exact h.evolves (evolves_startReturn (.refl _) _ _ _)
      · exact h
  | clearGas =>
    show s.askClearGas.state.Ok
    unfold State.askClearGas; split
    · exact h
    · split
      · exact h.gasClears
      · exact h
  | setTime d m =>
    show (s.askSetTime d m).state.Ok
    unfold State.askSetTime; split
    · exact h
    · (dsimp only [State.accept]; exact h.modMgmt _ (by exact ⟨hr d m rfl, by dsimp only; omega⟩))
  | refill ml => exact h.evolves (evolves_refillTo (.refl _) _)
  | setMode m =>
    show (s.askSetMode m).state.Ok
    unfold State.askSetMode; split
    · exact h
    · split
      · exact h
      · split
        · split
          · exact h.evolves (evolves_disengage (.refl _))
          · exact h
        · split
          · exact h.evolves (evolves_engage (.refl _))
          · exact h
  | restart => exact h.warmRestart

theorem State.Ok.answer (h : s.Ok) (src : Byte) (p : Parsed)
    (hp : ∀ d m, p = .request (.setTime d m) → d ≤ 65535) : (s.answer src p).state.Ok := by
  unfold State.answer; split
  · exact h
  · split
    · exact h
    · exact h
    · exact h.act _ fun d m e => hp d m (by rw [e])

theorem placeAt_length {n c : Nat} {f : Frame} {l : List Frame} (hn : n < c) (hl : l.length ≤ c) :
    (placeAt n f l).length ≤ c := by
  unfold placeAt; split
  · simpa using hl
  · simp; omega

theorem State.Ok.offer (h : s.Ok) (src : Byte) (p : Parsed)
    (hp : ∀ d m, p = .request (.setTime d m) → d ≤ 65535) : (s.offer src p).Ok := by
  unfold State.offer
  split
  · next hl =>
    have k := h.modRing (fun r => { r with replies := r.replies ++ [⟨src, r.ownAddress, kindReply, []⟩] })
      { h.ring with replies := by simpa using hl } h.counts rfl
    have a := k.answer src p hp
    unfold State.takeRequest
    exact a.modRing _ (by exact { a.ring with replies := placeAt_length hl a.ring.replies }) (by exact a.counts) (by rfl)
  · exact h.modRing _ (by exact { h.ring with })
      (by exact ⟨h.counts.1, h.counts.2.1, h.counts.2.2.1, countUp_le _, h.counts.2.2.2.2.1, h.counts.2.2.2.2.2⟩) (by rfl)

/-- A two-byte field lies within 0–65535. -/
theorem field_two_le (b : List Byte) (off : Nat) : field b off 2 ≤ 65535 := by
  have h1 := (b.getD off 0).isLt
  have h2 := (b.getD (off + 1) 0).isLt
  simp only [field, u8, Nat.add_zero] at *
  omega

/-- A parsed SET_TIME names a day within the clock's range. -/
theorem parsePayload_day {l : List Byte} {d m : Nat} (h : parsePayload l = .request (.setTime d m)) : d ≤ 65535 := by
  cases l with
  | nil => cases h
  | cons c a =>
    simp only [parsePayload, parseRequest, withArgs] at h
    split at h <;> (try (split at h)) <;> cases h
    exact field_two_le _ _

/-! ## Frames (R157 to R163) -/

theorem Counts.Ok.badCheck {c : Counts} (h : c.Ok) : ({ c with badCheck := countUp c.badCheck } : Counts).Ok :=
  ⟨h.1, countUp_le _, h.2.2.1, h.2.2.2.1, h.2.2.2.2.1, h.2.2.2.2.2⟩

theorem State.Ok.countBadCheck (h : s.Ok) : (s.modRing Ring.countBadCheck).Ok :=
  h.modRing _ (by exact { h.ring with }) (by exact h.counts.badCheck) (by rfl)

theorem State.Ok.countPoliced (h : s.Ok) : (s.modRing Ring.countPoliced).Ok :=
  h.modRing _ (by exact { h.ring with })
      (by exact ⟨h.counts.1, h.counts.2.1, h.counts.2.2.1, h.counts.2.2.2.1, countUp_le _, h.counts.2.2.2.2.2⟩) (by rfl)

theorem State.Ok.forwardFrame (h : s.Ok) (f : Frame) : (s.forwardFrame f).Ok := by
  unfold State.forwardFrame
  refine h.modRing _ ?_ ?_ ?_
  · split
    · next hl => exact { h.ring with forward := by simpa [forwardCap] using hl }
    · exact { h.ring with }
  · split
    · exact h.counts
    · exact ⟨h.counts.1, h.counts.2.1, countUp_le _, h.counts.2.2.2.1, h.counts.2.2.2.2.1, h.counts.2.2.2.2.2⟩
  · split <;> rfl

theorem State.Ok.setThin (h : s.Ok) (e : Fin 16) (n : Nat) : (s.setThin e n).Ok :=
  h.modRing _ (by exact { h.ring with }) (by exact h.counts) (by rfl)

theorem State.Ok.passOn (h : s.Ok) (f : Frame) : (s.passOn f).Ok := by
  unfold State.passOn
  split
  · exact h.forwardFrame f
  · split
    · exact h.forwardFrame f
    · exact h
    · unfold State.thinFrame; split
      · exact (h.setThin _ _).forwardFrame f
      · exact h.setThin _ _

theorem State.Ok.absorb (h : s.Ok) (f : Frame) : (s.absorb f).Ok :=
  h.evolves (evolves_absorb (.refl s) f)

theorem State.Ok.absorbAndPass (h : s.Ok) (f : Frame) : (s.absorbAndPass f).Ok := by
  unfold State.absorbAndPass; split
  · exact (h.absorb f).passOn f
  · exact (h.absorb f).forwardFrame f

theorem evolves_recall {wet com : Bool} {s t : State} (h : State.Evolves wet com s t) (i : Str) (f : Frame) : State.Evolves wet com s (t.recall i f) := by
  have e := evolves_modControl h i fun c => { c with heldOrder := some f }
  unfold State.recall
  exact evolves_ite (evolves_endCause e i _) e

theorem State.Ok.classify (h : s.Ok) (f : Frame) : (s.classify f).Ok := by
  have hp : ∀ d m, parsePayload f.payload = .request (.setTime d m) → d ≤ 65535 := fun d m => parsePayload_day
  unfold State.classify
  split
  · split
    · exact h.offer _ _ hp
    · exact h
  · split
    · exact (h.offer _ _ hp).forwardFrame f
    · unfold State.classifyOther; split
      · exact h.countPoliced
      · exact h.countPoliced.evolves (evolves_recall (.refl _) _ _)
      · exact h.absorbAndPass f

theorem State.Ok.goodFrame (h : s.Ok) (f : Frame) : (s.goodFrame f).Ok := by
  have k := h.modRing (fun r => { r with lastGood := some s.now }) { h.ring with } h.counts rfl
  unfold State.goodFrame
  refine State.Ok.classify ?_ f
  split
  · exact k
  · exact k.evolves (evolves_followSite (evolves_scan (evolves_restoreSight (.refl _) true)))

theorem State.Ok.takeCheck (h : s.Ok) (b : Byte) : (s.takeCheck b).Ok := by
  have k := h.modRing (fun r => { r with rx := .hunt }) { h.ring with } h.counts rfl
  unfold State.takeCheck
  split
  · unfold State.frameComplete
    dsimp only
    split
    · exact k.goodFrame _
    · exact k.countBadCheck
  · exact h

theorem State.Ok.takeByte (h : s.Ok) (now : Nat) (b : Byte) : (s.modRing (Ring.takeByte now b)).Ok := by
  have key : (s.ring.takeByte now b).Ok ∧ (s.ring.takeByte now b).counts.Ok
      ∧ (s.ring.takeByte now b).gasStop = s.ring.gasStop := by
    unfold Ring.takeByte
    split
    · split
      · exact ⟨{ h.ring with }, h.counts, rfl⟩
      · exact ⟨h.ring, h.counts, rfl⟩
    · split
      · exact ⟨{ h.ring with }, h.counts.badCheck, rfl⟩
      · exact ⟨{ h.ring with }, h.counts, rfl⟩
  exact h.modRing _ key.1 key.2.1 key.2.2

theorem State.Ok.rxTimeout (h : s.Ok) : (s.modRing fun r => { r with rx := .hunt }.countRunt).Ok :=
  h.modRing _ (by exact { h.ring with })
      (by exact ⟨countUp_le _, h.counts.2.1, h.counts.2.2.1, h.counts.2.2.2.1, h.counts.2.2.2.2.1, h.counts.2.2.2.2.2⟩) (by rfl)

theorem State.Ok.outputEnds (h : s.Ok) : s.outputEnds.Ok := by
  have k := h.modRing (fun r => { r with sending := none }) { h.ring with } h.counts rfl
  unfold State.outputEnds
  split
  · exact h
  · dsimp only
    split
    · exact k.evolves (evolves_orderSent (.refl _) _ _)
    · exact k

theorem State.coldReset_ok (s : State) (straps : BitVec 2) : (s.coldReset straps).Ok where
  ring := ⟨Nat.zero_le _, Nat.zero_le _, Nat.zero_le _, Nat.zero_le _, Nat.zero_le _, List.nodup_nil,
    fun _ _ h => by cases h⟩
  counts := ⟨Nat.zero_le _, Nat.zero_le _, Nat.zero_le _, Nat.zero_le _, Nat.zero_le _, Nat.zero_le _⟩
  cells := by
    intro i
    have : (s.coldReset straps).cell i = {} := by
      show (Vector.replicate 192 ({} : Cell))[i.val] = {}
      simp
    rw [this]
    exact ⟨Nat.zero_le _, Nat.zero_le _⟩
  clock := ⟨Nat.zero_le _, Nat.zero_le _⟩
  gas := rfl
  queue := ⟨List.nodup_nil, List.Pairwise.nil⟩
  site := ⟨rfl, Nat.zero_le _, Nat.zero_le _, fun _ => rfl⟩
  pump := rfl

end

end Sys2Proof.Machine
end

