-- ==== Sys2Proof/Laws/Requests.lean ====
section
/-! SUPPORT. What taking a request does, said once: every request row offers its request, an offered request that passes step
1 of R174 is acted on with its reply's place held, and the reply stands in that place ahead of the event's notices. -/

namespace Sys2Proof.Machine

/-- Every request row is its request, offered after the row's time (log 8). -/
theorem exec_request {c : Instr} {src : Byte} {p : Parsed} (h : requestOf c = some (src, p)) (s : State) :
    exec c s = .next ((s.begin (dtOf c)).offer src p).settle := by
  cases c <;> cases h <;> rfl

/-- The state in which a request is acted on: its reply's place is held (R160). -/
def State.heldFor (s : State) (source : Byte) : State :=
  s.modRing fun r => { r with replies := r.replies ++ [⟨source, r.ownAddress, kindReply, []⟩] }

/-- A frame put in the place behind `l` leaves what stands before and behind it. -/
theorem placeAt_append (l m : List Frame) (x f : Frame) : placeAt l.length f (l ++ x :: m) = l ++ f :: m := by
  unfold placeAt
  rw [if_pos (by simp)]
  simp

/-- Without room in the reply queue a request is counted and nothing else happens (R160). -/
theorem State.offer_full {s : State} (h : ¬ s.ring.replies.length < replyCap) (src : Byte) (p : Parsed) :
    s.offer src p
      = s.modRing fun r => { r with counts := { r.counts with requestDrop := countUp r.counts.requestDrop } } :=
  if_neg h

/-- A request that is answered leaves the answer's state, with the reply ahead of the notices `ns` of the event (R160). -/
theorem State.offer_answered {s : State} {src : Byte} {p : Parsed} {a : Answer} {ns : List Frame}
    (h : s.ring.replies.length < replyCap) (ha : (s.heldFor src).answer src p = a)
    (hn : a.state.ring.replies = s.ring.replies ++ ⟨src, s.ring.ownAddress, kindReply, []⟩ :: ns) :
    s.offer src p = a.state.modRing fun r =>
      { r with replies := s.ring.replies ++ replyFrame s.ring.ownAddress src p.code a :: ns } := by
  unfold State.offer State.takeRequest
  rw [if_pos h]
  dsimp only
  rw [show (s.modRing fun r => { r with replies := r.replies ++ [⟨src, r.ownAddress, kindReply, []⟩] }) = s.heldFor src
    from rfl, ha]
  unfold State.modRing
  dsimp only
  rw [hn, placeAt_append]

/-- A request that passes step 1 of R174 is acted on. -/
theorem State.answer_request {s : State} {src : Byte} (h : s.takesFrom src) (r : Request) :
    (s.heldFor src).answer src (.request r) = (s.heldFor src).act r := by
  unfold State.answer
  rw [show (s.heldFor src).sourceBarred src = s.sourceBarred src from rfl, h.2]
  rfl

/-- A request that passes step 1 and hands no notice leaves the state it makes with its reply at the tail (R174, R189). -/
theorem State.offer_request {s t : State} {src : Byte} {r : Request} {st : Status} {n : Nat} {data : List Byte}
    (h : s.takesFrom src)
    (ha : (s.heldFor src).act r = ⟨t.heldFor src, st, n, data⟩)
    (hr : t.ring.replies = s.ring.replies) (ho : t.ring.ownAddress = s.ring.ownAddress) :
    s.offer src (.request r) = t.replied src r.code st n data := by
  rw [State.offer_answered h.1 ((State.answer_request h r).trans ha) (ns := [])
    (by show t.ring.replies ++ [_] = _; rw [hr, ho])]
  unfold State.replied State.heldFor State.modRing replyFrame
  simp only [hr, ho, Parsed.code]

/-- The settlement of a request that started no scan and made no commit applicable. -/
theorem State.replied_quiet {t : State} (h : t.marks = {}) (src code : Byte) (st : Status) (n : Nat) (data : List Byte) :
    (t.replied src code st n data).settle = (t.replied src code st n data).quietEnd :=
  State.settle_quiet (by show t.marks.scan = _; rw [h]) (by show t.marks.commit = _; rw [h])

end Sys2Proof.Machine
end

