-- ==== Sys2Proof/Laws/Asked.lean ====
section
/-! SUPPORT. What a request, and an event as a whole, keeps of the items that only few events move: the time base, the own
address, the receiver, the frame at the output, the filtered lines, the gas latch, the site clock and the committed images. -/

namespace Sys2Proof.Machine

/-! ## Staging and images (R176 to R181) -/

/-- The images stand, and an image left pending is the one that was pending before or one that may not be applied yet. -/
def State.StagedKept (s t : State) : Prop :=
  t.images = s.images ∧ (t.mgmt.staging = .pending →
    (s.mgmt.staging = .pending ∧ t.mgmt.stagedTable = s.mgmt.stagedTable ∧ t.mgmt.staged = s.mgmt.staged)
      ∨ t.mayApply = false)

/-- The image just received has been applied, clamped (R178). -/
def State.Committed (s t : State) : Prop :=
  t.mgmt.staging = .empty ∧ ∃ tb, s.mgmt.stagedTable = some tb ∧ s.mgmt.staging = .receiving
    ∧ t.images = s.images.put tb (clampImage tb s.mgmt.staged)

/-- The pending image has been applied as it was left pending (R181). -/
def State.AppliedPending (s t : State) : Prop :=
  t.mgmt.staging = .empty ∧ ∃ tb, s.mgmt.stagedTable = some tb ∧ s.mgmt.staging = .pending
    ∧ t.images = s.images.put tb s.mgmt.staged

theorem State.StagedKept.refl (s : State) : s.StagedKept s :=
  ⟨rfl, fun h => .inl ⟨h, rfl, rfl⟩⟩

theorem State.StagedKept.of_eq {s t : State} (h : t.images = s.images) (k : t.mgmt = s.mgmt) : s.StagedKept t :=
  ⟨h, fun e => .inl ⟨k ▸ e, by rw [k], by rw [k]⟩⟩

/-- What applying an image leaves of the images and of staging (R181). -/
theorem State.applyImage_images (s : State) (tb : TableId) (b : List Byte) :
    (s.applyImage tb b).images = s.images.put tb b ∧ (s.applyImage tb b).mgmt.staging = .empty := by
  unfold State.applyImage
  extract_lets old stale s1 s2 s3 s4
  have h2 := s1.blocksAct_images tb old stale
  have h3 : s3.images = s.images.put tb b ∧ s3.mgmt.staging = .empty := ⟨h2.1, rfl⟩
  clear_value s3
  show s4.images = _ ∧ s4.mgmt.staging = _
  simp only [s4]
  split
  · exact h3
  · exact h3

/-! ## What a request keeps -/

/-- The filtered lines stand through what the blocks make of a state. -/
theorem State.Evolves.lines {wet com : Bool} {s t : State} (h : State.Evolves wet com s t) :
    (t.site.src, t.site.gas, t.site.reslow, t.site.trig) = (s.site.src, s.site.gas, s.site.reslow, s.site.trig) := by
  rw [h.src, h.gas, h.reslow, h.trig]

/-- What taking the request `r` makes of `s`, but for the reply: the items that only some requests move. -/
structure State.Asked (r : Request) (s t : State) : Prop where
  pending : t.pending = s.pending
  now : t.now = s.now
  trigLevel : t.trigLevel = s.trigLevel
  ownAddress : t.ring.ownAddress = s.ring.ownAddress
  rx : t.ring.rx = s.ring.rx
  sending : t.ring.sending = s.ring.sending
  lines : (t.site.src, t.site.gas, t.site.reslow, t.site.trig) = (s.site.src, s.site.gas, s.site.reslow, s.site.trig)
  lastGood : t.ring.lastGood = s.ring.lastGood ∨ t.ring.lastGood = some s.now
  latch : t.site.gasLatch = s.site.gasLatch ∨ (r = .clearGas ∧ s.site.gas.level = false ∧ t.site.gasLatch = false)
  clock : t.mgmt.clock = s.mgmt.clock ∨ ∃ d m, r = .setTime d m
  images : s.StagedKept t ∨ (r = .loadCommit ∧ s.Committed t)

theorem State.Asked.of_evolves {r : Request} {s t : State} {wet : Bool} (h : State.Evolves wet false s t) :
    State.Asked r s t :=
  ⟨h.pending, h.now, h.trigLevel, h.ownAddress, h.rx, h.sending,
    h.lines, .inl h.lastGood, .inl h.gasLatch, .inl h.clock,
    .inl (.of_eq (h.images rfl).1 (h.images rfl).2.1)⟩

theorem State.Asked.refl (r : Request) (s : State) : State.Asked r s s :=
  .of_evolves (wet := true) (.refl s)

/-- A request that moves only the Management Agent's own items. -/
theorem State.Asked.of_mgmt {r : Request} {s : State} (f : Mgmt → Mgmt)
    (hc : (f s.mgmt).clock = s.mgmt.clock ∨ ∃ d m, r = .setTime d m)
    (hp : (f s.mgmt).staging = .pending →
      (s.mgmt.staging = .pending ∧ (f s.mgmt).stagedTable = s.mgmt.stagedTable ∧ (f s.mgmt).staged = s.mgmt.staged)
        ∨ s.mayApply = false) :
    State.Asked r s (s.modMgmt f) :=
  ⟨rfl, rfl, rfl, rfl, rfl, rfl, rfl, .inl rfl, .inl rfl, hc, .inl ⟨rfl, hp⟩⟩

/-- The same after an evolution that leaves the Management Agent alone. -/
theorem State.Asked.after {r : Request} {s t u : State} {wet : Bool} (h : State.Evolves wet false s t)
    (k : State.Asked r t u) : State.Asked r s u := by
  have hi := (h.images rfl).1
  have hm := (h.images rfl).2.1
  refine ⟨k.pending.trans h.pending, k.now.trans h.now, k.trigLevel.trans h.trigLevel, k.ownAddress.trans h.ownAddress,
    k.rx.trans h.rx, k.sending.trans h.sending, ?_, ?_, ?_, ?_, ?_⟩
  · exact k.lines.trans h.lines
  · rw [← h.lastGood, ← h.now]; exact k.lastGood
  · rw [← h.gasLatch, ← h.gas]; exact k.latch
  · rw [← h.clock]; exact k.clock
  · have := k.images
    unfold State.StagedKept State.Committed at *
    rw [hi, hm] at this
    exact this

/-- A warm restart empties staging and keeps the clock and the gas latch (R187). -/
theorem State.asked_restart (s : State) : State.Asked .restart s s.warmRestart := by
  unfold State.warmRestart
  extract_lets s1 s2 s3 s4 s5 s6 s7 s8 s9
  have h2 : State.Evolves true false s1 s2 := evolves_eachStr (.refl s1) _ fun i u k => evolves_endCause k i _
  have h3 : State.Evolves true false s1 s3 := evolves_eachStr h2 _ fun i u k => evolves_standingOrders k i
  have h4 : State.Evolves true false s1 s4 :=
    evolves_restartWatering (evolves_modWater h3 _ fun w => .inl ⟨rfl, rfl⟩)
  have h5 : State.Evolves true false s1 s5 := evolves_genIdle h4
  have h6 : State.Evolves true false s1 s6 := evolves_eachStr h5 _ fun i u k => evolves_modCharge k i _
  have h7 : State.Evolves true false s1 s7 := evolves_queue h6 [] fun _ => ⟨List.nodup_nil, List.Pairwise.nil⟩
  have e1 : s1.pending = s.pending ∧ s1.now = s.now ∧ s1.trigLevel = s.trigLevel ∧ s1.site = s.site ∧ s1.mgmt = s.mgmt
      ∧ s1.images = s.images ∧ s1.ring.ownAddress = s.ring.ownAddress ∧ s1.ring.rx = s.ring.rx
      ∧ s1.ring.sending = s.ring.sending := ⟨rfl, rfl, rfl, rfl, rfl, rfl, rfl, rfl, rfl⟩
  clear_value s1 s2 s3 s4 s5 s6 s7
  have h8 : State.Evolves true true s1 s7.discardStaging := evolves_discardStaging h7.all
  have e8 : s8.images = s7.images ∧ s8.mgmt.staging = .empty := by
    refine ⟨?_, ?_⟩
    · show s7.discardStaging.images = _
      unfold State.discardStaging; dsimp only; split <;> rfl
    · show s7.discardStaging.mgmt.staging = _
      unfold State.discardStaging; dsimp only; split <;> rfl
  have r8 : s8.ring = s7.discardStaging.ring ∧ s8.site = s7.discardStaging.site
      ∧ s8.mgmt.clock = s7.discardStaging.mgmt.clock ∧ s8.now = s7.discardStaging.now
      ∧ s8.pending = s7.discardStaging.pending ∧ s8.trigLevel = s7.discardStaging.trigLevel :=
    ⟨rfl, rfl, rfl, rfl, rfl, rfl⟩
  clear_value s8
  have h9 : State.Evolves true false (s8.modRing Ring.countersCleared) s9 := evolves_restoreSight (.refl _) false
  clear_value s9
  obtain ⟨p1, p2, p3, p4, p5, p6, p7, p8, p9⟩ := e1
  obtain ⟨q1, q2, q3, q4, q5, q6⟩ := r8
  refine ⟨?_, ?_, ?_, ?_, ?_, ?_, ?_, .inr ?_, .inl ?_, .inl ?_, .inl ⟨?_, ?_⟩⟩
  · exact h9.pending.trans (q5.trans (h8.pending.trans p1))
  · exact h9.now.trans (q4.trans (h8.now.trans p2))
  · exact h9.trigLevel.trans (q6.trans (h8.trigLevel.trans p3))
  · exact h9.ownAddress.trans ((congrArg Ring.ownAddress q1).trans (h8.ownAddress.trans p7))
  · exact h9.rx.trans ((congrArg Ring.rx q1).trans (h8.rx.trans p8))
  · exact h9.sending.trans ((congrArg Ring.sending q1).trans (h8.sending.trans p9))
  · have a := h9.src; have b := h9.gas; have c := h9.reslow; have d := h9.trig
    show (s9.site.src, s9.site.gas, s9.site.reslow, s9.site.trig) = _
    rw [a, b, c, d]
    show (s8.site.src, s8.site.gas, s8.site.reslow, s8.site.trig) = _
    rw [q2, h8.src, h8.gas, h8.reslow, h8.trig, p4]
  · show some s9.now = _
    rw [h9.now]
    exact congrArg some (q4.trans (h8.now.trans p2))
  · refine h9.gasLatch.trans ?_
    show s8.site.gasLatch = _
    rw [q2, h8.gasLatch, p4]
  · refine h9.clock.trans ?_
    show s8.mgmt.clock = _
    rw [q3, h8.clock, p5]
  · exact (h9.images rfl).1.trans (e8.1.trans ((h7.images rfl).1.trans p6))
  · intro e
    have : s9.mgmt = s8.mgmt := (h9.images rfl).2.1
    exact absurd ((congrArg Mgmt.staging this).symm.trans e) (by rw [e8.2]; decide)

/-- What each request keeps (R175 to R187). -/
theorem State.asked_act (s : State) (r : Request) : State.Asked r s (s.act r).state := by
  have same : ∀ r, State.Asked r s s := fun r => .refl r s
  have mg : ∀ (r : Request) (f : Mgmt → Mgmt), (f s.mgmt).clock = s.mgmt.clock → (f s.mgmt).staging = s.mgmt.staging →
      (f s.mgmt).stagedTable = s.mgmt.stagedTable → (f s.mgmt).staged = s.mgmt.staged → State.Asked r s (s.modMgmt f) :=
    fun r f h1 h2 h3 h4 => .of_mgmt f (.inl h1) fun e => .inl ⟨h2 ▸ e, h3, h4⟩
  have str : ∀ (r : Request) (b : Byte) (f : Str → Answer), (∀ i, State.Asked r s (f i).state) →
      State.Asked r s (s.withStr b f).state := by
    intro r b f hf
    unfold State.withStr
    split
    · split
      · exact hf _
      · exact same _
    · exact same _
  have ev : ∀ (r : Request) {t : State}, State.Evolves true false s t → State.Asked r s t := fun r t h => .of_evolves h
  cases r with
  | status => exact ⟨rfl, rfl, rfl, rfl, rfl, rfl, rfl, .inl rfl, .inl rfl, .inl rfl, .inl (.of_eq rfl rfl)⟩
  | tableRead t o n =>
    show State.Asked _ s (s.askTableRead t o n).state
    unfold State.askTableRead; (repeat' split) <;> exact same _
  | loadBegin t n =>
    show State.Asked _ s (s.askLoadBegin t n).state
    unfold State.askLoadBegin
    (repeat' split) <;> first | exact same _ | (dsimp only [State.accept]; exact .of_mgmt _ (.inl (by exact rfl)) (by intro e; cases e))
  | loadPart o d =>
    show State.Asked _ s (s.askLoadPart o d).state
    unfold State.askLoadPart
    split
    · exact same _
    · split
      · exact same _
      · next h =>
        split
        · exact same _
        · dsimp only [State.accept]
          refine .of_mgmt _ (.inl (by exact rfl)) fun e => ?_
          have e : s.mgmt.staging = .pending := e
          exact absurd e (by simp only [ne_eq, Decidable.not_not] at h; rw [h]; decide)
  | loadCommit =>
    show State.Asked _ s s.askLoadCommit.state
    unfold State.askLoadCommit
    split
    · next tb h1 h2 =>
      split
      · unfold State.commitStaged
        split
        · (dsimp only [State.accept]; exact .of_mgmt _ (.inl (by exact rfl)) (by intro e; cases e))
        · dsimp only
          split
          · have k := evolves_applyImage (.refl s) tb (clampImage tb s.mgmt.staged)
            have j := s.applyImage_images tb (clampImage tb s.mgmt.staged)
            exact ⟨k.pending, k.now, k.trigLevel, k.ownAddress, k.rx, k.sending,
              k.lines,
              .inl k.lastGood, .inl k.gasLatch, .inl k.clock, .inr ⟨rfl, j.2, tb, h2, h1, j.1⟩⟩
          · next hm =>
            refine .of_mgmt (fun m => { m with staging := .pending, staged := clampImage tb s.mgmt.staged }) (.inl rfl)
              fun _ => .inr (by simpa using hm)
      · exact same _
    · exact same _
  | loadDiscard =>
    have k := evolves_discardStaging (wet := true) (.refl s)
    have e : s.discardStaging.images = s.images ∧ s.discardStaging.mgmt.staging = .empty := by
      unfold State.discardStaging; dsimp only; split <;> exact ⟨rfl, rfl⟩
    exact ⟨k.pending, k.now, k.trigLevel, k.ownAddress, k.rx, k.sending,
      k.lines,
      .inl k.lastGood, .inl k.gasLatch, .inl k.clock, .inl ⟨e.1, fun h => absurd (e.2.symm.trans h) (by decide)⟩⟩
  | cursor sp ix =>
    show State.Asked _ s (s.askCursor sp ix).state
    unfold State.askCursor; (repeat' split) <;> first | exact same _ | (dsimp only [State.accept]; exact mg _ _ (by exact rfl) (by exact rfl) (by exact rfl) (by exact rfl))
  | read n =>
    show State.Asked _ s (s.askRead n).state
    unfold State.askRead; dsimp only
    split
    · exact same _
    · split
      · exact same _
      · show State.Asked _ s (if s.mgmt.held then s else _)
        split
        · exact same _
        · exact mg _ (Mgmt.advance _) rfl rfl rfl rfl
  | write a =>
    have adv : ∀ {t : State}, State.Evolves true false s t → State.Asked (.write a) s (t.modMgmt (Mgmt.advance 1)) := by
      intro t h
      exact .after h (.of_mgmt _ (.inl rfl) fun e => .inl ⟨e, rfl, rfl⟩)
    show State.Asked _ s (s.askWrite a).state
    unfold State.askWrite; dsimp only
    split
    · split
      · exact same _
      · unfold State.writeCell; split
        · split
          · exact adv (evolves_modCell (.refl s) _ _ fun c _ => ⟨Nat.min_le_left _ _, Nat.zero_le _⟩)
          · exact same _
        · exact same _
    · split
      · exact same _
      · unfold State.writeString; split
        · split
          · exact adv (evolves_writeItems (.refl s) _ _ _ _)
          · exact same _
        · exact same _
    · split <;> exact same _
    · split <;> exact same _
  | hold => exact mg _ (fun m => { m with mark := some m.cursor, held := true }) rfl rfl rfl rfl
  | release =>
    show State.Asked _ s s.askRelease.state
    unfold State.askRelease; split
    · (dsimp only [State.accept]; exact mg _ _ (by exact rfl) (by exact rfl) (by exact rfl) (by exact rfl))
    · exact same _
  | enqueue st k r p =>
    refine str _ st _ fun i => ?_
    split
    · split
      · exact same _
      · split
        · exact same _
        · exact ev _ (evolves_enqueue (.refl _) _)
    · exact same _
  | cancel st k =>
    show State.Asked _ s (s.askCancel st k).state
    unfold State.askCancel; split
    · split
      · exact ev _ (evolves_cancelEntry (.refl _) _ _)
      · exact same _
    · exact same _
  | abort st =>
    refine str _ st _ fun i => ?_
    split
    · exact ev _ (evolves_abortRounds (.refl _) _)
    · exact same _
  | direct st v i =>
    refine str _ st _ fun j => ?_
    split
    · exact ev _ (evolves_directRequest (.refl _) _ _ _)
    · exact same _
  | excludeStr st =>
    refine str _ st _ fun j => ?_
    split
    · exact ev _ (evolves_excludeStr (.refl _) _)
    · exact same _
  | includeStr st =>
    refine str _ st _ fun j => ?_
    split
    · exact ev _ (evolves_toBus (.refl _) _)
    · exact same _
  | clearFault st =>
    refine str _ st _ fun j => ?_
    split
    · exact same _
    · split
      · exact ev _ (evolves_toBusAndFree (.refl _) _)
      · exact ev _ (evolves_toBus (.refl _) _)
      · exact ev _ (evolves_startReturn (.refl _) _ _ _)
      · exact same _
  | clearGas =>
    show State.Asked _ s s.askClearGas.state
    unfold State.askClearGas; split
    · exact same _
    · next h =>
      split
      · exact ⟨rfl, rfl, rfl, rfl, rfl, rfl, rfl, .inl rfl, .inr ⟨rfl, by simpa using h, rfl⟩, .inl rfl,
          .inl (.of_eq rfl rfl)⟩
      · exact same _
  | setTime d m =>
    show State.Asked _ s (s.askSetTime d m).state
    unfold State.askSetTime; split
    · exact same _
    · dsimp only [State.accept]
      exact .of_mgmt _ (.inr ⟨d, m, rfl⟩) (by intro e; exact .inl ⟨e, rfl, rfl⟩)
  | refill ml => exact ev _ (evolves_refillTo (.refl _) _)
  | setMode m =>
    show State.Asked _ s (s.askSetMode m).state
    unfold State.askSetMode; split
    · exact same _
    · split
      · exact same _
      · split
        · split
          · exact ⟨rfl, rfl, rfl, rfl, rfl, rfl, rfl, .inl rfl, .inl rfl, .inl rfl,
              .inl ⟨rfl, fun e => .inl ⟨by exact e, rfl, rfl⟩⟩⟩
          · exact same _
        · split
          · exact ⟨rfl, rfl, rfl, rfl, rfl, rfl, rfl, .inl rfl, .inl rfl, .inl rfl,
              .inl ⟨rfl, fun e => .inl ⟨by exact e, rfl, rfl⟩⟩⟩
          · exact same _
  | restart => exact s.asked_restart

/-! ## What a frame keeps -/

/-- A further change of the Ring Port that leaves the receiver, the output, the silence and the own address. -/
theorem State.Asked.ring {r : Request} {s t : State} (h : State.Asked r s t) (f : Ring → Ring)
    (ha : (f t.ring).ownAddress = t.ring.ownAddress) (hx : (f t.ring).rx = t.ring.rx)
    (hs : (f t.ring).sending = t.ring.sending) (hl : (f t.ring).lastGood = t.ring.lastGood) :
    State.Asked r s (t.modRing f) :=
  ⟨h.pending, h.now, h.trigLevel, ha.trans h.ownAddress, hx.trans h.rx, hs.trans h.sending, h.lines,
    h.lastGood.imp hl.trans hl.trans, h.latch, h.clock, h.images⟩

/-- What the answer keeps, the offer keeps. -/
theorem State.Asked.offered {r : Request} {s : State} {src : Byte} {p : Parsed}
    (h : State.Asked r (s.heldFor src) ((s.heldFor src).answer src p).state) : State.Asked r s (s.offer src p) := by
  unfold State.offer
  split
  · have k : State.Asked r s ((s.heldFor src).answer src p).state :=
      ⟨h.pending, h.now, h.trigLevel, h.ownAddress, h.rx, h.sending, h.lines, h.lastGood, h.latch, h.clock, h.images⟩
    exact k.ring (fun q => { q with
      replies := placeAt s.ring.replies.length (replyFrame s.ring.ownAddress src p.code ((s.heldFor src).answer src p))
        q.replies }) rfl rfl rfl rfl
  · exact State.Asked.ring (.refl r s) (fun q => { q with
      counts := { q.counts with requestDrop := countUp q.counts.requestDrop } }) rfl rfl rfl rfl

/-- A request taken, or dropped for want of room, keeps what the request keeps. -/
theorem State.asked_offer (s : State) (src : Byte) (r : Request) : State.Asked r s (s.offer src (.request r)) := by
  refine .offered ?_
  unfold State.answer
  by_cases h : (s.heldFor src).sourceBarred src = true
  · rw [if_pos h]; exact .refl r _
  · rw [if_neg h]; exact State.asked_act _ r

/-- A request that asks nothing the part knows keeps everything (R174). -/
theorem State.asked_offer_other (s : State) (src : Byte) {p : Parsed} (hp : ∀ r, p ≠ .request r) (r : Request) :
    State.Asked r s (s.offer src p) := by
  refine .offered ?_
  unfold State.answer
  by_cases h : (s.heldFor src).sourceBarred src = true
  · rw [if_pos h]; exact .refl r _
  · rw [if_neg h]
    cases p with
    | unknown c => exact .refl r _
    | tooShort c => exact .refl r _
    | request q => exact absurd rfl (hp q)

/-- What an offered request keeps, whatever it says. -/
theorem State.asked_offer_any (s : State) (src : Byte) (p : Parsed) : ∃ r, State.Asked r s (s.offer src p) := by
  cases p with
  | request r => exact ⟨r, s.asked_offer src r⟩
  | unknown c => exact ⟨.status, s.asked_offer_other src (fun r h => by cases h) _⟩
  | tooShort c => exact ⟨.status, s.asked_offer_other src (fun r h => by cases h) _⟩

/-- A frame put in the forward buffer, or dropped for want of room. -/
theorem State.Asked.forward {r : Request} {s t : State} (h : State.Asked r s t) (f : Frame) :
    State.Asked r s (t.forwardFrame f) := by
  unfold State.forwardFrame
  refine h.ring _ ?_ ?_ ?_ ?_ <;> split <;> rfl

/-- The Pass Table moves its counters and the forward buffer alone (R162). -/
theorem State.Asked.passOn {r : Request} {s t : State} (h : State.Asked r s t) (f : Frame) : State.Asked r s (t.passOn f) := by
  unfold State.passOn
  split
  · exact h.forward f
  · split
    · exact h.forward f
    · exact h
    · unfold State.thinFrame
      split
      · exact State.Asked.forward (h.ring _ rfl rfl rfl rfl) f
      · exact h.ring _ rfl rfl rfl rfl

/-- What the classification of a frame keeps (R159 to R162). -/
theorem State.asked_classify (s : State) (f : Frame) : ∃ r, State.Asked r s (s.classify f) := by
  unfold State.classify
  split
  · split
    · exact s.asked_offer_any _ _
    · exact ⟨.status, .refl _ s⟩
  · split
    · obtain ⟨r, h⟩ := s.asked_offer_any f.src (parsePayload f.payload)
      exact ⟨r, h.forward f⟩
    · refine ⟨.status, ?_⟩
      unfold State.classifyOther
      split
      · exact State.Asked.ring (.refl _ s) _ rfl rfl rfl rfl
      · have k := evolves_recall (wet := true) (com := false) (.refl (s.modRing Ring.countPoliced))
          (by assumption) f
        have h : State.Asked .status s (s.modRing Ring.countPoliced) := State.Asked.ring (.refl _ s) _ rfl rfl rfl rfl
        have j := State.Asked.of_evolves (r := .status) k
        exact ⟨j.pending, j.now, j.trigLevel, j.ownAddress, j.rx, j.sending, j.lines, j.lastGood, j.latch, j.clock, j.images⟩
      · unfold State.absorbAndPass
        have h : State.Asked .status s (s.absorb f) := .of_evolves (evolves_absorb (.refl s) f)
        split
        · exact h.passOn f
        · exact h.forward f

/-- What a good frame keeps; its arrival time is last_good after it (R158). -/
theorem State.asked_goodFrame (s : State) (f : Frame) :
    ∃ r, State.Asked r s (s.goodFrame f) ∧ (s.goodFrame f).ring.lastGood = some s.now := by
  have h1 : State.Evolves true false (s.modRing fun r => { r with lastGood := some s.now })
      (if s.ring.sight = .seeing then s.modRing fun r => { r with lastGood := some s.now }
        else ((s.modRing fun r => { r with lastGood := some s.now }).restoreSight true).scan.followSite) := by
    split
    · exact .refl _
    · exact evolves_followSite (evolves_scan (evolves_restoreSight (.refl _) true))
  unfold State.goodFrame
  dsimp only
  revert h1
  generalize (if s.ring.sight = .seeing then s.modRing fun r => { r with lastGood := some s.now }
        else ((s.modRing fun r => { r with lastGood := some s.now }).restoreSight true).scan.followSite) = u
  intro h1
  obtain ⟨r, h⟩ := u.asked_classify f
  have k := State.Asked.after h1 h
  refine ⟨r, ⟨k.pending, k.now, k.trigLevel, k.ownAddress, k.rx, k.sending, k.lines, ?_, k.latch, k.clock, k.images⟩, ?_⟩
  · exact .inr (k.lastGood.elim id id)
  · exact k.lastGood.elim id id

/-- What the last byte of a frame keeps. -/
theorem State.asked_takeCheck (s : State) (b : Byte) :
    ∃ r, State.Asked r (s.modRing fun r => { r with rx := (s.takeCheck b).ring.rx }) (s.takeCheck b) := by
  unfold State.takeCheck
  split
  · unfold State.frameComplete
    dsimp only
    split
    · obtain ⟨r, h, -⟩ := (s.modRing fun r => { r with rx := .hunt }).asked_goodFrame (frameOf (‹List Byte› ++ [b]))
      exact ⟨r, by rw [h.rx]; exact h⟩
    · exact ⟨.status, State.Asked.ring (.refl _ (s.modRing fun r => { r with rx := .hunt })) _ rfl rfl rfl rfl⟩
  · exact ⟨.status, .refl _ s⟩

/-! ## What an event's end keeps -/

/-- The scans and the outputs at the end of an event leave the images and the Management Agent. -/
theorem State.settle_images (s : State) :
    s.settle.images = s.followSite.deferredCommit.images ∧ s.settle.mgmt = s.followSite.deferredCommit.mgmt := by
  have h : State.Evolves true false s.followSite.deferredCommit s.followSite.deferredCommit.followSite.scan.followSite :=
    evolves_followSite (evolves_scan (evolves_followSite (.refl _)))
  have key : ∀ u : State, ({ u.arbitrate with marks := {} } : State).images = u.images
      ∧ ({ u.arbitrate with marks := {} } : State).mgmt = u.mgmt := fun _ => ⟨rfl, rfl⟩
  unfold State.settle
  exact ⟨(key _).1.trans (h.images rfl).1, (key _).2.trans (h.images rfl).2.1⟩

/-- At the end of an event the images stand, or the image that was pending before the event has been applied (R181). -/
theorem State.settle_staged {s t : State} (h : s.StagedKept t) : t.settle.images = s.images ∨ s.AppliedPending t.settle := by
  obtain ⟨e1, e2⟩ := t.settle_images
  rw [e1]
  unfold State.AppliedPending
  rw [e1, e2]
  replace h : s.StagedKept t.followSite := h
  clear e1 e2
  revert h
  generalize t.followSite = t
  intro h
  unfold State.deferredCommit
  dsimp only
  split
  · unfold State.applyPending
    split
    · next tb h1 h2 =>
      simp only [Bool.and_eq_true] at h1
      obtain ⟨h1, hm⟩ := h1
      have hp : t.mgmt.staging = .pending := by
        have : (t.mgmt.staging == .pending) = true := h1
        simpa using this
      have j := State.applyImage_images ({ t with marks := { t.marks with commit := false } } : State) tb t.mgmt.staged
      rcases h.2 hp with ⟨k1, k2, k3⟩ | k
      · refine .inr ⟨j.2, tb, ?_, k1, ?_⟩
        · rw [← k2]; exact h2
        · rw [← k3, ← h.1]; exact j.1
      · have : t.mayApply = true := hm
        rw [k] at this; cases this
    · exact .inl h.1
  · exact .inl h.1

/-- With staging EMPTY the end of an event applies no image. -/
theorem State.settle_empty {t : State} (h : t.mgmt.staging = .empty) :
    t.settle.images = t.images ∧ t.settle.mgmt = t.mgmt := by
  obtain ⟨e1, e2⟩ := t.settle_images
  have hp : ∀ m : Marks, ({ t.followSite with marks := m } : State).applyPending = { t.followSite with marks := m } := by
    intro m
    unfold State.applyPending
    have : ({ t.followSite with marks := m } : State).commitPending = false := by
      show (t.mgmt.staging == .pending) = false
      rw [h]; rfl
    rw [this]
    rfl
  rw [e1, e2]
  show t.followSite.deferredCommit.images = t.followSite.images ∧ t.followSite.deferredCommit.mgmt = t.followSite.mgmt
  unfold State.deferredCommit
  dsimp only
  rw [hp]
  split <;> exact ⟨rfl, rfl⟩

/-- An image applied in an event stays as it is to the event's end. -/
theorem State.settle_committed {s t : State} (h : s.Committed t) : s.Committed t.settle := by
  obtain ⟨e1, e2⟩ := State.settle_empty h.1
  unfold State.Committed
  rw [e1, e2]
  exact h

theorem State.settle_appliedPending {s t : State} (h : s.AppliedPending t) : s.AppliedPending t.settle := by
  obtain ⟨e1, e2⟩ := State.settle_empty h.1
  unfold State.AppliedPending
  rw [e1, e2]
  exact h

theorem State.settle_gasLatch (s : State) : s.settle.site.gasLatch = s.site.gasLatch :=
  congrArg (fun x => x.2.2.1) s.settle_site_kept

theorem State.settle_clock (s : State) : s.settle.mgmt.clock = s.mgmt.clock :=
  congrArg (fun x => x.2.2.2.1) s.settle_mgmt_kept

theorem State.settle_minuteEnd (s : State) : s.settle.mgmt.minuteEnd = s.mgmt.minuteEnd :=
  congrArg (fun x => x.2.2.2.2) s.settle_mgmt_kept

end Sys2Proof.Machine
end

