-- ==== Sys2Proof/Laws/Exec.lean ====
section
/-! SUPPORT. What any command can do to the items that only few events move: one case analysis over the commands, which the
rules over every command rest on. -/

namespace Sys2Proof.Machine

/-- What the command `c` makes of `s` before the event's end is settled, for every command but COLD_RESET. -/
structure Leaves (c : Instr) (s v : State) : Prop where
  ownAddress : v.ring.ownAddress = s.ring.ownAddress
  latch : v.site.gasLatch = s.site.gasLatch
    ∨ ((∃ dt, c = .gasRise dt) ∧ v.site.gasLatch = true)
    ∨ (((∃ dt src, c = .clearGas dt src) ∨ mayEndFrame c = true) ∧ s.site.gas.level = false ∧ v.site.gasLatch = false)
  clock : v.mgmt.clock = s.mgmt.clock
    ∨ (∃ dt src d m, c = .setTime dt src d m) ∨ mayEndFrame c = true
    ∨ ((∃ dt, c = .siteMinute dt) ∧ v.mgmt.minuteEnd = s.mgmt.minuteEnd + 60000 ∧ v.mgmt.clock = s.mgmt.clock.next)
  images : s.StagedKept v ∨ s.AppliedPending v
    ∨ (((∃ dt src, c = .loadCommit dt src) ∨ mayEndFrame c = true) ∧ s.Committed v)

/-- An event that the blocks alone make. -/
theorem Leaves.of_evolves {c : Instr} {s v : State} {wet : Bool} (h : State.Evolves wet false s v) : Leaves c s v :=
  ⟨h.ownAddress, .inl h.gasLatch, .inl h.clock, .inl (.of_eq (h.images rfl).1 (h.images rfl).2.1)⟩

/-- An event that starts where another state stands in the items of `Leaves`. -/
theorem Leaves.from {c : Instr} {s u v : State} (h : Leaves c u v) (ho : u.ring.ownAddress = s.ring.ownAddress)
    (hs : u.site.gasLatch = s.site.gasLatch) (hg : u.site.gas.level = s.site.gas.level) (hm : u.mgmt = s.mgmt)
    (hi : u.images = s.images) : Leaves c s v := by
  refine ⟨h.ownAddress.trans ho, ?_, ?_, ?_⟩
  · rw [← hs, ← hg]; exact h.latch
  · rw [← hm]; exact h.clock
  · have := h.images
    unfold State.StagedKept State.AppliedPending State.Committed at *
    rw [hm, hi] at this
    exact this

/-- The time before an event moves none of these items. -/
theorem Leaves.begin {c : Instr} {s v : State} {dt : Nat} (h : Leaves c (s.begin dt) v) : Leaves c s v :=
  h.from (by simp) (by simp) (by simp) (by simp) (by simp)

/-- An event that is a request, but for the ones that move these items. -/
theorem Leaves.of_asked {c : Instr} {s v : State} {r : Request} (h : State.Asked r s v)
    (hg : r = .clearGas → (∃ dt src, c = .clearGas dt src) ∨ mayEndFrame c = true)
    (ht : ∀ d m, r = .setTime d m → (∃ dt src d m, c = .setTime dt src d m) ∨ mayEndFrame c = true)
    (hl : r = .loadCommit → (∃ dt src, c = .loadCommit dt src) ∨ mayEndFrame c = true) : Leaves c s v := by
  refine ⟨h.ownAddress, ?_, ?_, ?_⟩
  · exact h.latch.imp id fun k => .inr ⟨hg k.1, k.2⟩
  · rcases h.clock with k | ⟨d, m, k⟩
    · exact .inl k
    · exact .inr ((ht d m k).imp id .inl)
  · exact h.images.imp id fun k => .inr ⟨hl k.1, k.2⟩

/-- The last byte of a frame. -/
theorem Leaves.takeCheck {c : Instr} (hc : mayEndFrame c = true) (s : State) (b : Byte) : Leaves c s (s.takeCheck b) := by
  obtain ⟨r, h⟩ := s.asked_takeCheck b
  exact (Leaves.of_asked h (fun _ => .inr hc) (fun _ _ _ => .inr hc) fun _ => .inr hc).from rfl rfl rfl rfl rfl

theorem Leaves.takeLevel {c : Instr} {s v : State} {l : Line} (h : Leaves c (s.takeLevel l) v) (hl : l ≠ .gas) :
    Leaves c s v := by
  refine h.from rfl ?_ ?_ rfl rfl <;> cases l <;> first | rfl | exact absurd rfl hl

theorem Leaves.refl (c : Instr) (s : State) : Leaves c s s :=
  .of_evolves (wet := true) (.refl s)

/-- What any command can do to these items (R43, R153, R154, R156, R181, R186). -/
theorem exec_leaves {c : Instr} {s t : State} (h : exec c s = .next t) (hc : ∀ dt straps, c ≠ .coldReset dt straps) :
    ∃ v, Leaves c s v ∧ (t = v ∨ t = v.settle) := by
  have iff : ∀ {dt : Nat} {cond : State → Bool} {eff : State → State}, eventIf dt cond eff s = .next t →
      (∀ u, cond u = true → Leaves c u (eff u)) → ∃ v, Leaves c s v ∧ (t = v ∨ t = v.settle) := by
    intro dt cond eff e k
    unfold eventIf event at e
    split at e
    · next hb => cases e; exact ⟨_, (k _ hb).begin, .inr rfl⟩
    · cases e; exact ⟨_, (Leaves.refl c _).begin, .inl rfl⟩
  have req : ∀ {src : Byte} {p : Parsed}, requestOf c = some (src, p) →
      (∀ u, Leaves c u (u.offer src p)) → ∃ v, Leaves c s v ∧ (t = v ∨ t = v.settle) := by
    intro src p e k
    rw [exec_request e] at h
    cases h
    exact ⟨_, (k _).begin, .inr rfl⟩
  have ask : ∀ {src : Byte} {r : Request}, requestOf c = some (src, .request r) → r ≠ .clearGas → r ≠ .loadCommit →
      (∀ d m, r ≠ .setTime d m) → ∃ v, Leaves c s v ∧ (t = v ∨ t = v.settle) := by
    intro src r e h1 h2 h3
    exact req e fun u => .of_asked (u.asked_offer src r) (fun e => absurd e h1) (fun d m e => absurd e (h3 d m))
      fun e => absurd e h2
  have ev : ∀ {u v : State}, State.Evolves true false u v → Leaves c u v := fun h => .of_evolves h
  cases c with
  | coldReset dt st => exact absurd rfl (hc dt st)
  | rawLineChange dt l b =>
    cases h
    refine ⟨_, Leaves.begin (dt := dt) ?_, .inl rfl⟩
    refine ⟨rfl, .inl ?_, .inl rfl, .inl (.of_eq rfl rfl)⟩
    exact (Site.withFilter_kept _ l _).1
  | srcChange dt =>
    simp only [exec, execSrcChange] at h
    exact iff h fun u _ => Leaves.takeLevel (l := .src) (ev (evolves_srcChanges (.refl _))) (by decide)
  | gasRise dt =>
    simp only [exec, execGasRise] at h
    refine iff h fun u _ => ?_
    unfold State.gasTrips
    split
    · exact ⟨rfl, .inl rfl, .inl rfl, .inl (.of_eq rfl rfl)⟩
    · have k1 := evolves_eachStr (wet := true) (com := false)
        (.refl ((u.takeLevel .gas).modSite fun t => { t with gasLatch := true })) (fun i s => s.endCause i .gas)
        fun i u k => evolves_endCause k i _
      have k2 := evolves_endWateringEarly k1 .gas
      dsimp only
      revert k2
      generalize State.endWateringEarly _ _ = w
      intro k2
      have k3 : State.Evolves true false w.setGasStop (w.setGasStop.noticeAlarm .gas) := evolves_noticeAlarm (.refl _) _
      refine ⟨k3.ownAddress.trans k2.ownAddress, .inr (.inl ⟨⟨dt, rfl⟩, k3.gasLatch.trans k2.gasLatch⟩),
        .inl (k3.clock.trans k2.clock), .inl (.of_eq ?_ ?_)⟩
      · exact (k3.images rfl).1.trans (k2.images rfl).1
      · exact (k3.images rfl).2.1.trans (k2.images rfl).2.1
  | gasFall dt =>
    simp only [exec, execGasFall] at h
    exact iff h fun u _ => ⟨rfl, .inl rfl, .inl rfl, .inl (.of_eq rfl rfl)⟩
  | reslowRise dt =>
    simp only [exec, execReslowRise] at h
    exact iff h fun u _ => Leaves.takeLevel (l := .reslow) (ev (evolves_reslowRises (.refl _))) (by decide)
  | reslowFall dt =>
    simp only [exec, execReslowFall] at h
    exact iff h fun u _ => Leaves.takeLevel (l := .reslow) (ev (evolves_markScan (.refl _))) (by decide)
  | trigEdge dt =>
    simp only [exec, execTrigEdge] at h
    refine iff h fun u _ => Leaves.takeLevel (l := .trig) ?_ (by decide)
    unfold State.trigChanges
    refine Leaves.from (u := { u.takeLevel .trig with trigLevel := u.site.trig.raw }) (ev (evolves_markScan ?_)) rfl rfl rfl rfl rfl
    dsimp only
    split
    · split
      · exact evolves_endTriggered (.refl _) _
      · exact evolves_marks (.refl _) _
    · exact evolves_endTriggered (.refl _) _
    · exact .refl _
  | tachEdge dt =>
    cases h
    refine ⟨_, Leaves.begin (dt := dt) ?_, .inl rfl⟩
    exact ⟨rfl, .inl (Site.edge_kept _ _ _).1, .inl rfl, .inl (.of_eq rfl rfl)⟩
  | tachWindowEnd dt =>
    simp only [exec, execTachWindowEnd] at h
    refine iff h fun u _ => ?_
    unfold State.takeWindowEnd
    split
    · next w _ =>
      unfold State.windowEnds
      have j : (u.site.judgeWindow u.lim.fanMinRate w.count).gasLatch = u.site.gasLatch
          ∧ (u.site.judgeWindow u.lim.fanMinRate w.count).gas = u.site.gas := by
        unfold Site.judgeWindow; split <;> exact ⟨rfl, rfl⟩
      have fr : ∀ {v}, Leaves (.tachWindowEnd dt) (u.modSite fun t =>
          { t.judgeWindow u.lim.fanMinRate w.count with window := some ⟨w.start + 1000, 0⟩ }) v →
          Leaves (.tachWindowEnd dt) u v := fun h => h.from rfl j.1 (by exact congrArg Filter.level j.2) rfl rfl
      have ff : ∀ v : State, Leaves (.tachWindowEnd dt) v v.fanFails := fun v =>
        Leaves.from (u := v.modSite fun t => { t with fanFail := true, lowWindows := 0 })
          (ev (evolves_noticeAlarm
            (evolves_eachSlot (.refl _) _ fun sl u e => evolves_ite (evolves_slotEnds e sl _) e) _)) rfl rfl rfl rfl rfl
      dsimp only
      split
      · exact fr (ff _)
      · split
        · exact fr ⟨rfl, .inl rfl, .inl rfl, .inl (.of_eq rfl rfl)⟩
        · exact fr (.refl _ _)
    · exact .refl _ _
  | rxTimeout dt =>
    simp only [exec, execRxTimeout] at h
    exact iff h fun u _ => ⟨rfl, .inl rfl, .inl rfl, .inl (.of_eq rfl rfl)⟩
  | frameReceived dt b =>
    simp only [exec, execFrameReceived] at h
    exact iff h fun u _ => .takeCheck rfl u b
  | requestUnknown dt src p =>
    exact req rfl fun u => .of_asked (r := .status) (u.asked_offer_other src (fun r e => by cases e) _) (by intro e; cases e)
      (by intro _ _ e; cases e) (by intro e; cases e)
  | clearGas dt src =>
    exact req rfl fun u => .of_asked (u.asked_offer src _) (fun _ => .inl ⟨dt, src, rfl⟩) (by intro _ _ e; cases e)
      (by intro e; cases e)
  | setTime dt src d m =>
    exact req rfl fun u => .of_asked (u.asked_offer src _) (by intro e; cases e) (fun _ _ _ => .inl ⟨dt, src, d, m, rfl⟩)
      (by intro e; cases e)
  | loadCommit dt src =>
    exact req rfl fun u => .of_asked (u.asked_offer src _) (by intro e; cases e) (by intro _ _ e; cases e)
      (fun _ => .inl ⟨dt, src, rfl⟩)
  | applyPendingCommit dt =>
    simp only [exec, execApplyPendingCommit] at h
    refine iff h fun u hb => ?_
    have k := evolves_applyPending (.refl u)
    refine ⟨k.ownAddress, .inl k.gasLatch, .inl k.clock, ?_⟩
    unfold State.appliesPending at hb
    simp only [Bool.and_eq_true] at hb
    obtain ⟨⟨h1, h2⟩, h3⟩ := hb
    obtain ⟨tb, h3⟩ := Option.isSome_iff_exists.mp h3
    have e : u.applyPending = u.applyImage tb u.mgmt.staged := by
      unfold State.applyPending; rw [h1, h2, h3]; rfl
    rw [e]
    have j := u.applyImage_images tb u.mgmt.staged
    exact .inr (.inl ⟨j.2, tb, h3, by have : (u.mgmt.staging == .pending) = true := h1; simpa using this, j.1⟩)
  | siteMinute dt =>
    simp only [exec, execSiteMinute] at h
    refine iff h fun u _ => ?_
    unfold State.minutePasses
    extract_lets w r
    have k : State.Evolves true false w ((w.accountMinute r).allowanceMinute r).markScan :=
      evolves_markScan (evolves_allowanceMinute (evolves_accountMinute (.refl _) _) _)
    have e1 : w.ring = u.ring ∧ w.site = u.site ∧ w.images = u.images ∧ w.mgmt.staging = u.mgmt.staging
        ∧ w.mgmt.stagedTable = u.mgmt.stagedTable ∧ w.mgmt.staged = u.mgmt.staged ∧ w.mgmt.clock = u.mgmt.clock.next :=
      ⟨rfl, rfl, rfl, rfl, rfl, rfl, rfl⟩
    have e2 : w.mgmt.minuteEnd = u.mgmt.minuteEnd + 60000 := rfl
    clear_value w r
    obtain ⟨p1, p2, p3, p4, p5, p6, p7⟩ := e1
    have km : _ = w.mgmt := (k.images rfl).2.1
    refine ⟨k.ownAddress.trans (by rw [p1]), .inl (k.gasLatch.trans (by rw [p2])),
      .inr (.inr (.inr ⟨⟨dt, rfl⟩, k.minuteEnd.trans e2, k.clock.trans p7⟩)), .inl ⟨(k.images rfl).1.trans p3, fun e => .inl ?_⟩⟩
    rw [km] at e ⊢
    exact ⟨p4 ▸ e, p5, p6⟩
  | freshnessExpiry dt v =>
    simp only [exec, execFreshnessExpiry] at h
    exact iff h fun u _ => ev (evolves_becomeStale (.refl _) _)
  | dischargeHoldoffEnd dt =>
    simp only [exec, execDischargeHoldoffEnd] at h
    exact iff h fun u _ => ev (evolves_holdoffEnds (.refl _))
  | confirmExpiry dt i =>
    simp only [exec, execConfirmExpiry] at h
    exact iff h fun u _ => ev (evolves_enterFaulted (.refl _) _)
  | matchDeadline dt i =>
    simp only [exec, execMatchDeadline] at h
    exact iff h fun u _ => ev (evolves_toConfirm (.refl _) _)
  | rectRefresh dt i =>
    simp only [exec, execRectRefresh] at h
    refine iff h fun u _ => ev ?_
    unfold State.refreshRect; split
    · exact evolves_stringRect (.refl _) _ _
    · exact .refl _
  | slotRefresh dt i =>
    simp only [exec, execSlotRefresh] at h
    refine iff h fun u _ => ev ?_
    unfold State.refreshSlot; split
    · exact evolves_handRect (evolves_modSlot (.refl _) _ _) _ _
    · exact .refl _
  | phaseTimeup dt i =>
    simp only [exec, execPhaseTimeup] at h
    exact iff h fun u _ => ev (evolves_nextEntry (.refl _) _)
  | criterionMet dt i =>
    simp only [exec, execCriterionMet] at h
    exact iff h fun u _ => ev (evolves_nextEntry (.refl _) _)
  | waitEnd dt i =>
    simp only [exec, execWaitEnd] at h
    exact iff h fun u _ => ev (evolves_nextEntry (.refl _) _)
  | waterWaitExpiry dt i =>
    simp only [exec, execWaterWaitExpiry] at h
    refine iff h fun u _ => ev ?_
    unfold State.waterWaitOver; split
    · exact evolves_endWaterWait (evolves_withdrawWater (.refl _) _) _
    · exact evolves_endWaterWait (.refl _) _
  | suspendLimit dt i =>
    simp only [exec, execSuspendLimit] at h
    exact iff h fun u _ => ev (evolves_slotEnds (.refl _) _ _)
  | noSource dt i =>
    simp only [exec, execNoSource] at h
    exact iff h fun u _ => ev (evolves_slotEnds (.refl _) _ _)
  | directTimeup dt i =>
    simp only [exec, execDirectTimeup] at h
    exact iff h fun u _ => ev (evolves_slotEnds (.refl _) _ _)
  | valveClose dt p =>
    simp only [exec, execValveClose] at h
    refine iff h fun u _ => ev ?_
    unfold State.closeDue; split
    · exact evolves_closeValve (.refl _) _ _ _ _
    · exact .refl _
  | gapEnd dt =>
    simp only [exec, execGapEnd] at h
    refine iff h fun u _ => ev ?_
    unfold State.gapOver; split
    · exact evolves_endGap (.refl _) _
    · exact .refl _
  | confirmDeadlineExpiry dt i =>
    simp only [exec, execConfirmDeadlineExpiry] at h
    exact iff h fun u _ => ev (evolves_deadlineExpires (.refl _) _)
  | genEnd dt =>
    simp only [exec, execGenEnd] at h
    exact iff h fun u _ => ev (evolves_genEnds (.refl _))
  | runOnEnd dt =>
    simp only [exec, execRunOnEnd] at h
    exact iff h fun u _ => ⟨rfl, .inl rfl, .inl rfl, .inl (.of_eq rfl rfl)⟩
  | warnExpiry dt =>
    simp only [exec, execWarnExpiry] at h
    refine iff h fun u _ => ev ?_
    unfold State.takeWarn
    exact evolves_ite (evolves_goBlind (.refl _)) (evolves_goWarn (.refl _))
  | blindExpiry dt =>
    simp only [exec, execBlindExpiry] at h
    exact iff h fun u _ => ev (evolves_goBlind (.refl _))
  | blindRepeat dt =>
    simp only [exec, execBlindRepeat] at h
    exact iff h fun u _ => ev (evolves_blindOrders (.refl _))
  | outputFrameEnd dt =>
    simp only [exec, execOutputFrameEnd] at h
    refine iff h fun u _ => ?_
    unfold State.outputEnds
    split
    · exact .refl _ _
    · dsimp only
      split <;> exact ⟨rfl, .inl rfl, .inl rfl, .inl (.of_eq rfl rfl)⟩
  | ringInputByte dt b =>
    have h : execRingInputByte dt b s = .next t := h
    unfold execRingInputByte at h
    split at h
    · cases h; exact ⟨_, (Leaves.takeCheck rfl _ b).begin, .inr rfl⟩
    · cases h
      refine ⟨_, Leaves.begin (dt := dt) ?_, .inl rfl⟩
      refine ⟨?_, .inl rfl, .inl rfl, .inl (.of_eq rfl rfl)⟩
      show (Ring.takeByte _ b _).ownAddress = _
      unfold Ring.takeByte
      split
      · split <;> rfl
      · split <;> rfl
  | _ => exact ask rfl (by intro e; cases e) (by intro e; cases e) (by intro _ _ e; cases e)

end Sys2Proof.Machine
end

