-- ==== Sys2Proof/Laws/Rounds.lean ====
section
/-! SUPPORT. What String Control's operations for one string leave, said once: `State.RoundFrame i m s t` holds of a state `t`
that they make of `s` for the string `i` and the slot `m`; and what an end cause makes of the string's own record. -/

namespace Sys2Proof.Machine

/-! ## The frame -/

/-- What String Control leaves when it acts for the string `i`, whose slot is `m`: every other string and slot, and every block
but the order queue, the Round Queue, from which it only withdraws, and the marks, of which it only sets the scan. -/
structure State.RoundFrame (i : Str) (m : Option SlotId) (s t : State) : Prop where
  pending : t.pending = s.pending
  now : t.now = s.now
  cells : t.cells = s.cells
  busVoltage : t.busVoltage = s.busVoltage
  discharge : t.discharge = s.discharge
  holdoffEnd : t.holdoffEnd = s.holdoffEnd
  trigLevel : t.trigLevel = s.trigLevel
  water : t.water = s.water
  site : t.site = s.site
  mgmt : t.mgmt = s.mgmt
  images : t.images = s.images
  ring : t.ring = { s.ring with orders := t.ring.orders, orderCount := t.ring.orderCount
                                counts := { s.ring.counts with orderDrop := t.ring.counts.orderDrop } }
  queue : ∀ e ∈ t.queue, e ∈ s.queue
  scan : s.marks.scan = true → t.marks.scan = true
  commit : t.marks.commit = s.marks.commit
  gate : t.marks.gate = s.marks.gate
  str : ∀ j, j ≠ i → t.str j = s.str j
  reading : t.reading i = s.reading i
  slot : ∀ k, m ≠ some k → t.slot k = s.slot k
  bind : ∀ k, (t.slot k).string = (s.slot k).string ∧ (t.slot k).recipe = (s.slot k).recipe
    ∧ (t.slot k).reason = (s.slot k).reason ∧ (t.slot k).cut = (s.slot k).cut
    ∧ (t.slot k).entriesCompleted = (s.slot k).entriesCompleted ∧ (t.slot k).triggerStarted = (s.slot k).triggerStarted

section
variable {i : Str} {m : Option SlotId} {s t u : State}

theorem State.RoundFrame.refl (i : Str) (m : Option SlotId) (s : State) : State.RoundFrame i m s s :=
  ⟨rfl, rfl, rfl, rfl, rfl, rfl, rfl, rfl, rfl, rfl, rfl, rfl, fun _ h => h, id, rfl, rfl, fun _ _ => rfl, rfl, fun _ _ => rfl,
    fun _ => ⟨rfl, rfl, rfl, rfl, rfl, rfl⟩⟩

theorem State.RoundFrame.trans (h : State.RoundFrame i m s t) (k : State.RoundFrame i m t u) : State.RoundFrame i m s u where
  pending := k.pending.trans h.pending
  now := k.now.trans h.now
  cells := k.cells.trans h.cells
  busVoltage := k.busVoltage.trans h.busVoltage
  discharge := k.discharge.trans h.discharge
  holdoffEnd := k.holdoffEnd.trans h.holdoffEnd
  trigLevel := k.trigLevel.trans h.trigLevel
  water := k.water.trans h.water
  site := k.site.trans h.site
  mgmt := k.mgmt.trans h.mgmt
  images := k.images.trans h.images
  ring := by rw [k.ring, h.ring]
  queue e he := h.queue e (k.queue e he)
  scan x := k.scan (h.scan x)
  commit := k.commit.trans h.commit
  gate := k.gate.trans h.gate
  str j hj := (k.str j hj).trans (h.str j hj)
  reading := k.reading.trans h.reading
  slot n hn := (k.slot n hn).trans (h.slot n hn)
  bind n := ⟨(k.bind n).1.trans (h.bind n).1, (k.bind n).2.1.trans (h.bind n).2.1, (k.bind n).2.2.1.trans (h.bind n).2.2.1,
    (k.bind n).2.2.2.1.trans (h.bind n).2.2.2.1, (k.bind n).2.2.2.2.1.trans (h.bind n).2.2.2.2.1,
    (k.bind n).2.2.2.2.2.trans (h.bind n).2.2.2.2.2⟩

theorem State.RoundFrame.lim (h : State.RoundFrame i m s t) : t.lim = s.lim := by unfold State.lim; rw [h.images]
theorem State.RoundFrame.cfg (h : State.RoundFrame i m s t) (j : Str) : t.cfg j = s.cfg j := by unfold State.cfg; rw [h.images]
theorem State.RoundFrame.cell (h : State.RoundFrame i m s t) (j : CellIx) : t.cell j = s.cell j := by
  unfold State.cell; rw [h.cells]

theorem State.RoundFrame.readings (h : State.RoundFrame i m s t) (j : Str) : t.reading j = s.reading j := by
  by_cases e : j = i
  · rw [e]; exact h.reading
  · unfold State.reading; rw [h.str j e]

theorem State.RoundFrame.terminalV (h : State.RoundFrame i m s t) (j : Str) : t.terminalV j = s.terminalV j := by
  unfold State.terminalV State.fresh; rw [h.readings, h.now]

theorem State.RoundFrame.windowHolds (h : State.RoundFrame i m s t) (j : Str) : t.windowHolds j = s.windowHolds j := by
  unfold State.windowHolds; rw [h.terminalV, h.busVoltage, h.lim]

theorem State.RoundFrame.matchVolts (h : State.RoundFrame i m s t) (j : Str) : t.matchVolts j = s.matchVolts j := by
  unfold State.matchVolts State.floatVolts State.orderCeiling; rw [h.busVoltage, h.lim, h.cfg]

theorem State.RoundFrame.replies (h : State.RoundFrame i m s t) : t.ring.replies = s.ring.replies := by rw [h.ring]
theorem State.RoundFrame.sight (h : State.RoundFrame i m s t) : t.ring.sight = s.ring.sight := by rw [h.ring]
theorem State.RoundFrame.gasStop (h : State.RoundFrame i m s t) : t.ring.gasStop = s.ring.gasStop := by rw [h.ring]

/-! ## The operations -/

theorem frame_modControl (s : State) (i : Str) (m : Option SlotId) (f : Control → Control) :
    State.RoundFrame i m s (s.modControl i f) where
  pending := rfl
  now := rfl
  cells := rfl
  busVoltage := rfl
  discharge := rfl
  holdoffEnd := rfl
  trigLevel := rfl
  water := rfl
  site := rfl
  mgmt := rfl
  images := rfl
  ring := rfl
  queue := fun _ h => h
  scan := id
  commit := rfl
  gate := rfl
  str := fun j h => State.modStr_str_ne s (Ne.symm h) _
  reading := State.modControl_reading s i i f
  slot := fun k _ => by simp
  bind := fun k => by simp

theorem frame_modCharge (s : State) (i : Str) (m : Option SlotId) (f : Charge → Charge) :
    State.RoundFrame i m s (s.modCharge i f) where
  pending := rfl
  now := rfl
  cells := rfl
  busVoltage := rfl
  discharge := rfl
  holdoffEnd := rfl
  trigLevel := rfl
  water := rfl
  site := rfl
  mgmt := rfl
  images := rfl
  ring := rfl
  queue := fun _ h => h
  scan := id
  commit := rfl
  gate := rfl
  str := fun j h => State.modStr_str_ne s (Ne.symm h) _
  reading := State.modCharge_reading s i i f
  slot := fun k _ => by simp
  bind := fun k => by simp

theorem frame_markScan (s : State) (i : Str) (m : Option SlotId) : State.RoundFrame i m s s.markScan :=
  ⟨rfl, rfl, rfl, rfl, rfl, rfl, rfl, rfl, rfl, rfl, rfl, rfl, fun _ h => h, fun _ => rfl, rfl, rfl, fun _ _ => rfl, rfl,
    fun k _ => by cases k <;> rfl, fun k => by cases k <;> exact ⟨rfl, rfl, rfl, rfl, rfl, rfl⟩⟩

theorem frame_handOrder (s : State) (i : Str) (m : Option SlotId) (f : Frame) : State.RoundFrame i m s (s.handOrder f) where
  pending := rfl
  now := rfl
  cells := rfl
  busVoltage := rfl
  discharge := rfl
  holdoffEnd := rfl
  trigLevel := rfl
  water := rfl
  site := rfl
  mgmt := rfl
  images := rfl
  ring := by unfold State.handOrder State.modRing; dsimp only; split <;> rfl
  queue := fun _ h => h
  scan := id
  commit := rfl
  gate := rfl
  str := fun _ _ => rfl
  reading := rfl
  slot := fun k _ => by cases k <;> rfl
  bind := fun k => by cases k <;> exact ⟨rfl, rfl, rfl, rfl, rfl, rfl⟩

theorem frame_handRect (s : State) (i : Str) (m : Option SlotId) (sl : SlotId) (o : RectOrder) :
    State.RoundFrame i m s (s.handRect sl o) := frame_handOrder s i m _

theorem frame_handContactor (s : State) (i : Str) (m : Option SlotId) (j : Str) (c : Byte) :
    State.RoundFrame i m s (s.handContactor j c) := frame_handOrder s i m _

theorem frame_ite {c : Prop} [Decidable c] (h : State.RoundFrame i m s t) (k : State.RoundFrame i m s u) :
    State.RoundFrame i m s (if c then t else u) := by split <;> assumption

theorem frame_stringRect (s : State) (i : Str) (m : Option SlotId) (o : RectOrder) :
    State.RoundFrame i m s (s.stringRect i o) := by
  unfold State.stringRect
  split
  · exact (frame_modControl ..).trans (frame_handRect ..)
  · exact .refl ..

theorem frame_toConfirm (s : State) (i : Str) (m : Option SlotId) : State.RoundFrame i m s (s.toConfirm i) :=
  (frame_handContactor ..).trans (frame_modControl ..)

theorem frame_judgeWindow (s : State) (i : Str) (m : Option SlotId) : State.RoundFrame i m s (s.judgeWindow i) :=
  frame_ite (frame_toConfirm ..) (.refl ..)

theorem frame_setEnd (s : State) (i : Str) (m : Option SlotId) (c : EndReason) : State.RoundFrame i m s (s.setEnd i c) :=
  frame_modControl ..

theorem frame_setHoldoff (s : State) (i : Str) (m : Option SlotId) (c : EndReason) :
    State.RoundFrame i m s (s.setHoldoff i c) :=
  frame_ite (frame_modControl ..) (.refl ..)

theorem frame_removeEntry (s : State) (i j : Str) (m : Option SlotId) (k : RoundKind) :
    State.RoundFrame i m s (s.removeEntry j k) :=
  ⟨rfl, rfl, rfl, rfl, rfl, rfl, rfl, rfl, rfl, rfl, rfl, rfl, fun _ h => List.mem_of_mem_filter h, id, rfl, rfl,
    fun _ _ => rfl, rfl, fun k _ => by cases k <;> rfl, fun k => by cases k <;> exact ⟨rfl, rfl, rfl, rfl, rfl, rfl⟩⟩

theorem frame_withdrawWater (s : State) (i j : Str) (m : Option SlotId) : State.RoundFrame i m s (s.withdrawWater j) :=
  frame_ite ((frame_removeEntry ..).trans (frame_markScan ..)) (.refl ..)

/-- An update of a slot that keeps its binding and the items of its outcome. -/
theorem frame_modSlot (s : State) (i : Str) (sl : SlotId) (f : SlotRec → SlotRec)
    (hf : ∀ r, (f r).string = r.string ∧ (f r).recipe = r.recipe ∧ (f r).reason = r.reason ∧ (f r).cut = r.cut
      ∧ (f r).entriesCompleted = r.entriesCompleted ∧ (f r).triggerStarted = r.triggerStarted) :
    State.RoundFrame i (some sl) s (s.modSlot sl f) where
  pending := by simp
  now := by simp
  cells := by simp
  busVoltage := by simp
  discharge := by simp
  holdoffEnd := by simp
  trigLevel := by simp
  water := by simp
  site := by simp
  mgmt := by simp
  images := by simp
  ring := by simp
  queue := fun _ h => by simpa using h
  scan := by simp
  commit := by simp
  gate := by simp
  str := fun j _ => by simp
  reading := by simp
  slot := fun k h => State.modSlot_slot_ne s (fun e => h (by rw [e])) f
  bind := fun k => by
    by_cases e : k = sl
    · rw [e, State.modSlot_slot]; exact hf _
    · rw [State.modSlot_slot_ne s e]; exact ⟨rfl, rfl, rfl, rfl, rfl, rfl⟩

theorem frame_stopSlot (s : State) (i : Str) (sl : SlotId) : State.RoundFrame i (some sl) s (s.stopSlot sl) := by
  have h := frame_modSlot s i sl SlotRec.stopped fun r => ⟨rfl, rfl, rfl, rfl, rfl, rfl⟩
  unfold State.stopSlot
  dsimp only
  split
  · exact h.trans (frame_withdrawWater ..)
  · exact h

theorem frame_stopSlotOf (s : State) (i : Str) : State.RoundFrame i (s.control i).slot s (s.stopSlotOf i) := by
  unfold State.stopSlotOf
  split <;> rename_i h
  · rw [h]; exact frame_stopSlot ..
  · exact .refl ..

theorem frame_offAndConfirm (s : State) (i : Str) (m : Option SlotId) : State.RoundFrame i m s (s.offAndConfirm i) :=
  (frame_stringRect ..).trans (frame_toConfirm ..)

theorem frame_startReturn (s : State) (i : Str) (m : Option SlotId) (v : Variant) (b : Bool) :
    State.RoundFrame i m s (s.startReturn i v b) := by
  unfold State.startReturn
  dsimp only
  exact ((frame_modControl ..).trans (frame_markScan ..)).trans <|
    frame_ite (frame_offAndConfirm ..) <| (frame_stringRect ..).trans <|
      frame_ite (frame_toConfirm ..) ((frame_modControl ..).trans (frame_judgeWindow ..))

theorem frame_changeVariant (s : State) (i : Str) (m : Option SlotId) (v : Variant) :
    State.RoundFrame i m s (s.changeVariant i v) := by
  unfold State.changeVariant
  exact (frame_modControl ..).trans (frame_ite (frame_offAndConfirm ..) (frame_stringRect ..))

theorem frame_completeEqualise (s : State) (i : Str) (m : Option SlotId) : State.RoundFrame i m s (s.completeEqualise i) :=
  frame_modCharge ..

/-- An end cause acts on the string and its slot alone (R67). -/
theorem frame_endRound (s : State) (i : Str) (c : EndReason) :
    State.RoundFrame i (s.control i).slot s (s.endRound i c) := by
  unfold State.endRound
  dsimp only
  have h := frame_stopSlotOf (s.setEnd i c) i
  rw [show ((s.setEnd i c).control i).slot = (s.control i).slot by simp [State.setEnd]] at h
  exact (((frame_setEnd s i _ c).trans h).trans ((frame_setHoldoff ..).trans
    (frame_ite (frame_completeEqualise ..) (.refl ..)))).trans (frame_startReturn ..)

theorem frame_causeInReturn (s : State) (i : Str) (m : Option SlotId) (c : EndReason) :
    State.RoundFrame i m s (s.causeInReturn i c) := by
  unfold State.causeInReturn
  dsimp only
  split
  · exact frame_ite (frame_changeVariant ..) (frame_ite (.refl ..) (frame_stringRect ..))
  · exact frame_ite (frame_changeVariant ..) (.refl ..)
  · exact frame_ite (frame_offAndConfirm ..) (.refl ..)
  · exact .refl ..

/-- An end cause leaves every other string, every other slot and the other blocks (R67, R71 to R73). -/
theorem frame_endCause (s : State) (i : Str) (c : EndReason) :
    State.RoundFrame i (s.control i).slot s (s.endCause i c) := by
  unfold State.endCause
  split
  · exact frame_endRound ..
  · exact frame_endRound ..
  · exact frame_causeInReturn ..
  · exact .refl ..

theorem frame_matchTakesBus (s : State) (i : Str) (m : Option SlotId) : State.RoundFrame i m s (s.matchTakesBus i) := by
  unfold State.matchTakesBus
  exact frame_ite (frame_ite (frame_changeVariant ..)
    ((frame_ite (frame_stringRect ..) (.refl ..)).trans (frame_judgeWindow ..))) (.refl ..)

/-! ## The string's own record -/

@[simp] theorem handOrder_control (s : State) (f : Frame) (j : Str) : (s.handOrder f).control j = s.control j := rfl
@[simp] theorem handOrder_charge (s : State) (f : Frame) (j : Str) : (s.handOrder f).charge j = s.charge j := rfl
@[simp] theorem handRect_control (s : State) (sl : SlotId) (o : RectOrder) (j : Str) :
    (s.handRect sl o).control j = s.control j := rfl
@[simp] theorem handRect_charge (s : State) (sl : SlotId) (o : RectOrder) (j : Str) :
    (s.handRect sl o).charge j = s.charge j := rfl
@[simp] theorem handContactor_control (s : State) (k : Str) (c : Byte) (j : Str) :
    (s.handContactor k c).control j = s.control j := rfl
@[simp] theorem handContactor_charge (s : State) (k : Str) (c : Byte) (j : Str) :
    (s.handContactor k c).charge j = s.charge j := rfl
@[simp] theorem handOrder_slot (s : State) (f : Frame) (k : SlotId) : (s.handOrder f).slot k = s.slot k := by cases k <;> rfl
@[simp] theorem handRect_slot (s : State) (sl : SlotId) (o : RectOrder) (k : SlotId) :
    (s.handRect sl o).slot k = s.slot k := by cases k <;> rfl
@[simp] theorem handContactor_slot (s : State) (i : Str) (c : Byte) (k : SlotId) :
    (s.handContactor i c).slot k = s.slot k := by cases k <;> rfl
@[simp] theorem markScan_slot (s : State) (k : SlotId) : s.markScan.slot k = s.slot k := by cases k <;> rfl
@[simp] theorem markScan_control (s : State) (j : Str) : s.markScan.control j = s.control j := rfl
@[simp] theorem markScan_charge (s : State) (j : Str) : s.markScan.charge j = s.charge j := rfl

/-- The record once `o` has been handed as the string's RECT order (R79). -/
def Control.ordered (now : Nat) (o : RectOrder) (c : Control) : Control :=
  if c.slot = none then c else { c with rectOrder := some o, lastRectTime := some now }

/-- The record in the CONFIRM step (R69). -/
def Control.confirming (l : Limits) (c : Control) : Control :=
  { c with step := some .confirm, matchDeadline := none, confirmLeft := some (l.contactorTimeoutS * 1000) }

theorem stringRect_control (s : State) (i : Str) (o : RectOrder) :
    (s.stringRect i o).control i = (s.control i).ordered s.now o := by
  unfold State.stringRect Control.ordered
  split <;> rename_i h <;> simp [h]

theorem stringRect_charge (s : State) (i : Str) (o : RectOrder) : (s.stringRect i o).charge i = s.charge i := by
  unfold State.stringRect
  split <;> simp

theorem stringRect_slot (s : State) (i : Str) (o : RectOrder) (k : SlotId) : (s.stringRect i o).slot k = s.slot k := by
  unfold State.stringRect
  split <;> simp

theorem toConfirm_control (s : State) (i : Str) : (s.toConfirm i).control i = (s.control i).confirming s.lim := by
  unfold State.toConfirm Control.confirming
  simp

theorem toConfirm_charge (s : State) (i : Str) : (s.toConfirm i).charge i = s.charge i := by
  unfold State.toConfirm
  simp

theorem toConfirm_slot (s : State) (i : Str) (k : SlotId) : (s.toConfirm i).slot k = s.slot k := by
  unfold State.toConfirm
  simp

theorem judgeWindow_charge (s : State) (i : Str) : (s.judgeWindow i).charge i = s.charge i := by
  unfold State.judgeWindow
  split
  · exact toConfirm_charge ..
  · rfl

theorem judgeWindow_slot (s : State) (i : Str) (k : SlotId) : (s.judgeWindow i).slot k = s.slot k := by
  unfold State.judgeWindow
  split
  · exact toConfirm_slot ..
  · rfl

/-- The record of a string whose return has begun (R67, R68, R71 to R73). -/
def State.returned (s : State) (i : Str) (v : Variant) (fromCalled : Bool) : Control :=
  let c := { s.control i with state := .returning, variant := some v, step := none, matchDeadline := none, confirmLeft := none }
  if v ≠ .normal ∨ s.ring.sight = .blind then (c.ordered s.now .off).confirming s.lim
  else
    let c := c.ordered s.now (.on (s.matchVolts i) s.lim.iFloor)
    if fromCalled = true ∨ s.windowHolds i = true then c.confirming s.lim
    else { c with step := some .matching, matchDeadline := some (s.now + s.lim.returnWaitMin * 60000) }

theorem Control.ordered_step (now : Nat) (o : RectOrder) (c : Control) (x : Option ReturnStep) (d : Option Nat) :
    ({ c.ordered now o with step := x, matchDeadline := d } : Control)
      = ({ c with step := x, matchDeadline := d } : Control).ordered now o := by
  unfold Control.ordered; split <;> rfl

theorem startReturn_control (s : State) (i : Str) (v : Variant) (b : Bool) :
    (s.startReturn i v b).control i = s.returned i v b := by
  have hf := frame_startReturn s i none v b
  unfold State.startReturn State.returned
  dsimp only
  by_cases h : v ≠ .normal ∨ s.ring.sight = .blind
  · rw [if_pos (by simpa using h), if_pos h]
    unfold State.offAndConfirm
    rw [toConfirm_control, stringRect_control, (frame_stringRect _ i none _).lim]
    simp [State.lim]
  · rw [if_neg (by simpa using h), if_neg h]
    set u := (s.modControl i fun c =>
      { c with state := .returning, variant := some v, step := none, matchDeadline := none, confirmLeft := none }).markScan
      with hu
    have fu : State.RoundFrame i none s u := (frame_modControl ..).trans (frame_markScan ..)
    have cu : u.control i = { s.control i with
      state := .returning, variant := some v, step := none, matchDeadline := none, confirmLeft := none } := by simp [hu]
    have fr := frame_stringRect u i none (.on (u.matchVolts i) u.lim.iFloor)
    have cr := stringRect_control u i (.on (u.matchVolts i) u.lim.iFloor)
    cases b
    · simp only [Bool.false_eq_true, if_false, false_or]
      unfold State.judgeWindow
      have fm := fr.trans (frame_modControl (u.stringRect i (.on (u.matchVolts i) u.lim.iFloor)) i none
        (fun c => let w := u.stringRect i (.on (u.matchVolts i) u.lim.iFloor)
          { c with step := some .matching, matchDeadline := some (w.now + w.lim.returnWaitMin * 60000) }))
      rw [(fu.trans fm).windowHolds]
      by_cases w : s.windowHolds i = true
      · rw [if_pos, if_pos w, toConfirm_control, State.modControl_control, cr, cu, (fu.trans fm).lim, fu.now,
          fu.matchVolts, fu.lim]
        · unfold Control.confirming Control.ordered
          split <;> rfl
        · refine ⟨?_, ?_, w⟩
          · simp [State.inState, cr, cu, Control.ordered]
            split <;> rfl
          · simp
      · rw [if_neg (fun x => w x.2.2), if_neg w, State.modControl_control, cr, cu, (fu.trans fr).now, (fu.trans fr).lim, fu.now,
          fu.matchVolts, fu.lim]
    · simp only [if_true, true_or]
      rw [toConfirm_control, cr, cu, (fu.trans fr).lim, fu.now, fu.matchVolts, fu.lim]

theorem startReturn_charge (s : State) (i : Str) (v : Variant) (b : Bool) : (s.startReturn i v b).charge i = s.charge i := by
  unfold State.startReturn State.offAndConfirm
  dsimp only
  split
  · rw [toConfirm_charge, stringRect_charge]; simp
  · split
    · rw [toConfirm_charge, stringRect_charge]; simp
    · rw [judgeWindow_charge, State.modControl_charge, stringRect_charge]; simp

theorem startReturn_slot (s : State) (i : Str) (v : Variant) (b : Bool) (k : SlotId) :
    (s.startReturn i v b).slot k = s.slot k := by
  unfold State.startReturn State.offAndConfirm
  dsimp only
  split
  · rw [toConfirm_slot, stringRect_slot]; simp
  · split
    · rw [toConfirm_slot, stringRect_slot]; simp
    · rw [judgeWindow_slot, State.modControl_slot, stringRect_slot]; simp

theorem withdrawWater_slot (s : State) (i : Str) (k : SlotId) : (s.withdrawWater i).slot k = s.slot k := by
  unfold State.withdrawWater
  split
  · rw [markScan_slot]; cases k <;> rfl
  · rfl

theorem withdrawWater_control (s : State) (i j : Str) : (s.withdrawWater i).control j = s.control j := by
  unfold State.withdrawWater
  split <;> rfl

theorem withdrawWater_charge (s : State) (i j : Str) : (s.withdrawWater i).charge j = s.charge j := by
  unfold State.withdrawWater
  split <;> rfl

/-- A slot told to stop is stopped (R100). -/
theorem stopSlot_slot (s : State) (sl : SlotId) : (s.stopSlot sl).slot sl = (s.slot sl).stopped := by
  unfold State.stopSlot
  dsimp only
  split
  · rw [withdrawWater_slot, State.modSlot_slot]
  · rw [State.modSlot_slot]

theorem stopSlot_control (s : State) (sl : SlotId) (j : Str) : (s.stopSlot sl).control j = s.control j := by
  unfold State.stopSlot
  dsimp only
  split
  · rw [withdrawWater_control]; simp
  · simp

theorem stopSlot_charge (s : State) (sl : SlotId) (j : Str) : (s.stopSlot sl).charge j = s.charge j := by
  unfold State.stopSlot
  dsimp only
  split
  · rw [withdrawWater_charge]; simp
  · simp

theorem stopSlotOf_control (s : State) (i j : Str) : (s.stopSlotOf i).control j = s.control j := by
  unfold State.stopSlotOf
  split
  · exact stopSlot_control ..
  · rfl

theorem stopSlotOf_charge (s : State) (i j : Str) : (s.stopSlotOf i).charge j = s.charge j := by
  unfold State.stopSlotOf
  split
  · exact stopSlot_charge ..
  · rfl

theorem stopSlotOf_slot {sl : SlotId} (h : (s.control i).slot = some sl) : (s.stopSlotOf i).slot sl = (s.slot sl).stopped := by
  unfold State.stopSlotOf
  rw [h]
  exact stopSlot_slot ..

theorem setHoldoff_control (s : State) (i : Str) (c : EndReason) :
    (s.setHoldoff i c).control i
      = if c.setsHoldoff = true ∧ s.lim.holdoffMin ≠ 0 then
          { s.control i with holdoffUntil := some (s.mgmt.clock.plusMinutes s.lim.holdoffMin) }
        else s.control i := by
  unfold State.setHoldoff
  split <;> simp

theorem setHoldoff_charge (s : State) (i : Str) (c : EndReason) : (s.setHoldoff i c).charge i = s.charge i := by
  unfold State.setHoldoff
  split <;> simp

theorem setHoldoff_slot (s : State) (i : Str) (c : EndReason) (k : SlotId) : (s.setHoldoff i c).slot k = s.slot k := by
  unfold State.setHoldoff
  split <;> simp

/-- The record of a string whose round has ended, before its return begins (R67). -/
def State.endedRecord (s : State) (i : Str) (cause : EndReason) : Control :=
  let c := { s.control i with endReason := some cause, endStamp := some s.mgmt.clock }
  if cause.setsHoldoff = true ∧ s.lim.holdoffMin ≠ 0 then
    { c with holdoffUntil := some (s.mgmt.clock.plusMinutes s.lim.holdoffMin) }
  else c

/-- The state in which the return of an ended round begins (R67). -/
def State.beforeReturn (s : State) (i : Str) (cause : EndReason) : State :=
  let t := ((s.setEnd i cause).stopSlotOf i).setHoldoff i cause
  if cause = .complete then t.completeEqualise i else t

theorem endRound_eq (s : State) (i : Str) (cause : EndReason) :
    s.endRound i cause = (s.beforeReturn i cause).startReturn i
      (s.variantFor (cause == .gas) (cause == .discharge)) (s.inState i .called) := rfl

theorem frame_beforeReturn (s : State) (i : Str) (cause : EndReason) :
    State.RoundFrame i (s.control i).slot s (s.beforeReturn i cause) := by
  have h := frame_stopSlotOf (s.setEnd i cause) i
  rw [show ((s.setEnd i cause).control i).slot = (s.control i).slot by simp [State.setEnd]] at h
  exact ((frame_setEnd s i _ cause).trans h).trans ((frame_setHoldoff ..).trans
    (frame_ite (frame_completeEqualise ..) (.refl ..)))

theorem beforeReturn_control (s : State) (i : Str) (cause : EndReason) :
    (s.beforeReturn i cause).control i = s.endedRecord i cause := by
  have h := frame_stopSlotOf (s.setEnd i cause) i
  have e : (s.beforeReturn i cause).control i = (((s.setEnd i cause).stopSlotOf i).setHoldoff i cause).control i := by
    unfold State.beforeReturn State.completeEqualise
    dsimp only
    split <;> simp
  rw [e, setHoldoff_control, stopSlotOf_control, h.lim, h.mgmt]
  unfold State.endedRecord State.setEnd
  simp

theorem beforeReturn_charge (s : State) (i : Str) (cause : EndReason) :
    (s.beforeReturn i cause).charge i
      = if cause = .complete then { s.charge i with daysSinceEq := 0, dDis := 0, spreadTimer := none } else s.charge i := by
  unfold State.beforeReturn State.completeEqualise
  dsimp only
  split
  · rw [State.modCharge_charge, setHoldoff_charge, stopSlotOf_charge]; simp [State.setEnd]
  · rw [setHoldoff_charge, stopSlotOf_charge]; simp [State.setEnd]

theorem beforeReturn_slot {sl : SlotId} (h : (s.control i).slot = some sl) (cause : EndReason) :
    (s.beforeReturn i cause).slot sl = (s.slot sl).stopped := by
  have e : ((s.setEnd i cause).control i).slot = some sl := by simpa [State.setEnd] using h
  have k : (((s.setEnd i cause).stopSlotOf i).setHoldoff i cause).slot sl = (s.slot sl).stopped := by
    rw [setHoldoff_slot, stopSlotOf_slot e]; simp [State.setEnd]
  unfold State.beforeReturn State.completeEqualise
  dsimp only
  split
  · rw [State.modCharge_slot, k]
  · exact k

/-- What the end of a round makes of the string's own record: the end, the holdoff, and the return begun (R67). -/
theorem endRound_control (s : State) (i : Str) (cause : EndReason) :
    (s.endRound i cause).control i = (s.beforeReturn i cause).returned i
      (s.variantFor (cause == .gas) (cause == .discharge)) (s.inState i .called) := by
  rw [endRound_eq, startReturn_control]

theorem endRound_charge (s : State) (i : Str) (cause : EndReason) :
    (s.endRound i cause).charge i
      = if cause = .complete then { s.charge i with daysSinceEq := 0, dDis := 0, spreadTimer := none } else s.charge i := by
  rw [endRound_eq, startReturn_charge, beforeReturn_charge]

theorem endRound_slot {sl : SlotId} (h : (s.control i).slot = some sl) (cause : EndReason) :
    (s.endRound i cause).slot sl = (s.slot sl).stopped := by
  rw [endRound_eq, startReturn_slot, beforeReturn_slot h]

/-- The items of the record that the beginning of a return keeps, and the state and variant it gives. -/
theorem returned_kept (s : State) (i : Str) (v : Variant) (b : Bool) :
    (s.returned i v b).state = .returning ∧ (s.returned i v b).variant = some v
      ∧ (s.returned i v b).slot = (s.control i).slot ∧ (s.returned i v b).heldOrder = (s.control i).heldOrder
      ∧ (s.returned i v b).endReason = (s.control i).endReason ∧ (s.returned i v b).endStamp = (s.control i).endStamp
      ∧ (s.returned i v b).startStamp = (s.control i).startStamp ∧ (s.returned i v b).chargeIn = (s.control i).chargeIn
      ∧ (s.returned i v b).holdoffUntil = (s.control i).holdoffUntil
      ∧ (s.returned i v b).lastEqOutcome = (s.control i).lastEqOutcome
      ∧ (s.returned i v b).lastWaterOutcome = (s.control i).lastWaterOutcome := by
  unfold State.returned Control.confirming Control.ordered
  dsimp only
  split <;> split <;> (try split) <;> exact ⟨rfl, rfl, rfl, rfl, rfl, rfl, rfl, rfl, rfl, rfl, rfl⟩

/-- A return in a variant but NORMAL, or in BLIND, stands at RECT OFF in the CONFIRM step (R71 to R73). -/
theorem returned_off (s : State) (i : Str) {v : Variant} (b : Bool) (h : v ≠ .normal ∨ s.ring.sight = .blind) :
    (s.returned i v b).step = some .confirm
      ∧ (s.returned i v b).confirmLeft = some (s.lim.contactorTimeoutS * 1000) ∧ (s.returned i v b).matchDeadline = none
      ∧ ((s.control i).slot ≠ none → (s.returned i v b).rectOrder = some .off) := by
  unfold State.returned
  dsimp only
  rw [if_pos h]
  refine ⟨rfl, rfl, rfl, fun k => ?_⟩
  unfold Control.confirming Control.ordered
  dsimp only
  rw [if_neg k]

/-- A NORMAL return begins at the match voltage (R68). -/
theorem returned_match (s : State) (i : Str) (b : Bool) (h : s.ring.sight ≠ .blind) (k : (s.control i).slot ≠ none) :
    (s.returned i .normal b).rectOrder = some (.on (s.matchVolts i) s.lim.iFloor) := by
  unfold State.returned
  dsimp only
  rw [if_neg (by simpa using h)]
  unfold Control.confirming Control.ordered
  dsimp only
  rw [if_neg k]
  split <;> rfl

/-- A NORMAL return is in CONFIRM from the start for a string that was CALLED or whose window holds, else in MATCH (R68). -/
theorem returned_step (s : State) (i : Str) (b : Bool) (h : s.ring.sight ≠ .blind) :
    if b = true ∨ s.windowHolds i = true then
      (s.returned i .normal b).step = some .confirm ∧ (s.returned i .normal b).matchDeadline = none
        ∧ (s.returned i .normal b).confirmLeft = some (s.lim.contactorTimeoutS * 1000)
    else (s.returned i .normal b).step = some .matching
      ∧ (s.returned i .normal b).matchDeadline = some (s.now + s.lim.returnWaitMin * 60000) := by
  have n : ¬ (Variant.normal ≠ Variant.normal ∨ s.ring.sight = .blind) := by simpa using h
  unfold State.returned
  dsimp only
  rw [if_neg n]
  by_cases w : b = true ∨ s.windowHolds i = true
  · rw [if_pos w, if_pos w]
    exact ⟨rfl, rfl, rfl⟩
  · rw [if_neg w, if_neg w]
    exact ⟨rfl, rfl⟩

/-- The end of a round is what `EndedFor` says of it (R67, R100). -/
theorem endRound_ended (s : State) (i : Str) (cause : EndReason) : s.EndedFor (s.endRound i cause) i cause := by
  have k := returned_kept (s.beforeReturn i cause) i (s.variantFor (cause == .gas) (cause == .discharge)) (s.inState i .called)
  have e : (s.endedRecord i cause).endReason = some cause ∧ (s.endedRecord i cause).endStamp = some s.mgmt.clock
      ∧ (s.endedRecord i cause).slot = (s.control i).slot := by
    unfold State.endedRecord; dsimp only; split <;> exact ⟨rfl, rfl, rfl⟩
  rw [← endRound_control, beforeReturn_control] at k
  refine ⟨k.1, k.2.2.2.2.1.trans e.1, k.2.2.2.2.2.1.trans e.2.1, k.2.2.1.trans e.2.2, fun sl h => ?_, ?_⟩
  · rw [endRound_slot h]; exact ⟨rfl, rfl, rfl, rfl⟩
  · rw [k.2.1]
    unfold State.variantFor
    congr 1
    by_cases g : cause = .gas ∨ s.site.gasLatch = true
    · rw [if_pos g, if_pos (by simpa using g)]
    · rw [if_neg g, if_neg (by simpa using g)]
      by_cases d : cause = .discharge ∧ s.busLowOrAbsent = true
      · rw [if_pos d, if_pos (by simpa using d)]
      · rw [if_neg d, if_neg (by simpa using d)]

/-- An end cause that finds the string in CALLED or EQUALISING ends its round. -/
theorem endCause_away (h : (s.control i).state = .called ∨ (s.control i).state = .equalising) (cause : EndReason) :
    s.endCause i cause = s.endRound i cause := by
  unfold State.endCause
  rcases h with h | h <;> rw [h]

end

end Sys2Proof.Machine
end

