-- ==== Sys2Proof/Tests/Slice0.lean ====
section
/-! SUPPORT. Tests on worked figures of the manual, the smoke tests of WellFormed, and a witness for the hypotheses of every
statement that has some: each witness names a concrete state and operands that meet them together. -/

namespace Sys2Proof.Tests

open Sys2Proof.Machine

-- The tests are checked one after the other: each asks the kernel for a whole event.
set_option Elab.async false

/-! ## Commands that are not well formed -/

theorem test_wf_payload_too_long : Instr.wellFormed (.requestUnknown 0 1 (List.replicate 49 0xEE)) = false := by decide
theorem test_wf_payload_known_code : Instr.wellFormed (.requestUnknown 0 1 [0x53]) = false := by decide
theorem test_wf_payload_empty : Instr.wellFormed (.requestUnknown 0 1 []) = true := by decide
theorem test_wf_part_too_long : Instr.wellFormed (.loadPart 0 1 0 (List.replicate 46 0)) = false := by decide
theorem test_wf_args_too_long : Instr.wellFormed (.write 0 1 (List.replicate 48 0)) = false := by decide

/-! ## No word spells a command -/

theorem test_decode_none : decodeTableWord 16 0x5301 = none := by decide
theorem test_withFetchWord_keeps : (State.reset.withFetchWord 16 0x5301).pending = [] := by decide

/-! ## A small site: S0 and S1 present, the library of the worked round (3.9, 5.14) -/

/-- LIMITS with the values of the worked cases; controller 0x01, slots 0x08 and 0x09. -/
def limitsImage : List Byte :=
  [0x01, 0x08, 0x09, 2, 1, 0] ++ bytesBE 2 250 ++ [30] ++ bytesBE 2 2230 ++ bytesBE 2 2350 ++ bytesBE 2 2600 ++ bytesBE 2 2650
    ++ bytesBE 2 50 ++ bytesBE 2 120 ++ bytesBE 2 450 ++ bytesBE 2 0 ++ bytesBE 2 60 ++ [1] ++ bytesBE 2 2000 ++ bytesBE 2 20
    ++ [30] ++ bytesBE 2 50 ++ [5] ++ bytesBE 2 30 ++ bytesBE 2 4700 ++ bytesBE 2 50 ++ [10, 20, 10, 20, 60, 5, 10]
    ++ bytesBE 2 240 ++ [4, 12, 10, 20, 3, 1] ++ bytesBE 2 500 ++ bytesBE 2 20 ++ [10] ++ bytesBE 4 20000 ++ bytesBE 4 2000
    ++ [25, 4] ++ bytesBE 2 120 ++ [10] ++ bytesBE 2 60 ++ [5, 60, 90] ++ bytesBE 2 60 ++ bytesBE 2 30 ++ List.replicate 12 0

/-- S0: 24 cells from 0x20, 200 Ah, recipe 3, offsets −25, +20, −40 and 0, probes at positions 1 and 2, a manifold. S1: the
same without a manifold, its cells from 0x80. -/
def stringImage : List Byte :=
  [0x7D, 24, 0x20, 0x40, 0x60, 0x70] ++ bytesBE 2 (16 * 200 + 3) ++ [0xE7, 20, 0xD8, 0, 0, 0, 3]
    ++ bytesBE 5 (30 * 2 ^ 31 + 50 * 2 ^ 22 + 60 * 2 ^ 11 + 150)
    ++ [0x79, 24, 0x80, 0x41, 0x61, 0xFF] ++ bytesBE 2 (16 * 200 + 3) ++ [0, 0, 0, 0, 0, 0, 0] ++ bytesBE 5 0
    ++ List.replicate 120 0

/-- The four phases of 3.9. -/
def phaseImage : List Byte :=
  [1] ++ bytesBE 3 (2450 * 4096 + 2350) ++ bytesBE 3 (2550 * 4096 + 250) ++ bytesBE 3 (180 * 4096) ++ [0, 0]
    ++ [2] ++ bytesBE 3 (2400 * 4096 + 2330) ++ bytesBE 3 (2480 * 4096 + 120) ++ bytesBE 3 (240 * 4096 + 40) ++ [1, 30]
    ++ [4] ++ bytesBE 3 (2250 * 4096 + 2200) ++ bytesBE 3 (2300 * 4096 + 60) ++ bytesBE 3 (60 * 4096 + 25) ++ [2, 20]
    ++ [3] ++ bytesBE 3 (2380 * 4096 + 2200) ++ bytesBE 3 (2400 * 4096) ++ bytesBE 3 (10 * 4096) ++ [0, 0]
    ++ List.replicate 144 0

/-- Recipe 1 is a water point, recipe 2 is phase 3, and recipe 3 is that of 3.9. -/
def recipeImage : List Byte :=
  [3, 0] ++ List.replicate 22 0 ++ [1, 3] ++ List.replicate 22 0
    ++ [1, 1, 1, 2, 1, 4, 2, 30, 3, 0, 1, 3, 0, 0] ++ List.replicate 130 0

/-- The thinning entries of 9.4: entry 3 is THIN(4) of CELL from 0x40 to 0x5F, entry 5 passes 0x40 to 0x7F. -/
def passImage : List Byte :=
  List.replicate 18 0 ++ [1, 0x10, 0, 0x40, 0x5F, 0x84] ++ List.replicate 6 0 ++ [1, 0, 0x80, 0x40, 0x7F, 0]
    ++ [1, 0x30, 0x80, 0xA0, 0xA0, 0x40] ++ List.replicate 54 0

/-- The part in ENGAGED mode at 1000 ms, S0 and S1 on the bus, the output busy with a forwarded frame. -/
def site : State :=
  { now := 1000
    strings := ((Vector.replicate 8 {}).set 0 { reading := { freshCells := 24, ts := some 380 }, control := { state := .onBus } }).set 1
      { reading := { freshCells := 24, ts := some 250 }, control := { state := .onBus } }
    images := ⟨limitsImage, stringImage, phaseImage, recipeImage, passImage⟩
    site := { allowance := 240, src := ⟨true, true, none⟩, duty := 4 }
    ring := { lastGood := some 900, sending := some ⟨⟨0x33, 0x34, 0x40, []⟩, none, 999⟩ }
    mgmt := { loaded := ⟨true, true, true, true, true⟩, engagedOnce := true, mode := .engaged } }

/-- The state a command leads to. -/
def after (c : Instr) (s : State) : State :=
  match exec c s with
  | .next t => t
  | _ => s

/-- S0 EQUALISING in slot A at entry `index` of `recipe`, T_c 38.0 °C, with the entry in state `e`. -/
def equalising (recipe index : Nat) (e : EntryState) : State :=
  (site.modControl 0 fun c =>
      { c with state := .equalising, slot := some .A, startStamp := some ⟨0, 0⟩, rectOrder := some (.on 5352 50) }).modSlot .A
    fun r => { r with string := some 0, recipe := recipe, index := index, entryState := some e, tc := some 380
                      reason := some .request, priority := some .normal }

/-- S0 being watered in DOSING, positions 1 and 3 open since 800 ms. -/
def dosing : State :=
  site.modWater fun w =>
    { w with state := .dosing, string := some 0, reason := some .level, startStamp := some ⟨0, 5⟩, pump := true
             reservoir := 15000, openSet := [0, 2], plan := [⟨5, 40, 16000⟩]
             group := [⟨0, 86, 34400, some 800⟩, ⟨2, 10, 4000, some 800⟩] }

/-- The receiver has taken all of `f` but its last check byte. -/
def allButLast (f : Frame) (s : State) : State :=
  s.modRing fun r => { r with rx := .receiving (f.checked ++ (bytesBE 2 (crc16 f.checked).toNat).take 1) }

/-- The second check byte of `f`. -/
def lastByte (f : Frame) : Byte :=
  (bytesBE 2 (crc16 f.checked).toNat).getLastD 0

/-- The last byte of a frame that fits completes it. -/
theorem lastByte_completes (f : Frame) (s : State) (h : f.payload.length ≤ 48) :
    (allButLast f s).lastByteOf f (lastByte f) :=
  ⟨h, _, rfl, rfl⟩

/-- The state after the whole of `f` has arrived. -/
def receive (f : Frame) (s : State) : State :=
  after (.frameReceived 0 (lastByte f)) (allButLast f s)

/-- The last frame in the reply queue. -/
def lastReply (s : State) : List Byte :=
  ((s.ring.replies.getLast?).map fun f => f.payload).getD []

/-- S0 recalled: RETURNING in slot A. -/
def returning (step : ReturnStep) : State :=
  (site.modControl 0 fun c =>
      { c with state := .returning, slot := some .A, step := some step, variant := some .normal, endReason := some .complete
               rectOrder := some (.on 5400 50), lastRectTime := some 500
               confirmLeft := if step = .confirm then some 20000 else none
               matchDeadline := if step = .matching then some 2000 else none }).modSlot .A fun r => { r with string := some 0, recipe := 3 }

/-! ## Worked figures -/

/-- 3.9: at 38.0 °C phase 1 asks 2411 mV a cell, 57.86 V for 24 cells; at 39.0 °C 57.79 V. -/
theorem test_phase_voltage :
    phaseMv site.lim (site.phase 1) 380 = 2411 ∧ orderVolts 2411 24 = 5786 ∧ orderVolts (phaseMv site.lim (site.phase 1) 390) 24 = 5779 := by
  decide +kernel

/-- 3.9: the stretched durations 155, 260, 1 and 60 minutes. -/
theorem test_durations :
    [1, 2, 4, 3].map (fun id => effectiveDuration (site.phase id) (site.cfg 0)) = [155, 260, 1, 60] := by decide +kernel

/-- 5.5: the worked back-off with i_floor 50. -/
theorem test_backoff :
    [250, 187, 140, 105, 78, 58, 50].map (backOffLimit 50) = [some 187, some 140, some 105, some 78, some 58, some 50, none] := by
  decide +kernel

/-- R126: the doses and open times of the worked table. -/
theorem test_doses :
    [(Level.normal, 86400), (.noProbe, 9400), (.low, 3200), (.dry, 0), (.normal, 400000), (.high, 0)].map (fun x =>
        let c : Cell := { level := x.1, deficit := x.2 }
        (c.dose site.lim, c.candidate site.lim, openTime site.lim (c.dose site.lim)))
      = [(86, true, 34400), (9, false, 3600), (10, true, 4000), (10, true, 4000), (120, true, 48000), (0, false, 0)] := by
  decide +kernel

/-- R131: 50 ml after 20,000 ms, 85 ml after 34,399 ms, 0 ml before the opening has left. -/
theorem test_dispensed :
    (GroupItem.dispensed ⟨0, 86, 34400, some 0⟩ 25 20000, GroupItem.dispensed ⟨0, 86, 34400, some 0⟩ 25 34399,
      GroupItem.dispensed ⟨0, 86, 34400, none⟩ 25 20000) = (50, 85, 0) := by decide +kernel

/-- R36: 200 Ah at 150 % is 1,080,000 C. -/
theorem test_throughput : (site.cfg 0).throughputC = 1080000 := by decide +kernel

/-- 2.3: the first two readings of the worked integration. -/
theorem test_integration :
    let a := (Charge.mk 0 (some 0) (-5) 4000 9000 0 0 false false false none none false 0 none).integrate 720000 95 2000 1000 123
    let b := a.charge.integrate 720000 95 2000 2000 (-2350)
    (a.charge.qBal, a.charge.fine, a.charge.wAcc, a.charge.oTotal, a.mg) = (0, 850, 5531, 7, 1)
      ∧ (b.charge.qBal, b.charge.fine, b.charge.dDis) = (-234, -9150, 234) := by decide +kernel

/-- R158: the check over nine digits is 0x29B1, the known check value of this polynomial and initial value (PRESUMED: it stands
outside the manual). -/
theorem test_crc : crc16 [0x31, 0x32, 0x33, 0x34, 0x35, 0x36, 0x37, 0x38, 0x39] = 0x29B1 := by decide +kernel

/-! ## Events -/

/-- R156: straps 2 give own_address 0xF2. -/
theorem test_straps : (after (.coldReset 5 2) site).ring.ownAddress = 0xF2 := by decide +kernel

/-- R144, R153: GAS high for 20 ms sets the latch; 19 ms do not. -/
theorem test_gas_rise :
    (after (.gasRise 20) (after (.rawLineChange 3 .gas true) site)).site.gasLatch = true
      ∧ (after (.gasRise 19) (after (.rawLineChange 3 .gas true) site)).site.gasLatch = false := by decide +kernel

/-- R153: a round under gas returns with GAS and RECT OFF. -/
theorem test_gas_ends_round :
    let s := after (.gasRise 20) (after (.rawLineChange 0 .gas true) (equalising 3 0 .run))
    ((s.control 0).state, (s.control 0).endReason, (s.control 0).variant, (s.control 0).rectOrder)
      = (.returning, some .gas, some .gas, some .off) := by decide +kernel

/-- R94, 5.14: without source a phase suspends at RECT OFF and keeps its order; the rise resumes it. -/
theorem test_source_suspends :
    let s := after (.srcChange 20) (after (.rawLineChange 0 .src false)
      ((equalising 3 0 .run).modSlot .A fun r => { r with limit := 140, lastOrder := some (.on 5786 140) }))
    let t := after (.srcChange 20) (after (.rawLineChange 5 .src true) s)
    ((s.slot .A).entryState, (s.slot .A).lastOrder, (s.slot .A).pendingOrder, (t.slot .A).entryState, (t.slot .A).lastOrder)
      = (some .suspended, some .off, some (.on 5786 140), some .run, some (.on 5786 140)) := by decide +kernel

/-- 5.14: recipe 3 starts phase 1 at L 250 for 155 minutes, at 57.86 V. -/
theorem test_phase_starts :
    let s := (equalising 3 0 .run).startEntry .A 12
    ((s.slot .A).limit, (s.slot .A).dEff, (s.slot .A).lastOrder) = (250, 155, some (.on 5786 250)) := by decide +kernel

/-- 5.14: the time of phase 4 ends at its minute, and the WAIT of 30 minutes starts at RECT OFF. -/
theorem test_wait_starts :
    let s := after (.phaseTimeup 60000 .A) ((equalising 3 2 .run).modSlot .A fun r => { r with dEff := 1, lastOrder := some .off })
    ((s.slot .A).index, (s.slot .A).entryState, (s.slot .A).entryEnd) = (3, some .wait, some 1861000) := by decide +kernel

/-- 5.14: the water point after the WAIT calls for water at 52.51 V and 5.0 A (T_s 39.0 °C). -/
theorem test_water_point :
    let s := after (.waitEnd 0 .A) ((equalising 3 3 .wait).modSlot .A fun r => { r with entryEnd := some 1000, tc := some 390 })
    ((s.slot .A).entryState, (s.slot .A).lastOrder, s.queue.map fun e => (e.kind, e.priority, e.origin))
      = (some .waterWait, some (.on 5251 50), [(.water, .urgent, .recipe)]) := by decide +kernel

/-- 5.14: the water wait over, phase 3 asks 52.99 V; the entry called for has left the queue. -/
theorem test_water_wait_over :
    let s := after (.waterWaitExpiry 0 .A) { (equalising 3 4 .waterWait).modSlot .A fun r =>
      { r with entryEnd := some 1000, tc := some 390, waterCalled := true } with
        queue := [⟨0, .water, 0, .waterPoint, .urgent, .recipe, ⟨0, 0⟩⟩] }
    ((s.slot .A).lastOrder, s.queue.length) = (some (.on 5299 60), 0) := by decide +kernel

/-- 5.14: SPREAD met, the END completes the round and clears days_since_eq and D_dis (R38). -/
theorem test_round_completes :
    let s := after (.criterionMet 0 .A) (((equalising 3 5 .run).modSlot .A fun r =>
      { r with critStart := some 0, runElapsed := 1200000 }).modCharge 0 fun c => { c with daysSinceEq := 40, dDis := 9 })
    ((s.control 0).endReason, (s.charge 0).daysSinceEq, (s.charge 0).dDis) = (some .complete, 0, 0) := by decide +kernel

/-- R96, R97, R101: the slot's own ends. -/
theorem test_slot_limits :
    ((after (.suspendLimit 1 .A) ((equalising 3 0 .suspended).modSlot .A fun r =>
        { r with suspendedTotal := 3599999, reasons := { hot := true } })).control 0).endReason = some .suspendLimit
      ∧ ((after (.directTimeup 1 .A) ((equalising 0 0 .direct).modSlot .A fun r =>
        { r with runElapsed := 3599999 })).control 0).endReason = some .timeup := by decide +kernel

/-- R97: SOURCE in force for source_wait_min ends the round with NO_SOURCE. -/
theorem test_no_source :
    ((after (.noSource 299000 .A) ((equalising 3 0 .suspended).modSlot .A fun r =>
      { r with reasons := { source := true }, sourceWaitStart := some 0 })).control 0).endReason = none
    ∧ ((after (.noSource 1199000 .A) ((equalising 3 0 .suspended).modSlot .A fun r =>
      { r with reasons := { source := true }, sourceWaitStart := some 0 })).control 0).endReason = some .noSource := by
  decide +kernel

/-- R90: the slot's order is handed again after order_refresh_s. -/
theorem test_slot_refresh :
    let s := (equalising 3 0 .run).modSlot .A fun r => { r with lastOrder := some (.on 5786 140), lastOrderTime := some 0 }
    ((after (.slotRefresh 9000 .A) s).ring.orders.map fun o => (o.frame.dst, o.frame.payload))
      = [(0x08, [1, 0x16, 0x9A, 0, 140])] := by decide +kernel

/-- R69: a confirmation that runs out makes the string FAULTED with RECT OFF. -/
theorem test_confirm_expiry :
    let s := after (.confirmExpiry 20000 0) (returning .confirm)
    ((s.control 0).state, (s.control 0).rectOrder, (s.control 0).endReason) = (.faulted, some .off, some .complete) := by
  decide +kernel

/-- R68: match_deadline hands CONTACTOR BUS and starts the confirmation of 20 s. -/
theorem test_match_deadline :
    let s := after (.matchDeadline 1000 0) (returning .matching)
    ((s.control 0).step, (s.control 0).confirmLeft, s.ring.orders.map fun o => (o.frame.dst, o.frame.kind, o.frame.payload))
      = (some .confirm, some 20000, [(0x60, 0x21, [1])]) := by decide +kernel

/-- R79: the standing RECT order of a returning string is handed again. -/
theorem test_rect_refresh :
    (after (.rectRefresh 9500 0) (returning .confirm)).ring.orders.map (fun o => o.frame.payload) = [[1, 0x15, 0x18, 0, 50]] := by
  decide +kernel

/-- R130: position 3, of no probe, closes with its 10 ml; position 1 stays open. -/
theorem test_valve_close :
    let s := after (.valveClose 3800 2) (dosing.modCell 2 fun c => { c with deficit := 12500 })
    (s.water.openSet, s.water.reservoir, (s.cell 2).deficit, (s.cell 2).confirmDeadline, s.water.pump)
      = ([0], 14990, 2500, none, true) := by decide +kernel

/-- R132: the last close turns PUMP off and starts the gap of 5 s; a probe cell awaits confirmation for 60 minutes. -/
theorem test_last_valve :
    let s := after (.valveClose 34200 0) (dosing.modWater fun w => { w with openSet := [0] })
    (s.water.state, s.water.pump, s.water.gapEnd, (s.cell 0).confirmDeadline) = (.gap, false, some 40200, some 3635200) := by
  decide +kernel

/-- R132: after the gap the next group is opened; with an empty plan the round is COMPLETE (R135). -/
theorem test_gap_end :
    let g := dosing.modWater fun w => { w with state := .gap, pump := false, openSet := [], gapEnd := some 1500 }
    let s := after (.gapEnd 500) g
    let t := after (.gapEnd 500) (g.modWater fun w => { w with plan := [], roundMl := 96, cellsDosed := 2 })
    (s.water.state, s.water.openSet, s.water.plan) = (.dosing, [5], [])
      ∧ ((t.control 0).lastWaterOutcome.map fun o => (o.endReason, o.amount, o.entries)) = some (some .complete, 96, 2) := by
  decide +kernel

/-- R137: the second unconfirmed dose sets watering_fault. -/
theorem test_confirm_deadline :
    let s := after (.confirmDeadlineExpiry 0 0) (site.modCell 0 fun c =>
      { c with level := .low, unconfirmed := 1, confirmDeadline := some 1000 })
    ((s.cell 0).unconfirmed, (s.cell 0).wateringFault) = (2, true) := by decide +kernel

/-- R134: RESLOW accounts for the open valves, 86 ml planned with 50 ml after 20,000 ms, and clamps the account. -/
theorem test_reslow :
    let s := after (.reslowRise 19800) (after (.rawLineChange 0 .reslow true) (dosing.modWater fun w => { w with openSet := [0] }))
    ((s.control 0).lastWaterOutcome.map fun o => (o.endReason, o.amount), s.water.reservoir, s.water.state)
      = (some (some .reslow, 50), 2000, .idle) := by decide +kernel

/-- R120, R122, 6.11: a rise in EDGE mode that finds a triggered round cancels it with a holdoff. -/
theorem test_trigger_cancels :
    let s := { (equalising 3 0 .run).modSlot .A fun r => { r with triggerStarted := true } with
      images := { site.images with limits := putBytes limitsImage 5 [1] } }
    let t := after (.trigEdge 5) (after (.rawLineChange 0 .trig true) s)
    ((t.control 0).endReason, (t.control 0).holdoffUntil) = (some .trigCancel, some ⟨0, 30⟩) := by decide +kernel

/-- R145: an edge less than 2 ms behind the last one is not counted. -/
theorem test_tach_debounce :
    let s := site.modSite fun t => { t with measuring := true, window := some ⟨500, 7⟩, lastEdge := some 999 }
    (after (.tachEdge 0) s).site.window = some ⟨500, 7⟩ ∧ (after (.tachEdge 1) s).site.window = some ⟨500, 8⟩ := by
  decide +kernel

/-- R151: the third low window of 1 s sets FAN_FAIL, which ends a gassing stretch (R152). -/
theorem test_fan_fail :
    let s := (equalising 3 0 .run).modSite fun t =>
      { t with measuring := true, window := some ⟨200, 19⟩, lowWindows := 2, duty := 12 }
    let t := after (.tachWindowEnd 200) s
    (t.site.fanFail, (t.control 0).endReason) = (true, some .fanFail) := by decide +kernel

/-- R146: the delay leads to a pulse of the width taken at the request × 2 s, here 10 against a committed 5; the pulse ends. -/
theorem test_generator :
    let s := after (.genEnd 0) (site.modSite fun t => { t with genState := .delay, genEnd := some 1000, genWidth := 10 })
    (s.site.genreq, s.site.genEnd) = (true, some 21000) ∧ (after (.genEnd 20000) s).site.genreq = false := by decide +kernel

/-- R75, R100, R150, R181: BUS in EQUALISING ends the last gassing stretch and frees the slot, and the event applies a pending LIMITS
image with run_on_min 0; the run-on still takes the 10 minutes of before. -/
theorem test_run_on_before_commit :
    let s := (((equalising 3 0 .run).modSite fun t => { t with gassingRun := true }).modMgmt fun m =>
      { m with staging := .pending, stagedTable := some .limits, stagedTotal := some 96, staged := limitsImage.set 53 0 })
    let t := receive ⟨0x01, 0x60, 0x12, [1, 0]⟩ s
    (t.lim.runOnMin, t.mgmt.staging, t.site.gassingRun, t.site.runOnEnd) = (0, .empty, false, some 601000) := by decide +kernel

/-- R146: a request takes the genreq_width of that moment. -/
theorem test_request_width :
    let s := after (.srcChange 20) (after (.rawLineChange 0 .src false) (equalising 3 0 .run))
    (s.site.genState, s.site.genWidth, s.site.genEnd) = (.delay, site.lim.genreqWidth, some 81020) := by decide +kernel

/-- R147: a spent minute takes 1 from the allowance; the last one ends the round with ALLOWANCE. -/
theorem test_site_minute :
    let s := ((equalising 3 0 .run).modSite fun t => { t with spendMark := true, allowance := 1 }).modMgmt fun m =>
      { m with clock := ⟨7, 1438⟩ }
    let t := after (.siteMinute 59000) s
    (t.site.allowance, (t.control 0).endReason, t.mgmt.clock) = (0, some .allowance, ⟨7, 1439⟩) := by decide +kernel

/-- R34, R148: the rollover counts a day and restores the allowance. -/
theorem test_rollover :
    let s := (site.modSite fun t => { t with allowance := 3 }).modMgmt fun m => { m with clock := ⟨7, 1439⟩ }
    let t := after (.siteMinute 59000) s
    (t.site.allowance, (t.charge 0).daysSinceEq, (t.charge 2).daysSinceEq, t.mgmt.clock) = (240, 1, 0, ⟨8, 0⟩) := by
  decide +kernel

/-- R15: T_s falls from 24.1 to 23.1 °C when the warmest cell goes stale. -/
theorem test_ts_falls :
    let s := [(0, 231), (1, 229), (2, 241)].foldl (fun (s : State) (x : CellIx × Int) => s.modCell x.1 fun c =>
      { c with voltage := some 2200, vExpiry := some 9000, temp := some x.2, tExpiry := some (if x.1 = 2 then 1500 else 9000) }) site
    (s.judgeTs 0, (after (.freshnessExpiry 500 (.cellTemp 2)) s |>.reading 0).ts) = (some 241, some 231) := by decide +kernel

/-- R168: 500 ms of silence are WARN, 20 s BLIND; the repeat follows 10 s later (R170). -/
theorem test_sight :
    let w := after (.warnExpiry 400) (returning .matching)
    let b := after (.blindExpiry 19500) w
    (w.ring.sight, b.ring.sight, b.ring.repeatDue, (b.control 0).step) = (.warn, .blind, some 30900, some .confirm)
      ∧ (after (.blindRepeat 10000) b).ring.repeatDue = some 40900 := by decide +kernel

/-- R157: more than 2 ms without a byte is a RUNT. -/
theorem test_runt :
    let s := site.modRing fun r => { r with rx := .receiving [1], rxLast := 1000 }
    (after (.rxTimeout 2) s).ring.counts.runt = 0 ∧ (after (.rxTimeout 3) s).ring.counts.runt = 1 := by decide +kernel

/-- Log 3: the tick puts the run-on that ends with its ms into the queue, and nothing else. -/
theorem test_tick_queues_what_is_due :
    (match step ((site.modRing fun r => { r with sending := none }).modSite fun t =>
        { t with runOnEnd := some 1001, genEnd := some 1002 }) with
      | .next t => t.pending
      | _ => []) = [.runOnEnd 0] := by decide +kernel

/-! ## Requests -/

/-- R174: only controller_addr is heard; an unknown code is answered UNKNOWN. -/
theorem test_request_order :
    lastReply (after (.requestUnknown 0 0x02 [0x60]) site) = [0x60, Status.notAllowed.code]
      ∧ lastReply (after (.requestUnknown 0 0x01 [0x60]) site) = [0x60, Status.unknown.code] := by decide +kernel

/-- R175, 11.5: STATUS carries mode and flags, the queue length, and the two fixed bytes before the revision. -/
theorem test_status :
    let p := lastReply (after (.status 0 1) (site.modSite fun t => { t with gasLatch := true }))
    (p.take 4, (p.drop 30).take 2) = ([0x01, 0, 9, 0x20], [0x48, 0x20]) ∧ p.length = 33 := by decide +kernel

/-- R175: the first three bytes of LIMITS are the controller and the two slots. -/
theorem test_table_read : lastReply (after (.tableRead 0 1 1 0 3) site) = [0x02, 0, 0x01, 0x08, 0x09] := by decide +kernel

/-- R176, R177: a load begins, takes its first bytes, and refuses them a second time. -/
theorem test_load :
    let s := after (.loadBegin 0 1 4 192) site
    let t := after (.loadPart 0 1 0 [1, 3]) s
    (s.mgmt.staging, s.mgmt.stagedTotal, t.mgmt.staged) = (.receiving, some 192, [1, 3])
      ∧ lastReply t = [0x11, 0, 2] ∧ lastReply (after (.loadPart 0 1 0 [1, 3]) t) = [0x11, Status.badArg.code] := by
  decide +kernel

/-- R178, R181: a whole RECIPE image replaces the committed one; with a string bound it is DEFERRED. -/
theorem test_load_commit :
    let img := List.replicate 192 (0 : Byte)
    let m := fun (s : State) => s.modMgmt fun m =>
      { m with staging := .receiving, stagedTable := some .recipe, stagedTotal := some 192, staged := img }
    (after (.loadCommit 0 1) (m site)).images.recipe = img
      ∧ (after (.loadCommit 0 1) (m (equalising 3 0 .run))).mgmt.staging = .pending
      ∧ (after (.applyPendingCommit 0) ((m site).modMgmt fun m => { m with staging := .pending })).images.recipe = img
      ∧ (after (.loadDiscard 0 1) (m site)).mgmt.staging = .empty := by decide +kernel

/-- R48: a PHASE entry that names an unused phase is refused at its offset. -/
theorem test_bad_table :
    let s := site.modMgmt fun m => { m with staging := .receiving, stagedTable := some .recipe, stagedTotal := some 192
                                            staged := [2, 30, 1, 9] ++ List.replicate 188 0 }
    lastReply (after (.loadCommit 0 1) s) = [0x12, Status.badTable.code, 2] := by decide +kernel

/-- R183: the window moves by the records read, not under hold, and returns to the mark. -/
theorem test_window :
    let s := after (.cursor 0 1 0 189) site
    let r := after (.read 0 1 4) s
    let h := after (.read 0 1 1) (after (.hold 0 1) r)
    s.mgmt.cursor = ⟨.cell, 189⟩ ∧ r.mgmt.cursor = ⟨.cell, 192⟩ ∧ (lastReply r).length = 2 + 3 * 11
      ∧ h.mgmt.cursor = ⟨.cell, 192⟩ ∧ (after (.release 0 1) h).mgmt.held = false := by decide +kernel

/-- 11.5: the CELL record of a cell at 2250 mV, −1.5 °C, LOW, both fresh, 3200 mg. -/
theorem test_cell_record :
    site.cellRecord { voltage := some 2250, vExpiry := some 5000, temp := some (-15), tExpiry := some 5000, level := .low
                      deficit := 3200, lastDose := 10, confirmDeadline := some 61001 }
      = [0x08, 0xCA, 0xFF, 0xF1, 0x1B, 0, 0x0C, 0x80, 0, 10, 2] := by decide +kernel

/-- 11.3, R188: without an outcome the reason and the end reason are 0, whatever the free bits. -/
theorem test_absent_outcome :
    (eqOutcomeBytes none).getD 1 0 >>> 4 = 0 ∧ (eqOutcomeBytes none).getD 2 0 = 0 :=
  have h : ∀ b : Byte, (b &&& 0x01) >>> 4 = 0 := by decide
  ⟨h (Config.absentEqOutcome 36), rfl⟩

/-- R184: WRITE sets a deficit and advances the cursor. -/
theorem test_write :
    let s := after (.write 0 1 [0, 0, 0x27, 0x10]) (site.modCell 0 fun c => { c with wateringFault := true })
    ((s.cell 0).deficit, (s.cell 0).wateringFault, s.mgmt.cursor) = (10000, false, ⟨.cell, 1⟩) := by decide +kernel

/-- The queue of 6.10, within the two strings of this site. -/
def queued : State :=
  { site with
    holdoffEnd := some 99999
    queue := [⟨1, .equalise, 3, .dueDays, .normal, .auto, ⟨212, 540⟩⟩, ⟨0, .equalise, 3, .dueSpread, .normal, .auto, ⟨212, 590⟩⟩] }

/-- 6.10: a REQUEST raises the entry to URGENT; it moves to the head and keeps its stamp. -/
theorem test_enqueue_merges :
    (after (.enqueue 0 1 0 0 2 1) queued).queue = [⟨0, .equalise, 2, .request, .urgent, .request, ⟨212, 590⟩⟩,
      ⟨1, .equalise, 3, .dueDays, .normal, .auto, ⟨212, 540⟩⟩] := by decide +kernel

/-- R111: CANCEL takes the entry out. -/
theorem test_cancel :
    (after (.cancel 0 1 1 0) queued).queue.map (fun e => e.string) = [0]
      ∧ lastReply (after (.cancel 0 1 1 1) queued) = [0x31, Status.notAllowed.code] := by decide +kernel

/-- R67, R68: ABORT of an EQUALISING string starts a return at the match voltage, here the float of 53.52 V. -/
theorem test_abort :
    let s := after (.abort 0 1 0) (equalising 3 0 .run)
    ((s.control 0).endReason, (s.control 0).step, (s.control 0).rectOrder, (s.control 0).matchDeadline)
      = (some .abortRequest, some .matching, some (.on 5352 50), some 601000) := by decide +kernel

/-- R102: DIRECT orders the given voltage and current, 2300 mV × 24 cells and 10.0 A. -/
theorem test_direct :
    let s := after (.direct 0 1 0 2300 100) (equalising 0 0 .direct)
    ((s.slot .A).lastOrder, (s.slot .A).limit) = (some (.on 5520 100), 100) := by decide +kernel

/-- R77, R78: EXCLUDE and INCLUDE of S0, and CLEAR_FAULT at BUS. -/
theorem test_string_requests :
    let s := after (.excludeStr 0 1 0) site
    let b := fun (s : State) => s.modReading 0 fun r => { r with lastPosition := some .bus }
    ((s.control 0).state, ((after (.includeStr 0 1 0) (b s)).control 0).state) = (.out, .onBus)
      ∧ ((after (.clearFault 0 1 0) (b (site.modControl 0 fun c => { c with state := .faulted }))).control 0).state = .onBus := by
  decide +kernel

/-- R154: CLEAR_GAS is refused while GAS is high and clears the latch when it is low. -/
theorem test_clear_gas :
    let s := site.modSite fun t => { t with gasLatch := true }
    (after (.clearGas 0 1) s).site.gasLatch = false
      ∧ (after (.clearGas 0 1) (s.modSite fun t => { t with gas := ⟨true, true, none⟩ })).site.gasLatch = true := by decide +kernel

/-- R186, R139, R182: the clock, the account and the mode. -/
theorem test_site_requests :
    (after (.setTime 5 1 300 1439) site).mgmt.minuteEnd = 61005 ∧ lastReply (after (.setTime 0 1 300 1440) site) = [0x50, Status.badArg.code]
      ∧ (after (.refill 0 1 30000) site).water.reservoir = 20000 ∧ (after (.setMode 0 1 0) site).mgmt.mode = .transparent
      ∧ lastReply (after (.setMode 0 1 0) (equalising 3 0 .run)) = [0x52, Status.notAllowed.code] := by decide +kernel

/-- R172, R187: RESTART ends the round with RESTART and empties the queue; the mode stays. -/
theorem test_restart :
    let s := after (.restart 0 1) { equalising 3 0 .run with queue := queued.queue }
    ((s.control 0).endReason, s.queue.length, s.mgmt.mode, s.ring.replies.length) = (some .restart, 0, .engaged, 1) := by
  decide +kernel

/-! ## Frames -/

/-- 9.4, worked thinning: five CELL frames and a SHUNT frame. -/
theorem test_thinning :
    let f := fun (k a : Byte) => Frame.mk 0x01 a k [0]
    let run := [f 0x10 0x41, f 0x10 0x42, f 0x11 0x48, f 0x10 0x43, f 0x10 0x44, f 0x10 0x41].foldl
      (fun (s : State × List Nat) x => let t := receive x s.1; (t, s.2 ++ [t.ring.thin[3]])) (site, [])
    run.2 = [1, 2, 2, 3, 0, 1] ∧ run.1.ring.forward.map (fun x => x.src) = [0x48, 0x44] := by decide +kernel

/-- R5, R6: a CELL reading of S0 position 2: 2.250 V, 24.1 °C, LOW. -/
theorem test_cell_reading :
    let s := receive ⟨0x01, 0x21, 0x10, [0x08, 0xCA, 0, 0xF1, 3, 0]⟩ site
    ((s.cell 1).voltage, (s.cell 1).temp, (s.cell 1).level, (s.cell 1).vExpiry) = (some 2250, some 241, .low, some 61000) := by
  decide +kernel

/-- R10, R17: a SHUNT reading of 54.12 V makes the bus voltage. -/
theorem test_shunt_reading :
    (receive ⟨0x01, 0x40, 0x11, [0, 123, 0x15, 0x24, 0]⟩ site).busVoltage = some 5412 := by decide +kernel

/-- R69: a POSITION of BUS completes the return and frees the slot. -/
theorem test_position_reading :
    let s := receive ⟨0x01, 0x60, 0x12, [1, 0]⟩ (returning .confirm)
    ((s.control 0).state, (s.control 0).slot, (s.slot .A).string) = (.onBus, none, none) := by decide +kernel

/-- R157, R158: a request frame byte by byte: SET_TIME from the controller. -/
theorem test_bytes :
    let f : Frame := ⟨0xF0, 0x01, 0x30, [0x50, 0, 9, 0, 30]⟩
    (f.onRing.foldl (fun s b => after (.ringInputByte 1 b) s) site).mgmt.clock = ⟨9, 30⟩ := by decide +kernel

/-- R167: the end of the frame at the output lets the waiting order begin. -/
theorem test_output_end :
    let s := after (.outputFrameEnd 0) (site.handOrder ⟨0x08, 0xF0, 0x20, [0, 0, 0, 0, 0]⟩)
    (s.ring.sending.map (fun x => x.frame.dst), s.ring.orders.length) = (some 0x08, 0) := by decide +kernel

/-- R33: the end of the discharge holdoff. -/
theorem test_holdoff_end :
    (after (.dischargeHoldoffEnd 0) { site with holdoffEnd := some 1000 }).holdoffEnd = none
      ∧ (after (.runOnEnd 0) (site.modSite fun t => { t with runOnEnd := some 1000 })).site.runOnEnd = none := by decide +kernel

/-! ## Witnesses: the step, time and reset -/

/-- The command leads to a next state with the given property. -/
def leadsTo (c : Instr) (s : State) (p : State → Bool) : Bool :=
  match exec c s with
  | .next t => p t
  | _ => false

theorem witness_leadsTo (c : Instr) (s : State) (p : State → Bool) (h : leadsTo c s p = true) :
    ∃ t, exec c s = .next t ∧ p t = true := by
  unfold leadsTo at h
  split at h
  · exact ⟨_, ‹_›, h⟩
  · cases h

theorem witness_StepRunsFrontCommand :
    { site with pending := [.siteMinute 0, .gapEnd 1] }.pending = .siteMinute 0 :: [.gapEnd 1] := rfl

theorem witness_PassingTimeMovesCountersAlone :
    ((equalising 3 0 .run).slot .A).entryState = some .run ∧ ((equalising 0 0 .direct).slot .A).entryState = some .direct
      ∧ ((equalising 3 0 .suspended).slot .A).entryState = some .suspended ∧ (site.slot .A).entryState = none
      ∧ ((equalising 3 3 .wait).slot .A).entryState = some .wait
      ∧ ((equalising 3 4 .waterWait).slot .A).entryState = some .waterWait := by decide +kernel

/-- Timers of every kind that run out after 1000 ms. -/
def ticking : State :=
  ({ site with holdoffEnd := some 1500 }.modCell 0 fun c =>
      { c with vExpiry := some 1500, tExpiry := some 1500, confirmDeadline := some 1500 }).modReading 0 (fun r =>
      { r with tvExpiry := some 1500 }) |>.modSite (fun t =>
      { t with
        src := ⟨false, true, some 1020⟩, gas := ⟨true, false, some 1020⟩, reslow := ⟨true, false, some 1020⟩
        trig := ⟨true, false, some 1005⟩, measuring := true, window := some ⟨600, 0⟩, genState := .delay, genEnd := some 1500
        runOnEnd := some 1500 }) |>.modRing fun r =>
      { r with rx := .receiving [1], rxLast := 999, lastGood := some 900, repeatDue := some 1500 }

/-- What is due at the tick: a run-on that ends at 1001 ms. -/
theorem witness_dueNow : ((site.modSite fun t => { t with runOnEnd := some 1001 }).elapse 1).dueNow (.runOnEnd 0) :=
  ⟨1001, by decide +kernel, by decide +kernel⟩

theorem witness_EventsNotDueLetTimePass :
    site.pending = []
    ∧ (site.site.src.stableEnd = none ∧ site.site.gas.stableEnd = none ∧ site.site.reslow.stableEnd = none
      ∧ site.site.trig.stableEnd = none ∧ site.site.measuring = false ∧ site.site.genEnd = none ∧ site.site.runOnEnd = none
      ∧ site.ring.rx = .hunt ∧ State.reset.ring.sending = none ∧ site.now + 58999 < site.mgmt.minuteEnd
      ∧ site.holdoffEnd = none ∧ (site.cell 191).confirmDeadline = none ∧ site.mgmt.staging ≠ .pending
      ∧ (site.slot .B).entryState = none)
    ∧ (ticking.site.src.stableEnd = some 1020 ∧ ticking.site.gas.stableEnd = some 1020
      ∧ ticking.site.reslow.stableEnd = some 1020 ∧ ticking.now + 19 < 1020 ∧ ticking.site.trig.stableEnd = some 1005
      ∧ ticking.now + 4 < 1005 ∧ ticking.site.window = some ⟨600, 0⟩ ∧ ticking.now + 599 < 600 + 1000
      ∧ ticking.site.genEnd = some 1500 ∧ ticking.site.runOnEnd = some 1500 ∧ ticking.now + 499 < 1500
      ∧ ticking.ring.rx = .receiving [1] ∧ ticking.now + 1 ≤ ticking.ring.rxLast + 2 ∧ ticking.holdoffEnd = some 1500
      ∧ ticking.mgmt.loaded.limits = true ∧ ticking.ring.sight = .seeing ∧ ticking.ring.lastGood = some 900
      ∧ ticking.now + 399 < 900 + ticking.lim.silenceWarnMs ∧ ticking.now + 19899 < 900 + ticking.lim.silenceBlindS * 1000
      ∧ ticking.ring.repeatDue = some 1500 ∧ (ticking.cell 0).vExpiry = some 1500 ∧ (ticking.cell 0).tExpiry = some 1500
      ∧ (ticking.cell 0).confirmDeadline = some 1500 ∧ (ticking.reading 0).tvExpiry = some 1500)
    ∧ (let s := returning .confirm;
      (s.control 0).confirmLeft = some 20000 ∧ 19999 < 20000 ∧ (s.control 0).lastRectTime = some 500
        ∧ s.now + 9499 < 500 + s.lim.orderRefreshS * 1000)
    ∧ (((returning .matching).control 0).matchDeadline = some 2000 ∧ (returning .matching).now + 999 < 2000)
    ∧ (let s := (equalising 3 1 .run).modSlot .A fun r =>
        { r with lastOrder := some .off, lastOrderTime := some 500, dEff := 1, runElapsed := 59998, critStart := some 0 };
      s.now + 9499 < 500 + s.lim.orderRefreshS * 1000 ∧ s.slotEntry .A = .phase 2
        ∧ (s.slot .A).runElapsed + 1 < (s.slot .A).dEff * 60000
        ∧ (s.slot .A).runElapsed + 1 < 0 + (s.phase 2).critHoldMin * 60000)
    ∧ (∀ e, e = EntryState.wait ∨ e = .waterWait →
      let s := (equalising 3 3 e).modSlot .A fun r => { r with entryEnd := some 1500 };
      (s.slot .A).entryState = some e ∧ (s.slot .A).entryEnd = some 1500 ∧ s.now + 499 < 1500)
    ∧ (let s := (equalising 3 0 .suspended).modSlot .A fun r =>
        { r with suspendedTotal := 3599998, reasons := { source := true }, sourceWaitStart := some 900 };
      (s.slot .A).suspendedTotal + 1 < s.lim.suspendMaxMin * 60000
        ∧ s.now + 1199899 < 900 + s.lim.sourceWaitMin * 60000)
    ∧ (let s := (equalising 0 0 .direct).modSlot .A fun r => { r with runElapsed := 3599998 };
      (s.slot .A).runElapsed + 1 < s.lim.directMaxMin * 60000)
    ∧ (dosing.water.group = [⟨0, 86, 34400, some 800⟩, ⟨2, 10, 4000, some 800⟩] ∧ dosing.now + 3799 < 800 + 4000)
    ∧ (let s := dosing.modWater fun w => { w with state := .gap, gapEnd := some 1500 };
      s.water.state = .gap ∧ s.water.string = some 0 ∧ s.water.gapEnd = some 1500 ∧ s.now + 499 < 1500) := by
  refine ⟨rfl, by decide +kernel, by decide +kernel, by decide +kernel, by decide +kernel, by decide +kernel, ?_,
    by decide +kernel, by decide +kernel, by decide +kernel, by decide +kernel⟩
  rintro e (rfl | rfl) <;> decide +kernel

/-- `site` meets the bounds. -/
theorem witness_bounds : site.Ok where
  ring := ⟨by decide +kernel, by decide +kernel, by decide +kernel, by decide +kernel, by decide +kernel,
    by unfold oneOrderEach; decide +kernel, by unfold noRectOn; decide +kernel⟩
  counts := by unfold Counts.Ok; decide +kernel
  cells := by unfold State.CellsOk Cell.Ok; decide +kernel
  clock := by unfold Stamp.Ok; decide +kernel
  gas := by unfold State.GasOk; decide +kernel
  queue := ⟨by unfold namesOnce; decide +kernel, by unfold urgentFirst; decide +kernel⟩
  site := by unfold Site.Ok Site.GenOk Site.RunOnOk; decide +kernel
  pump := by unfold Water.PumpOk; decide +kernel

theorem witness_EveryStepKeepsBounds : site.Ok ∧ ∃ t, step site = .next t := ⟨witness_bounds, _, rfl⟩

/-- In `equalising` strings and slots agree. -/
theorem witness_bindings : (equalising 3 0 .run).BoundOk where
  agree sl i := by revert i; cases sl <;> decide +kernel
  away := by decide +kernel
  home := by decide +kernel
  runs sl := by
    cases sl
    · exact fun _ => ⟨0, by decide +kernel, by decide +kernel⟩
    · exact fun h => absurd (by decide +kernel) h
  calls sl := by cases sl <;> decide +kernel
  waits := by decide +kernel

theorem witness_EveryStepKeepsBindings : (equalising 3 0 .run).BoundOk ∧ ∃ t, step (equalising 3 0 .run) = .next t :=
  ⟨witness_bindings, _, rfl⟩

/-! ## Witnesses: rules over every command -/

/-- A RECIPE image of zeros left pending. -/
def pendingRecipe : State :=
  site.modMgmt fun m => { m with staging := .pending, stagedTable := some .recipe, stagedTotal := some 192
                                 staged := List.replicate 192 0 }

theorem witness_SharedItemsMoveAtTheirEvents :
    (∃ t, exec (.gasRise 20) (after (.rawLineChange 0 .gas true) site) = .next t
      ∧ (!(after (.rawLineChange 0 .gas true) site).site.gasLatch && t.site.gasLatch) = true)
    ∧ (∃ t, exec (.clearGas 0 1) (site.modSite fun t => { t with gasLatch := true }) = .next t ∧ !t.site.gasLatch)
    ∧ (∃ t, exec (.siteMinute 59000) site = .next t ∧ decide (t.mgmt.clock ≠ site.mgmt.clock) = true) :=
  ⟨witness_leadsTo _ _ _ (by decide +kernel), witness_leadsTo _ _ _ (by decide +kernel),
    witness_leadsTo _ _ _ (by decide +kernel)⟩

theorem witness_ImagesChangeWhole :
    ∃ t, exec (.applyPendingCommit 0) pendingRecipe = .next t ∧ decide (t.images ≠ pendingRecipe.images) = true :=
  witness_leadsTo _ _ (fun t => decide (t.images ≠ pendingRecipe.images)) (by decide +kernel)

theorem witness_NoRectOnBeginsUnderGas :
    let s := { (site.handOrder ⟨0x08, 0xF0, 0x20, [0, 0, 0, 0, 0]⟩) with
      ring := { (site.handOrder ⟨0x08, 0xF0, 0x20, [0, 0, 0, 0, 0]⟩).ring with gasStop := true }
      site := { site.site with gasLatch := true } }
    s.GasOk ∧ s.ring.Ok ∧ ∃ t, exec (.outputFrameEnd 0) s = .next t
      ∧ (t.site.gasLatch && decide (t.ring.sending ≠ s.ring.sending)
          && decide ((t.ring.sending.bind fun x => x.order) = some 0)) = true :=
  ⟨by unfold State.GasOk; decide +kernel,
    ⟨by decide +kernel, by decide +kernel, by decide +kernel, by decide +kernel, by decide +kernel,
      by unfold oneOrderEach; decide +kernel, by unfold noRectOn; decide +kernel⟩,
    witness_leadsTo _ _ _ (by decide +kernel)⟩

/-! ## Witnesses: the ring -/

/-- The receiver with `got` taken since the start marker. -/
def taken (got : List Byte) : State :=
  site.modRing fun r => { r with rx := .receiving got, rxLast := 990 }

theorem witness_ReceiverTakesEachByte :
    site.ring.rx = .hunt
      ∧ ((taken [1, 2]).ring.rx = .receiving [1, 2] ∧ ([1, 2] : List Byte).length < 3)
      ∧ ((taken [1, 2, 3]).ring.rx = .receiving [1, 2, 3] ∧ (48 : Byte).toNat ≤ 48 ∧ 48 < (49 : Byte).toNat)
      ∧ (∀ n, n ≤ 48 → let got : List Byte := [1, 2, 3, 48] ++ List.replicate n 7;
          (taken got).ring.rx = .receiving got ∧ 4 ≤ got.length ∧ got.length < 5 + (got.getD 3 0).toNat)
      ∧ (let got : List Byte := [1, 2, 3, 48] ++ List.replicate 49 7;
          (taken got).ring.rx = .receiving got ∧ 4 ≤ got.length ∧ got.length = 5 + (got.getD 3 0).toNat)
      ∧ (taken [1]).ring.rxLast + 2 < (taken [1]).now + 0 := by
  refine ⟨rfl, by decide +kernel, by decide +kernel, fun n h => ⟨rfl, ?_, ?_⟩, ⟨rfl, by decide, by decide⟩, by decide⟩
  · simp
  · simp; omega

theorem witness_FrameReadsBack : (Frame.mk 1 2 3 (List.replicate 48 0xA5)).payload.length ≤ 48 := by decide

theorem witness_EveryFrameIsReceivedWhole :
    let f : Frame := ⟨1, 2, 0x30, List.replicate 48 0xA5⟩
    f.payload.length ≤ 48 ∧ (List.replicate 55 2).length = f.onRing.length ∧ (∀ d ∈ (List.replicate 55 2).tail, d ≤ 2)
      ∧ site.ring.rx = .hunt ∧ site.ring.sight = .seeing := by
  decide +kernel

/-- A frame of no kind the part reads, from 0x34 to 0x33. -/
def passing : Frame := ⟨0x33, 0x34, 0x44, [9]⟩

/-- S0 EQUALISING at phase 1 from 0x20, suspended since sight left SEEING, its order kept. -/
def unsighted (stage : Sight) : State :=
  ((equalising 3 0 .suspended).modSlot .A fun r =>
    { r with resumeState := some .run, reasons := { blind := true }, limit := 140, pendingOrder := some (.on 5786 140)
             lastOrder := some .off }).modRing fun r => { r with sight := stage, repeatDue := some 9000 }

theorem witness_CheckDecidesTheFrame :
    (let got := passing.checked ++ (bytesBE 2 (crc16 passing.checked).toNat).take 1
    (allButLast passing site).ring.rx = .receiving got ∧ 4 ≤ got.length ∧ got.length = 5 + (got.getD 3 0).toNat
      ∧ checkAgrees (got ++ [lastByte passing]) = true ∧ checkAgrees (got ++ [lastByte passing + 1]) = false)
    ∧ (∀ n, let s := allButLast passing (site.modRing fun r => { r with sight := .blind, replies := List.replicate n passing });
      s.lastByteOf passing (lastByte passing) ∧ s.ring.sight ≠ .seeing ∧ s.queue = [] ∧ ∀ sl, (s.slot sl).entryState = none)
    ∧ (∀ stage, let s := allButLast passing (unsighted stage);
      s.lastByteOf passing (lastByte passing) ∧ s.queue = [] ∧ s.otherIdle .A ∧ (s.slot .A).entryState = some .suspended
        ∧ (s.slot .A).resumeState = some .run ∧ s.site.src.level = true ∧ s.stale .A = false
        ∧ ∃ tc, (s.slot .A).tc = some tc ∧ tc + 20 ≤ s.lim.hotLimit) := by
  refine ⟨by decide +kernel, fun n => ⟨lastByte_completes _ _ (by decide), Sight.noConfusion, rfl, fun sl => by cases sl <;> rfl⟩,
    fun stage => ⟨lastByte_completes _ _ (by decide), rfl, fun sl h => ?_, rfl, rfl, rfl, ?_, 380, rfl, ?_⟩⟩
  · cases sl
    · exact absurd rfl h
    · rfl
  · cases stage <;> decide +kernel
  · exact (by decide +kernel : (380 : Int) + 20 ≤ site.lim.hotLimit)

/-- R95, R103, R150, R158: in WARN, BUS of an EQUALISING string resumes its gassing phase, whose activity ends the run-on of
before, and then ends the round; the end of the resumed stretch begins a new run-on of 10 minutes. -/
theorem test_resumed_and_ended :
    let t := receive ⟨0x01, 0x60, 0x12, [1, 0]⟩ ((unsighted .warn).modSite fun t => { t with runOnEnd := some 5000 })
    ((t.control 0).state, t.site.gassingRun, t.site.runOnEnd) = (.onBus, false, some 601000) := by decide +kernel

/-- R99, R102, R103, R150: a DIRECT of 2400 mV under FAN_FAIL makes the stretch a gassing one and ends the round; the run-on
begins. -/
theorem test_direct_fan_fail :
    let t := after (.direct 0 1 0 2400 100) ((equalising 0 0 .direct).modSite fun t => { t with fanFail := true })
    ((t.control 0).endReason, t.site.gassingRun, t.site.runOnEnd) = (some .fanFail, false, some 601000) := by decide +kernel

/-- R88, R103, R150, R158: in WARN, BUS of an EQUALISING string in WATER_WAIT first restores sight, whose scan finds nothing to
water (R125); the gassing phase behind the water point begins and is ended by the frame, so the run-on begins. -/
theorem test_begun_and_ended :
    let s := { (equalising 2 0 .waterWait) with
      images := { site.images with recipe := putBytes recipeImage 24 [3, 0, 1, 1] }
      queue := [⟨0, .water, 0, .waterPoint, .urgent, .recipe, ⟨0, 0⟩⟩] }
    let t := receive ⟨0x01, 0x60, 0x12, [1, 0]⟩ ((s.modWater fun w => { w with reservoir := 15000 }).modRing fun r =>
      { r with sight := .warn })
    ((t.control 0).state, (t.control 0).lastWaterOutcome.bind fun o => o.endReason, t.site.gassingRun, t.site.runOnEnd)
      = (.onBus, some .nothing, false, some 601000) := by decide +kernel

/-- R85, R93, R94, R150: a cell above cell_cut_mv cuts a phase that does not gas, and the reading's 45.0 °C suspends the gassing
phase that it has begun: the run-on begins. -/
theorem test_cut_then_hot :
    let s := ((equalising 3 0 .run).modSlot .A fun r => { r with limit := 50, lastOrder := some (.on 5786 50) })
    let s := { s with images := { site.images with recipe := putBytes recipeImage 48 [1, 3, 1, 1], limits := putBytes limitsImage 27 [24] } }
    let t := receive ⟨0x01, 0x20, 0x10, [0x0A, 0x5A, 0x01, 0xC2, 2, 0]⟩ s
    ((t.slot .A).index, (t.slot .A).entryState, t.site.gassingRun, t.site.runOnEnd) = (1, some .suspended, false, some 601000) := by
  decide +kernel

/-- R155, R158, R169: OPEN of an ON_BUS string that ends BLIND puts the lamp from BLINK to OFF and back to BLINK, at the beginning
of its lit half; in SEEING a lamp that blinks for another reason goes on. -/
theorem test_lamp_restarts :
    let s (v : Sight) := (site.modRing fun r => { r with sight := v }).modSite fun t =>
      { t with lamp := .blink, lampStart := 300, fanFail := v == .seeing }
    let t (v : Sight) := receive ⟨0x01, 0x60, 0x12, [0, 0]⟩ (s v)
    ((t .blind).site.lamp, (t .blind).site.lampStart, (t .seeing).site.lamp, (t .seeing).site.lampStart)
      = (.blink, 1000, .blink, 300) := by decide +kernel

/-- The CONTACTOR order of another source to the contactor of S1. -/
def homing : Frame := ⟨0x61, 0x02, 0x21, [1]⟩

/-- A frame of another kind is no order. -/
theorem witness_noOrder (s : State) (f : Frame) (h20 : f.kind ≠ 0x20) (h21 : f.kind ≠ 0x21) (h22 : f.kind ≠ 0x22) :
    ¬ s.orderPoliced f := by
  rintro (⟨h, -⟩ | ⟨h, -⟩ | ⟨h, -⟩)
  exacts [h20 h, h22 h, h21 h]

theorem witness_FramesAreForwardedByModeAndTable :
    (let s := allButLast passing (site.modMgmt fun m => { m with mode := .transparent });
      s.lastByteOf passing (lastByte passing) ∧ s.mgmt.mode = .transparent ∧ s.ring.sight = .seeing
        ∧ passing.dst ≠ s.ring.ownAddress ∧ ¬ (passing.dst = 0xFF ∧ passing.kind = 0x30) ∧ s.ring.sending.isSome = true
        ∧ s.ring.forward.length < 4
        ∧ 4 ≤ (s.modRing fun r => { r with forward := [passing, passing, passing, passing] }).ring.forward.length)
    ∧ (∀ f, f = passing ∨ f = ⟨0x33, 0x60, 0x44, []⟩ ∨ f = ⟨0xA0, 0xA0, 0x30, [1]⟩ ∨ f = ⟨0x33, 0x41, 0x10, [1]⟩ →
        let s := allButLast f site
        s.lastByteOf f (lastByte f) ∧ s.mgmt.mode = .engaged ∧ s.ring.sight = .seeing ∧ f.dst ≠ s.ring.ownAddress
          ∧ ¬ (f.dst = 0xFF ∧ f.kind = 0x30) ∧ ¬ s.orderPoliced f ∧ s.ring.sending.isSome = true
          ∧ s.mgmt.staging ≠ .pending ∧ s.ring.forward.length < 4)
    ∧ (let s := allButLast homing (equalising 3 0 .run);
      s.lastByteOf homing (lastByte homing) ∧ homing.src ≠ s.ring.ownAddress ∧ homing.kind = 0x21
        ∧ homing.dst = (s.cfg 1).contactorAddr ∧ (s.control 1).state = .onBus ∧ ¬ s.orderPoliced homing)
    ∧ (∀ e, (site.passEntry e).matchesFrame passing = false)
    ∧ ((site.passEntry 5).matchesFrame ⟨0x33, 0x60, 0x44, []⟩ = true ∧ (site.passEntry 5).action = .pass
        ∧ ∀ e' : Fin 16, e' < 5 → (site.passEntry e').matchesFrame ⟨0x33, 0x60, 0x44, []⟩ = false)
    ∧ ((site.passEntry 6).matchesFrame ⟨0xA0, 0xA0, 0x30, [1]⟩ = true ∧ (site.passEntry 6).action = .strip
        ∧ ∀ e' : Fin 16, e' < 6 → (site.passEntry e').matchesFrame ⟨0xA0, 0xA0, 0x30, [1]⟩ = false)
    ∧ ((site.passEntry 3).matchesFrame ⟨0x33, 0x41, 0x10, [1]⟩ = true ∧ (site.passEntry 3).action = .thin 4
        ∧ (∀ e' : Fin 16, e' < 3 → (site.passEntry e').matchesFrame ⟨0x33, 0x41, 0x10, [1]⟩ = false)
        ∧ site.ring.thin[(3 : Fin 16).val] + 1 ≠ 4 ∧ (site.setThin 3 3).ring.thin[(3 : Fin 16).val] + 1 = 4) := by
  refine ⟨⟨lastByte_completes _ _ (by decide), by decide +kernel⟩, ?_, ?_, by decide +kernel, by decide +kernel,
    by decide +kernel, by decide +kernel⟩
  · rintro f (rfl | rfl | rfl | rfl) <;>
      exact ⟨lastByte_completes _ _ (by decide), by decide +kernel, by decide +kernel, by decide +kernel, by decide +kernel,
        witness_noOrder _ _ (by decide) (by decide) (by decide), by decide +kernel⟩
  · refine ⟨lastByte_completes _ _ (by decide), by decide +kernel, by decide, by decide +kernel, by decide +kernel, ?_⟩
    rintro (⟨h, -⟩ | ⟨h, -⟩ | ⟨-, i, h, d⟩)
    · exact absurd h (by decide)
    · exact absurd h (by decide)
    · have free : ∀ i : Str, ((equalising 3 0 .run).control i).state = .called
          ∨ ((equalising 3 0 .run).control i).state = .equalising ∨ ((equalising 3 0 .run).control i).state = .returning →
          ¬ (homing.dst = ((equalising 3 0 .run).cfg i).contactorAddr ∨ homing.dst = 0xFF) := by decide +kernel
      exact free i h d

/-- R161: a CONTACTOR order of another source to a string on the bus goes on to the Pass Table and counts nothing. -/
theorem test_order_unpoliced :
    let t := receive homing (equalising 3 0 .run)
    (t.ring.forward, t.ring.counts.policed) = ([homing], 0) := by decide +kernel

theorem witness_PolicedOrdersAreKeptBack :
    (let f : Frame := ⟨0x08, 0x02, 0x20, [0, 0, 0, 0, 0]⟩
      let s := allButLast f (equalising 3 0 .run);
      s.lastByteOf f (lastByte f) ∧ s.mgmt.mode = .engaged ∧ s.ring.sight = .seeing ∧ f.dst ≠ s.ring.ownAddress
        ∧ f.src ≠ s.ring.ownAddress ∧ s.rectAddr .A ≠ 0xFF ∧ f.dst = s.rectAddr .A ∧ (s.slot .A).string.isSome = true)
    ∧ (let f : Frame := ⟨0x09, 0x02, 0x20, [1, 0, 0, 0, 0]⟩
      let s := allButLast f (site.modSite fun t => { t with gasLatch := true });
      s.lastByteOf f (lastByte f) ∧ f.dst = s.rectAddr .B ∧ f.payload.head? = some 1 ∧ s.site.gasLatch = true)
    ∧ (let f : Frame := ⟨0x70, 0x02, 0x22, [3, 0, 0, 0, 0, 0]⟩
      let s := allButLast f dosing;
      s.lastByteOf f (lastByte f) ∧ s.water.state ≠ .idle ∧ s.water.string = some 0 ∧ (s.cfg 0).manifoldAddr ≠ 0xFF
        ∧ f.dst = (s.cfg 0).manifoldAddr)
    ∧ (let f : Frame := ⟨0xFF, 0x02, 0x21, [1]⟩
      let s := allButLast f (returning .confirm);
      s.lastByteOf f (lastByte f) ∧ f.dst = 0xFF ∧ (s.control 0).state = .returning)
    ∧ (let f : Frame := ⟨0x60, 0x02, 0x21, [1]⟩
      let s := allButLast f (returning .confirm);
      s.lastByteOf f (lastByte f) ∧ s.mgmt.mode = .engaged ∧ s.ring.sight = .seeing ∧ f.dst ≠ s.ring.ownAddress
        ∧ f.src ≠ s.ring.ownAddress ∧ f.kind = 0x21 ∧ f.payload.head? = some 1 ∧ f.dst ≠ 0xFF
        ∧ f.dst = (s.cfg 0).contactorAddr ∧ (s.control 0).state = .returning
        ∧ ∀ j : Str, j ≠ 0 → f.dst ≠ (s.cfg j).contactorAddr)
    ∧ (let f : Frame := ⟨0x60, 0x02, 0x21, [1]⟩
      let s := allButLast f (equalising 3 0 .run);
      s.lastByteOf f (lastByte f) ∧ s.mgmt.mode = .engaged ∧ s.ring.sight = .seeing ∧ f.dst = (s.cfg 0).contactorAddr
        ∧ (s.control 0).state = .equalising ∧ (∀ j : Str, j ≠ 0 → f.dst ≠ (s.cfg j).contactorAddr)
        ∧ s.lim.holdoffMin ≠ 0) := by
  refine ⟨⟨lastByte_completes _ _ (by decide), by decide +kernel⟩, ⟨lastByte_completes _ _ (by decide), by decide +kernel⟩,
    ⟨lastByte_completes _ _ (by decide), by decide +kernel⟩, ⟨lastByte_completes _ _ (by decide), by decide +kernel⟩,
    ⟨lastByte_completes _ _ (by decide), by decide +kernel⟩, ⟨lastByte_completes _ _ (by decide), by decide +kernel⟩⟩

/-- `site` with eight frames waiting in the reply queue. -/
def repliesFull : State :=
  site.modRing fun r => { r with replies := List.replicate 8 passing }

theorem witness_takesFrom : site.takesFrom 1 := ⟨by decide +kernel, by decide +kernel⟩

/-- A REQUEST frame from 0x01. -/
def requestTo (dst : Byte) (payload : List Byte) : Frame := ⟨dst, 0x01, 0x30, payload⟩

theorem witness_RequestsAreTakenInOrder_frames :
    (let c : Instr := .setTime 0 0x01 9 3;
      requestOf c = some (0x01, .request (.setTime 9 3)) ∧ dtOf c = 0 ∧ c.wellFormed = true ∧ site.ring.sight = .seeing
        ∧ (∀ dst, let f := requestTo dst (requestPayload c ++ [7]);
            (allButLast f site).lastByteOf f (lastByte f) ∧ f.payload = requestPayload c ++ [7] ∧ closedPayload c = true)
        ∧ (let f := requestTo 0xF0 ((requestPayload c).take 4);
            (allButLast f site).lastByteOf f (lastByte f) ∧ f.dst = site.ring.ownAddress ∧ 4 < leastPayload c)
        ∧ (allButLast (requestTo 0xF0 []) site).takesFrom 0x01)
    ∧ (let f : Frame := ⟨0xF0, 0x01, 0x20, [1]⟩;
      (allButLast f site).lastByteOf f (lastByte f) ∧ f.dst = site.ring.ownAddress ∧ f.kind ≠ 0x30)
    ∧ site.ring.ownAddress ≠ 0xFF :=
  ⟨⟨rfl, rfl, rfl, rfl, fun _ => ⟨lastByte_completes _ _ (Nat.le_of_ble_eq_true rfl), rfl, rfl⟩,
      ⟨lastByte_completes _ _ (by decide), rfl, by decide⟩, ⟨by decide +kernel, by decide +kernel⟩⟩,
    ⟨lastByte_completes _ _ (by decide), rfl, by decide⟩, by decide +kernel⟩

theorem witness_RequestsAreTakenInOrder :
    requestOf (.hold 0 1) = some (1, .request .hold) ∧ 8 ≤ repliesFull.ring.replies.length ∧ site.ring.replies.length < 8
      ∧ site.mgmt.loaded.limits = true ∧ (2 : Byte) ≠ site.lim.controllerAddr := by decide +kernel

/-- A frame for each of 18 destinations, with its number. -/
def eighteen : List Order :=
  (List.range 18).map fun k => ⟨⟨BitVec.ofNat 8 (0xC0 + k), 0xF0, 0x20, [0, 0, 0, 0, 0]⟩, k⟩

theorem witness_OrdersWaitOncePerDestination :
    (let s := site.handOrder passing;
      s.ring.orders = [] ++ ⟨passing, 0⟩ :: [] ∧ passing.dst = passing.dst)
    ∧ (∀ o ∈ site.ring.orders, o.frame.dst ≠ passing.dst) ∧ site.ring.orders.length < 18
    ∧ (let s := site.modRing fun r => { r with orders := eighteen };
      (∀ o ∈ s.ring.orders, o.frame.dst ≠ passing.dst) ∧ 18 ≤ s.ring.orders.length
        ∧ s.bindingsName 0xD1 = false ∧ s.ring.orders = eighteen.dropLast ++ ⟨⟨0xD1, 0xF0, 0x20, [0, 0, 0, 0, 0]⟩, 17⟩ :: [])
    ∧ (let s := site.modRing fun r => { r with orders := (List.range 18).map fun k => ⟨⟨0x08, 0xF0, 0x20, []⟩, k⟩ };
      (∀ o ∈ s.ring.orders, o.frame.dst ≠ passing.dst) ∧ ∀ o ∈ s.ring.orders, s.bindingsName o.frame.dst = true) := by
  decide +kernel

theorem witness_ArbiterChoosesByTable :
    let r : Machine.Ring := { forward := [passing], replies := [passing], orders := [⟨passing, 0⟩] }
    site.ring.sending ≠ none ∧ r.sending = none
      ∧ (8 ≤ { r with replyWait := 8 }.replyWait) ∧ ({ r with forward := [], orders := [] }.forward = [])
      ∧ (r.replyWait < 8 ∧ 2 ≤ { r with fwdSkip := 2 }.fwdSkip ∧ { r with orders := [] }.orders = [])
      ∧ r.fwdSkip < 2 := by decide +kernel

/-- Frames join at every boundary: at boundary `k` the places are as the arbiter left them. -/
def boundaries (r : Machine.Ring) : Nat → Machine.Ring
  | 0 => r
  | k + 1 => (boundaries r k).nextBoundary [passing] [passing] [⟨passing, k⟩] k

theorem witness_WaitsAtTheOutputAreBounded :
    let r : Machine.Ring := { forward := [passing], replies := [passing] }
    (boundaries r 0).replies.head? = some passing ∧ (boundaries r 0).forward.head? = some passing
      ∧ ∀ k, ∃ fs rs os now, boundaries r (k + 1) = (boundaries r k).nextBoundary fs rs os now :=
  ⟨rfl, rfl, fun k => ⟨[passing], [passing], [⟨passing, k⟩], k, rfl⟩⟩

theorem witness_OutputFrameEndReportsTheOrder :
    site.ring.sending = some ⟨⟨0x33, 0x34, 0x40, []⟩, none, 999⟩
      ∧ (dosing.modRing fun r => { r with sending := some ⟨passing, some 3, 999⟩ }).ring.sending
        = some ⟨passing, some 3, 999⟩ := ⟨rfl, rfl⟩

/-! ## Witnesses: site lines and timers -/

/-- `s` 20 ms after the raw line `l` took `high`. -/
def changing (l : Line) (high : Bool) (s : State) : State :=
  s.modSite fun t => t.withFilter l ⟨high, !high, some 1020⟩

theorem witness_settles (l : Line) (high : Bool) (s : State) (h : s.now = 1000) : (changing l high s).lineSettles l high 20 := by
  cases l <;> exact ⟨rfl, rfl, 1020, rfl, by show 1020 ≤ s.now + 20; omega⟩

theorem witness_RawLinesAreFiltered :
    true = (site.site.filter .src).raw ∧ (false ≠ (site.site.filter .src).raw ∧ false ≠ (site.site.filter .src).level)
      ∧ (let s := after (.rawLineChange 0 .trig true) site;
        false ≠ (s.site.filter .trig).raw ∧ false = (s.site.filter .trig).level) := by decide +kernel

theorem witness_GasRiseStopsTheSite :
    (changing .gas false site).lineSettles .gas false 20
      ∧ (changing .gas true (site.modSite fun t => { t with gasLatch := true })).lineSettles .gas true 20
      ∧ ((changing .gas true (returning .matching)).lineSettles .gas true 20
        ∧ (changing .gas true (returning .matching)).site.gasLatch = false
        ∧ ((returning .matching).control 0).state = .returning ∧ ((returning .matching).control 0).variant = some .normal
        ∧ ((returning .matching).control 0).slot ≠ none ∧ ((returning .matching).control 1).state = .onBus)
      ∧ ((equalising 3 0 .run).control 0).state = .equalising
      ∧ ((changing .gas true dosing).lineSettles .gas true 20 ∧ (changing .gas true dosing).site.gasLatch = false
        ∧ dosing.water.string = some 0 ∧ dosing.water.state ≠ .idle) :=
  ⟨witness_settles _ _ _ rfl, witness_settles _ _ _ rfl,
    ⟨witness_settles _ _ _ (by decide +kernel), by decide +kernel⟩, by decide +kernel,
    ⟨witness_settles _ _ _ (by decide +kernel), by decide +kernel⟩⟩

theorem witness_ReservoirLowEndsAndClamps :
    (changing .reslow false site).lineSettles .reslow false 20
      ∧ ((changing .reslow true site).lineSettles .reslow true 20 ∧ (changing .reslow true site).water.state = .idle)
      ∧ ((changing .reslow true dosing).lineSettles .reslow true 20 ∧ (changing .reslow true dosing).water.state ≠ .idle
        ∧ (changing .reslow true dosing).water.string = some 0 ∧ (dosing.control 0).slot = none
        ∧ dosing.mgmt.mode = .engaged ∧ dosing.ring.replies.length < 8)
      ∧ ((changing .reslow true dosing).lineSettles .reslow true 19800
        ∧ dosing.groupItem? 0 = some ⟨0, 86, 34400, some 800⟩ ∧ dosing.openPositions = [0, 2]
        ∧ dosing.altersClosing 0 = [⟨0, false⟩, ⟨2, false⟩] ∧ dosing.earlyMl 20800 0 = 50 ∧ dosing.earlyMl 20800 2 = 10)
      ∧ (let s := dosing.modWater fun w => { w with state := .gap, openSet := [], gapEnd := some 9000 };
        (changing .reslow true s).lineSettles .reslow true 20 ∧ s.water.state ≠ .idle ∧ s.water.string = some 0
          ∧ s.earlyTotal 1020 = 0)
      ∧ (let s := { equalising 3 4 .waterWait with water := dosing.water };
        (changing .reslow true s).lineSettles .reslow true 20 ∧ (s.control 0).slot = some .A
          ∧ (s.slot .A).entryState = some .waterWait) :=
  ⟨witness_settles _ _ _ rfl, ⟨witness_settles _ _ _ rfl, by decide +kernel⟩,
    ⟨witness_settles _ _ _ (by decide +kernel), by decide +kernel⟩, ⟨⟨rfl, rfl, 1020, rfl, by decide +kernel⟩, by decide +kernel⟩,
    ⟨witness_settles _ _ _ (by decide +kernel), by decide +kernel⟩,
    ⟨witness_settles _ _ _ (by decide +kernel), by decide +kernel⟩⟩

/-- S0 EQUALISING at phase 1, suspended for want of source. -/
def unsourced : State :=
  (equalising 3 0 .suspended).modSlot .A fun r =>
    { r with resumeState := some .run, reasons := { source := true }, sourceWaitStart := some 900, limit := 140
             pendingOrder := some (.on 5786 140), lastOrder := some .off }

theorem witness_SourceLineAndItsTimers :
    ((changing .src true site).lineSettles .src true 20 ∧ ∀ sl, ((changing .src true site).slot sl).entryState = none)
    ∧ (let s := changing .src false (equalising 3 0 .run);
      s.lineSettles .src false 20 ∧ s.otherIdle .A ∧ (s.slot .A).entryState = some (ResumeState.entry .run)
        ∧ (s.stretch .A).source = true ∧ (s.slot .A).suspendedTotal < s.lim.suspendMaxMin * 60000
        ∧ (s.slot .A).reasons.source = false ∧ s.site.genState = .idle ∧ s.lim.genreqDelay ≠ 0
        ∧ { s with images := { s.images with limits := putBytes limitsImage 47 [0] } }.lim.genreqDelay = 0
        ∧ (s.modSite fun t => { t with genState := .pulse }).site.genState ≠ .idle)
    ∧ (let s := changing .src true unsourced;
      s.lineSettles .src true 20 ∧ s.otherIdle .A ∧ (s.slot .A).entryState = some .suspended
        ∧ (s.slot .A).resumeState = some .run ∧ s.stale .A = false ∧ s.ring.sight ≠ .warn
        ∧ ∃ tc, (s.slot .A).tc = some tc ∧ tc + 20 ≤ s.lim.hotLimit)
    ∧ (∀ g, g = .delay ∨ g = .pulse →
      let s := site.modSite fun t => { t with genState := g, genEnd := some 1000, runOnEnd := some 1000 };
      s.site.genEnd = some 1000 ∧ 1000 ≤ s.now + 0 ∧ s.site.genState = g ∧ s.site.runOnEnd = some 1000) := by
  refine ⟨⟨witness_settles _ _ _ rfl, fun sl => by cases sl <;> rfl⟩,
    ⟨witness_settles _ _ _ (by decide +kernel), fun sl h => ?_, by decide +kernel⟩,
    ⟨witness_settles _ _ _ (by decide +kernel), fun sl h => ?_, by decide +kernel, by decide +kernel, by decide +kernel,
      by decide +kernel, 380, by decide +kernel, by decide +kernel⟩, ?_⟩
  · cases sl
    · exact absurd rfl h
    · decide +kernel
  · cases sl
    · exact absurd rfl h
    · decide +kernel
  · rintro g (rfl | rfl) <;> decide +kernel

/-- `s` under a trigger mode. -/
def underTrigger (mode : Byte) (s : State) : State :=
  { s with images := { s.images with limits := putBytes limitsImage 5 [mode] } }

/-- S0's round is a triggered one. -/
def triggeredRound : State :=
  (equalising 3 0 .run).modSlot .A fun r => { r with triggerStarted := true }

theorem witness_TriggerEdgesStartAndStopRounds :
    (∀ high, (changing .trig high site).lineSettles .trig high 20) ∧ site.lim.triggerMode = .off
    ∧ ((underTrigger 1 site).lim.triggerMode = .edge ∧ ∀ i, (underTrigger 1 site).triggered i = false)
    ∧ ((changing .trig true (underTrigger 1 triggeredRound)).lineSettles .trig true 20
      ∧ (underTrigger 1 triggeredRound).lim.triggerMode = .edge ∧ (underTrigger 1 triggeredRound).triggered 0 = true
      ∧ (underTrigger 1 triggeredRound).triggered 1 = false ∧ (underTrigger 1 triggeredRound).lim.holdoffMin ≠ 0)
    ∧ ((changing .trig false (underTrigger 2 triggeredRound)).lineSettles .trig false 20
      ∧ (underTrigger 2 triggeredRound).lim.triggerMode = .level ∧ (underTrigger 2 triggeredRound).triggered 0 = true) := by
  refine ⟨fun high => witness_settles _ _ _ rfl, by decide +kernel, by decide +kernel,
    ⟨witness_settles _ _ _ (by decide +kernel), by decide +kernel⟩,
    ⟨witness_settles _ _ _ (by decide +kernel), by decide +kernel⟩⟩

/-- The fan measured, a window of `n` edges at its end, `low` and `ok` windows before it. -/
def measured (n low ok : Nat) (fail : Bool) (s : State) : State :=
  s.modSite fun t =>
    { t with measuring := true, window := some ⟨0, n⟩, lowWindows := low, okWindows := ok, fanFail := fail, duty := 12 }

/-- S0 and S1 EQUALISING in phase 1, in slots A and B. -/
def bothRun : State :=
  ((equalising 3 0 .run).modControl 1 fun c => { c with state := .equalising, slot := some .B }).modSlot .B fun r =>
    { r with string := some 1, recipe := 3, entryState := some .run, tc := some 250 }

/-- In `bothRun` strings and slots agree. -/
theorem witness_bothRun : bothRun.BoundOk where
  agree sl i := by revert i; cases sl <;> decide +kernel
  away := by decide +kernel
  home := by decide +kernel
  runs sl := by
    cases sl
    · exact fun _ => ⟨0, by decide +kernel, by decide +kernel⟩
    · exact fun _ => ⟨1, by decide +kernel, by decide +kernel⟩
  calls sl := by cases sl <;> decide +kernel
  waits := by decide +kernel

/-- The bindings do not depend on the Site Line Unit. -/
theorem witness_bothRun_site (f : Site → Site) : (bothRun.modSite f).BoundOk :=
  ⟨witness_bothRun.agree, witness_bothRun.away, witness_bothRun.home, witness_bothRun.runs, witness_bothRun.calls,
    witness_bothRun.waits⟩

theorem witness_TachometerJudgesTheFan :
    (let s := site.modSite fun t => { t with lastEdge := some 999 };
      s.lim.tachDebounce = true ∧ s.site.lastEdge = some 999 ∧ s.now + 0 < 999 + 2)
    ∧ (let s := site.modSite fun t => { t with lastEdge := some 998 };
      s.site.lastEdge = some 998 ∧ 998 + 2 ≤ s.now + 0)
    ∧ (let s := measured 19 1 0 false site;
      s.site.measuring = true ∧ s.site.window = some ⟨0, 19⟩ ∧ 0 + 1000 ≤ s.now + 0 ∧ 1 ≤ s.lim.fanFailS
        ∧ 19 < s.lim.fanMinRate ∧ min 120 (s.site.lowWindows + 1) < s.lim.fanFailS)
    ∧ (let s := measured 19 2 0 false (equalising 3 0 .run);
      s.lim.fanFailS ≤ min 120 (s.site.lowWindows + 1) ∧ s.site.fanFail = false ∧ (s.slot .A).string = some 0
        ∧ (s.control 0).slot = some .A ∧ (s.slot .B).entryState = none ∧ (s.control 0).state = .equalising
        ∧ (s.slot .A).entryState = some .run ∧ (s.stretch .A).gassing = true ∧ s.mgmt.mode = .engaged
        ∧ s.ring.replies.length < 8)
    ∧ (let s := measured 20 0 1 true site;
      s.lim.fanMinRate ≤ 20 ∧ min 120 (s.site.okWindows + 1) < s.lim.fanFailS)
    ∧ (let s := measured 20 0 2 true site;
      s.lim.fanMinRate ≤ 20 ∧ s.lim.fanFailS ≤ min 120 (s.site.okWindows + 1) ∧ s.site.fanFail = true)
    ∧ (let s := measured 19 2 0 false bothRun;
      s.BoundOk ∧ (s.slot .B).string = some 1 ∧ (s.control 1).slot = some .B ∧ (s.control 1).state = .equalising
        ∧ (s.slot .B).entryState = some .run ∧ (s.stretch .B).gassing = true ∧ s.site.fanFail = false) := by
  refine ⟨by decide +kernel, by decide +kernel, by decide +kernel, by decide +kernel, by decide +kernel, by decide +kernel,
    witness_bothRun_site _, by decide +kernel⟩

/-- In `site` strings and slots agree, whatever the Site Line Unit holds. -/
theorem witness_site_bindings (f : Site → Site) : (site.modSite f).BoundOk where
  agree sl i := by
    have h : (site.slot sl).string = some i ↔ (site.control i).slot = some sl := by revert i; cases sl <;> decide +kernel
    exact h
  away := by
    have h : ∀ i, (site.control i).state = .called ∨ (site.control i).state = .equalising ∨ (site.control i).state = .returning →
        (site.control i).slot ≠ none := by decide +kernel
    exact h
  home := by
    have h : ∀ i, (site.control i).state = .onBus ∨ (site.control i).state = .out ∨ (site.control i).state = .absent →
        (site.control i).slot = none := by decide +kernel
    exact h
  runs sl h := by cases sl <;> exact absurd rfl h
  calls sl h := by cases sl <;> cases h
  waits e h := by cases h

/-- The outputs after a settled event, and an event that starts no scan. -/
theorem witness_SiteOutputsFollowTheState :
    (let t := (equalising 3 0 .run).settle;
      t.site.src.level = true ∧ t.site.spending = true ∧ t.site.gassingRun = true)
    ∧ (site.marks.scan = false ∧ site.marks.commit = false ∧ site.settle.site.measuring = false)
    ∧ (let s := site.modSite fun t => { t with gassingRun := true };
      s.site.RunOnOk ∧ s.BoundOk ∧ s.site.gassingRun = true ∧ s.lim.runOnMin ≠ 0 ∧ s.quietEnd.site.gassingRun = false
        ∧ s.settle.site.gassingRun = false
        ∧ s.quietEnd.site.runOnEnd = some 601000
        ∧ ∀ sl, (s.slot sl).entryState ≠ some .run ∧ (s.slot sl).entryState ≠ some .direct) := by
  refine ⟨by decide +kernel, by decide +kernel, fun _ => rfl, witness_site_bindings _, by decide +kernel, by decide +kernel,
    by decide +kernel, by decide +kernel, by decide +kernel, ?_⟩
  intro sl
  cases sl <;> decide +kernel

/-! ## Witnesses: requests on tables and the window -/

theorem witness_StatusAndTableReadAnswer :
    site.takesFrom 1 ∧ ((5 : Byte).toNat = TableId.pass.code ∧ 1 ≤ (44 : Byte).toNat ∧ (44 : Byte).toNat ≤ 44
        ∧ (52 : Byte).toNat + (44 : Byte).toNat ≤ TableId.pass.size)
      ∧ (∀ t : TableId, (6 : Byte).toNat ≠ t.code) ∧ (0 : Byte).toNat = 0 ∧ 44 < (45 : Byte).toNat
      ∧ TableId.pass.size < (53 : Byte).toNat + (44 : Byte).toNat :=
  ⟨witness_takesFrom, by decide, fun t => by cases t <;> decide, by decide, by decide, by decide⟩

/-- A RECIPE image of which the bytes `b` have been received. -/
def receiving (b : List Byte) : State :=
  site.modMgmt fun m => { m with staging := .receiving, stagedTable := some .recipe, stagedTotal := some 192, staged := b }

theorem witness_LoadBeginAndDiscard :
    site.takesFrom 1 ∧ (4 : Byte).toNat = TableId.recipe.code ∧ site.mgmt.staging = .empty
      ∧ (192 : Word16).toNat = TableId.recipe.size ∧ (191 : Word16).toNat ≠ TableId.recipe.size
      ∧ ((receiving []).takesFrom 1 ∧ (receiving []).mgmt.staging ≠ .empty) ∧ ∀ t : TableId, (0 : Byte).toNat ≠ t.code :=
  ⟨witness_takesFrom, by decide, by decide, by decide, by decide, ⟨⟨by decide +kernel, by decide +kernel⟩, by decide⟩,
    fun t => by cases t <;> decide⟩

theorem witness_LoadPartTakesTheNextByte :
    let s := receiving (List.replicate 190 0)
    s.takesFrom 1 ∧ s.mgmt.staging = .receiving ∧ s.mgmt.stagedTotal = some 192
      ∧ (1 ≤ ([1, 2] : List Byte).length ∧ ([1, 2] : List Byte).length ≤ 44
        ∧ (190 : Word16).toNat = s.mgmt.staged.length ∧ (190 : Word16).toNat + ([1, 2] : List Byte).length ≤ 192)
      ∧ (189 : Word16).toNat ≠ s.mgmt.staged.length ∧ 192 < (190 : Word16).toNat + ([1, 2, 3] : List Byte).length
      ∧ ([] : List Byte).length = 0 ∧ 44 < (List.replicate 45 (0 : Byte)).length ∧ site.mgmt.staging ≠ .receiving :=
  ⟨⟨by decide +kernel, by decide +kernel⟩, by decide +kernel⟩

/-- A fault of an image of every table, and images of the right length with a present entry and a used record. -/
theorem witness_ImagesAreCheckedAndClamped :
    site.imageFault .limits (limitsImage.set 4 8) 4 ∧ site.imageFault .string (stringImage.set 21 25) 21
      ∧ site.imageFault .phase (phaseImage.set 10 3) 6 ∧ faultField .phase 6 = 10
      ∧ site.imageFault .recipe (recipeImage.set 0 7) 0 ∧ site.imageFault .pass (passImage.set 18 2) 18
      ∧ (limitsImage.length = 96 ∧ stringImage.length = 160 ∧ phaseImage.length = 192)
      ∧ ((StringCfg.ofImage stringImage 0).present = true ∧ (StringCfg.ofImage stringImage 2).present = false)
      ∧ field phaseImage (12 * 0) 12 ≠ 0 ∧ field phaseImage (12 * 15) 12 = 0 := by
  refine ⟨?_, ⟨1, 1, rfl, ?_⟩, ⟨0, 6, by decide, rfl, ?_⟩, rfl, ⟨0, 0, by decide, by decide, rfl, ?_⟩,
    ⟨3, 0, by decide, rfl, ?_⟩, by decide +kernel, by decide +kernel, by decide +kernel, by decide +kernel⟩
  · exact .inr (.inr (.inr (.inr (.inl (by decide +kernel)))))
  · exact .inr ⟨by decide +kernel, .inl (by decide +kernel)⟩
  · exact ⟨by decide +kernel, .inr (.inr (.inr (.inr (.inr (.inr (by decide +kernel))))))⟩
  · exact ⟨fun j h => absurd h (Nat.not_lt_zero j), .inl (by decide +kernel)⟩
  · exact .inl (by decide +kernel)

/-- R46, R179: a phase of 0 minutes is clamped to 1, and a cell_cut_mv at the ceiling is raised 50 mV above it. -/
theorem test_clamps :
    (PhaseRec.ofEntry (clampImage .phase ((phaseImage.set 7 0).set 8 0)) 0).durationMin = 1
      ∧ (Limits.ofImage (clampImage .limits (limitsImage.set 16 0x28))).cellCutMv = 2650 := by decide +kernel

theorem witness_LoadCommitChecksClampsApplies :
    (site.takesFrom 1 ∧ site.mgmt.staging ≠ .receiving)
    ∧ (∀ b, (receiving b).takesFrom 1 ∧ (receiving b).mgmt.staging = .receiving ∧ (receiving b).mgmt.stagedTable = some .recipe
        ∧ (receiving b).mgmt.stagedTotal = some 192 ∧ (receiving b).water.state = .idle)
    ∧ (receiving (List.replicate 191 0)).mgmt.staged.length ≠ 192
    ∧ (let b := (7 : Byte) :: List.replicate 191 0;
      (receiving b).mgmt.staged.length = 192 ∧ (receiving b).checkImage .recipe (receiving b).mgmt.staged = some 0)
    ∧ (let b := List.replicate 192 (0 : Byte);
      (receiving b).mgmt.staged.length = 192 ∧ (receiving b).checkImage .recipe (receiving b).mgmt.staged = none
        ∧ (∀ i, ((receiving b).control i).slot = none)
        ∧ (((receiving b).modControl 0 fun c => { c with slot := some .A }).control 0).slot ≠ none) := by
  refine ⟨⟨witness_takesFrom, by decide⟩, fun b => ⟨witness_takesFrom, rfl, rfl, rfl, rfl⟩, by decide +kernel,
    by decide +kernel, by decide +kernel⟩

/-- `s` with the image `b` of `t` left pending. -/
def staging (t : TableId) (b : List Byte) (s : State) : State :=
  s.modMgmt fun m => { m with staging := .pending, stagedTable := some t, stagedTotal := some t.size, staged := b }

/-- S0 without its manifold, and S1 gone. -/
def fewerImage : List Byte :=
  (stringImage.take 20).set 5 0xFF ++ List.replicate 140 0

theorem witness_PendingCommitIsApplied :
    (pendingRecipe.mgmt.staging = .pending ∧ pendingRecipe.mgmt.stagedTable = some .recipe ∧ pendingRecipe.water.state = .idle
      ∧ ∀ i, (pendingRecipe.control i).slot = none)
    ∧ { pendingRecipe with water := dosing.water }.water.state ≠ .idle
    ∧ (∀ t, (pendingRecipe.modMgmt fun m => { m with stagedTable := some t }).mgmt.stagedTable = some t)
    ∧ ((site.cfg 0).present = true ∧ (State.reset.cfg 0).present = false)
    ∧ (let s := staging .limits (putBytes limitsImage 25 [0, 120]) (site.modCell 0 fun c =>
        { c with voltage := some 2231, lastV := some 900, vExpiry := some 60900 });
      s.mgmt.staging = .pending ∧ s.mgmt.stagedTable = some .limits ∧ s.lim.staleS * 1000 ≠ 120000
        ∧ (Limits.ofImage s.mgmt.staged).staleS = 120)
    ∧ (let s := staging .string fewerImage { site with queue := [⟨0, .water, 0, .level, .normal, .auto, ⟨0, 0⟩⟩] };
      s.mgmt.staging = .pending ∧ s.mgmt.stagedTable = some .string ∧ (s.cfg 1).present = true
        ∧ (StringCfg.ofImage s.mgmt.staged 1).present = false ∧ (StringCfg.ofImage s.mgmt.staged 0).present = true
        ∧ (StringCfg.ofImage s.mgmt.staged 0).manifoldAddr = 0xFF ∧ s.mgmt.mode = .engaged
        ∧ ∃ e ∈ s.queue, e.string = 0 ∧ e.kind = .water)
    ∧ (pendingRecipe.mgmt.mode = .engaged
      ∧ (pendingRecipe.modMgmt fun m => { m with mode := .transparent }).mgmt.mode = .transparent) := by
  refine ⟨by decide +kernel, by decide +kernel, fun t => rfl, by decide +kernel, by decide +kernel, by decide +kernel,
    by decide +kernel⟩

/-- R13, R20, R41, R50, R112: a stale_s of 120 s moves an expiry; a STRING image without the manifold takes the WATER entry away;
a RECIPE image of zeros empties the recipe of a queued entry, which is dropped with its notice. -/
theorem test_commits :
    ((after (.applyPendingCommit 0) (staging .limits (putBytes limitsImage 25 [0, 120]) (site.modCell 0 fun c =>
        { c with voltage := some 2231, lastV := some 900, vExpiry := some 60900 }))).cell 0).vExpiry = some 120900
    ∧ (let t := after (.applyPendingCommit 0)
        (staging .string fewerImage { site with queue := [⟨0, .water, 0, .level, .normal, .auto, ⟨0, 0⟩⟩] });
      (t.queue, (t.control 1).state, t.ring.replies.map fun f => f.payload) = ([], .absent, [[0x06, 1, 0, 1]]))
    ∧ (let t := after (.applyPendingCommit 0)
        { pendingRecipe with queue := [⟨0, .equalise, 3, .dueDays, .normal, .auto, ⟨0, 0⟩⟩] };
      (t.queue, t.ring.replies.map fun f => f.payload) = ([], [[0x06, 1, 0, 0]])) := by decide +kernel

/-- The cursor at an index of a space. -/
def at_ (sp : Space) (ix : Nat) : State :=
  site.modMgmt fun m => { m with cursor := ⟨sp, ix⟩ }

theorem witness_RecordWindowMoves :
    site.takesFrom 1 ∧ spaceOf 0 = some .cell ∧ (191 : Byte).toNat ≤ 191 ∧ site.mgmt.held = false ∧ 191 < (192 : Byte).toNat
      ∧ 3 < (4 : Byte).toNat
      ∧ ((site.modMgmt fun m => { m with held := true, mark := some {} }).mgmt.held = true
        ∧ (site.modMgmt fun m => { m with held := true, mark := some {} }).mgmt.mark = some {})
      ∧ 1 ≤ (1 : Byte).toNat ∧ 192 ≤ (at_ .cell 192).mgmt.cursor.index ∧ (at_ .cell 191).mgmt.cursor.index < 192
      ∧ (1 : Nat) = min (min (4 : Byte).toNat 4) (192 - (at_ .cell 191).mgmt.cursor.index)
      ∧ ({ site with queue := [⟨1, .equalise, 3, .dueDays, .normal, .auto, ⟨212, 540⟩⟩] }.queue[0]?).isSome = true
      ∧ ((equalising 3 0 .run).slot .A).priority = some .normal
      ∧ ((site.control 0).lastEqOutcome = none ∧ (site.control 0).lastWaterOutcome = none)
      ∧ (let o : OutcomeRecord := ⟨.water, 0, none, none, some .complete, none, 96, false, 2⟩;
        ((site.modControl 0 fun c => { c with lastEqOutcome := some o, lastWaterOutcome := some o }).control 0).lastEqOutcome
          = some o) :=
  ⟨witness_takesFrom, by decide +kernel⟩

theorem witness_WriteSetsTheRecordAtTheCursor :
    (∀ sp ix, (at_ sp ix).takesFrom 1)
    ∧ ((at_ .cell 23).mgmt.cursor = ⟨.cell, (23 : CellIx).val⟩ ∧ (site.cfg (cellStr 23)).present = true
      ∧ (cellPos 23).val < (site.cfg (cellStr 23)).cells)
    ∧ (site.cfg (cellStr 191)).present = false ∧ 4 ≤ ([0, 0, 0, 0] : List Byte).length
    ∧ ((at_ .string 0).mgmt.cursor = ⟨.string, (0 : Str).val⟩ ∧ (site.cfg 0).present = true
      ∧ (-2 : Int) = ((0xFF : Byte) ++ (0xFF : Byte) ++ (0xFF : Byte) ++ (0xFE : Byte)).toInt)
    ∧ (site.cfg 7).present = false ∧ 7 ≤ ([0, 0, 0, 0, 0, 0, 0] : List Byte).length
    ∧ ((at_ .slot 1).mgmt.cursor = ⟨.slot, 1⟩ ∧ 1 < 2) ∧ ((at_ .cell 192).mgmt.cursor = ⟨.cell, 192⟩ ∧ 192 ≤ 192)
    ∧ ((at_ .string 8).mgmt.cursor = ⟨.string, 8⟩ ∧ 8 ≤ 8) ∧ ((at_ .queue 0).mgmt.cursor = ⟨.queue, 0⟩
      ∧ (at_ .queue 0).queue.length ≤ 0) ∧ (at_ .slot 2).mgmt.cursor = ⟨.slot, 2⟩
    ∧ ([0, 0, 0] : List Byte).length < 4 ∧ ([0, 0, 0, 0, 0, 0] : List Byte).length < 7 := by
  exact ⟨fun sp ix => witness_takesFrom, by decide +kernel⟩

/-! ## Witnesses: site requests, rounds and strings -/

/-- What the site-minute of `s` leaves before its end. -/
def minuteOf (dt : Nat) (s : State) : State := (s.begin dt).minutePasses

/-- S0 with a charge record that `f` gives. -/
def charged (f : Charge → Charge) : State := site.modCharge 0 f

/-- S0 stands where its due reasons are evaluated. -/
theorem witness_judged (f : Charge → Charge) (dt : Nat)
    (h : ((minuteOf dt (charged f)).control 0).holdoffUntil = none) :
    (charged f).equaliseJudged (minuteOf dt (charged f)) 0 :=
  ⟨show (site.cfg 0).present = true by decide +kernel, rfl, h,
    show site.recipeIsEmpty (site.cfg 0).autoRecipe = false by decide +kernel, (fun _ h => nomatch h), rfl⟩

theorem witness_noSpread (s : State) (dt : Nat) (i : Str) (h : (s.charge i).spreadTimer = none) : ¬ s.spreadDue dt i := by
  rintro ⟨_, e, _⟩
  cases h.symm.trans e

/-- `site` with one cell of S0 as `f` gives it. -/
def wanting (f : Cell → Cell) : State := site.modCell 0 f

/-- S0 is owed water for the cell at position 1. -/
theorem witness_owed (f : Cell → Cell) (h : (wanting f).cellDue 0 0) : (wanting f).waterOwed 0 :=
  ⟨show (site.cfg 0).present = true by decide +kernel, show (site.cfg 0).autoWater = true by decide +kernel,
    show (site.cfg 0).manifoldAddr ≠ 0xFF by decide +kernel, show (site.control 0).state ≠ .out by decide, .inl rfl, 0, h⟩

theorem witness_SiteClockAdvances :
    (site.takesFrom 1 ∧ (1439 : Word16).toNat ≤ 1439 ∧ 1439 < (1440 : Word16).toNat)
    ∧ site.mgmt.minuteEnd ≤ site.now + 59000
    ∧ ((site.modControl 0 fun c => { c with holdoffUntil := some ⟨0, 1⟩ }).control 0).holdoffUntil = some ⟨0, 1⟩
    ∧ (let s := (equalising 3 0 .run).modSite fun t => { t with spendMark := true, allowance := 1 };
      s.mgmt.clock.minute ≠ 1439 ∧ s.site.spendMark = true ∧ s.site.allowance = 1 ∧ (s.slot .A).string = some 0
        ∧ (s.control 0).slot = some .A ∧ (s.slot .B).entryState = none ∧ (s.control 0).state = .equalising
        ∧ (s.slot .A).entryState = some .run ∧ (s.stretch .A).source = true)
    ∧ (let s := bothRun.modSite fun t => { t with spendMark := true, allowance := 1 };
      s.BoundOk ∧ (s.slot .B).string = some 1 ∧ (s.control 1).slot = some .B ∧ (s.control 1).state = .equalising
        ∧ (s.slot .B).entryState = some .run ∧ (s.stretch .B).source = true)
    ∧ (site.mgmt.loaded.limits = true ∧ site.mgmt.mode = .engaged ∧ ∀ sl, (site.slot sl).string ≠ some 0)
    ∧ (let s := charged fun c => { c with daysSinceEq := 30 };
      s.equaliseJudged (minuteOf 59000 s) 0 ∧ s.daysDue (minuteOf 59000 s) 0)
    ∧ (let s := charged fun c => { c with spreadTimer := some 1000 };
      s.equaliseJudged (minuteOf 3600000 s) 0 ∧ ¬ s.daysDue (minuteOf 3600000 s) 0 ∧ s.spreadDue 3600000 0)
    ∧ (let s := charged fun c => { c with dDis := 1080000 };
      s.equaliseJudged (minuteOf 59000 s) 0 ∧ ¬ s.daysDue (minuteOf 59000 s) 0 ∧ ¬ s.spreadDue 59000 0 ∧ s.throughputDue 0)
    ∧ (¬ (charged id).daysDue (minuteOf 59000 (charged id)) 0 ∧ ¬ (charged id).spreadDue 59000 0
      ∧ ¬ (charged id).throughputDue 0)
    ∧ (∀ lv, lv = Level.low ∨ lv = .dry → let s := wanting fun c => { c with level := lv }; s.waterOwed 0 ∧ s.cellDue 0 0)
    ∧ (let s := wanting fun c => { c with deficit := 60000 };
      s.waterOwed 0 ∧ ∀ p, s.cellDue 0 p → (s.cellAt 0 p).level ≠ .low ∧ (s.cellAt 0 p).level ≠ .dry)
    ∧ ¬ site.waterOwed 1
    ∧ (let s := (equalising 3 0 .run).modCell 0 fun c => { c with level := .low };
      s.BoundOk ∧ (s.slot .A).string = some 0 ∧ s.waterOwed 0 ∧ s.cellDue 0 0)
    ∧ (site.modMgmt fun m => { m with mode := .transparent }).mgmt.mode = .transparent := by
  refine ⟨⟨witness_takesFrom, by decide⟩, by decide +kernel, by decide +kernel, by decide +kernel,
    ⟨witness_bothRun_site _, by decide +kernel⟩, ⟨rfl, rfl, fun sl => by cases sl <;> decide⟩,
    ⟨witness_judged _ _ (by decide +kernel), by unfold State.daysDue; decide +kernel⟩,
    ⟨witness_judged _ _ (by decide +kernel), by unfold State.daysDue; decide +kernel, 1000, rfl, by decide +kernel⟩,
    ⟨witness_judged _ _ (by decide +kernel), by unfold State.daysDue; decide +kernel, witness_noSpread _ _ _ rfl,
      by unfold State.throughputDue; decide +kernel⟩,
    ⟨by unfold State.daysDue; decide +kernel, witness_noSpread _ _ _ rfl, by unfold State.throughputDue; decide +kernel⟩,
    ?_, ⟨witness_owed _ ⟨by decide +kernel, rfl, rfl, .inr (.inr (by decide +kernel))⟩, fun p h => ?_⟩,
    fun h => h.manifold (by decide +kernel), ?_, rfl⟩
  · rintro lv (rfl | rfl)
    · exact ⟨witness_owed _ ⟨by decide +kernel, rfl, rfl, .inl rfl⟩, ⟨by decide +kernel, rfl, rfl, .inl rfl⟩⟩
    · exact ⟨witness_owed _ ⟨by decide +kernel, rfl, rfl, .inr (.inl rfl)⟩, ⟨by decide +kernel, rfl, rfl, .inr (.inl rfl)⟩⟩
  · clear h
    revert p
    decide +kernel
  · have due : ((equalising 3 0 .run).modCell 0 fun c => { c with level := .low }).cellDue 0 0 :=
      ⟨by decide +kernel, rfl, rfl, .inl rfl⟩
    exact ⟨⟨witness_bindings.agree, witness_bindings.away, witness_bindings.home, witness_bindings.runs, witness_bindings.calls,
      witness_bindings.waits⟩, by decide +kernel, ⟨by decide +kernel, by decide +kernel, by decide +kernel, by decide +kernel,
        .inl rfl, 0, due⟩, due⟩

theorem witness_SiteRequestsAct :
    site.takesFrom 1 ∧ (1 : Byte).toNat = 1 ∧ site.mgmt.mode = .engaged ∧ (0 : Byte).toNat = 0 ∧ site.water.state = .idle
      ∧ (∀ i, (site.control i).slot = none) ∧ ((equalising 3 0 .run).control 0).slot ≠ none
      ∧ (let s := site.modMgmt fun m => { m with mode := .transparent };
        s.mgmt.mode = .transparent ∧ s.mgmt.loaded.limits = true ∧ s.mgmt.loaded.string = true
          ∧ (s.modMgmt fun m => { m with loaded := { m.loaded with string := false } }).mgmt.loaded.string = false)
      ∧ 1 < (2 : Byte).toNat
      ∧ (let s := site.modSite fun t => { t with gas := ⟨true, true, none⟩ }; s.takesFrom 1 ∧ s.site.gas.level = true)
      ∧ site.site.gas.level = false ∧ site.site.gasLatch = false
      ∧ (site.modSite fun t => { t with gasLatch := true }).site.gasLatch = true :=
  ⟨witness_takesFrom, by decide, by decide, by decide, by decide, by decide +kernel, by decide +kernel, by decide +kernel,
    by decide, ⟨witness_takesFrom, by decide⟩, by decide, by decide, by decide⟩

/-- The entry of a REQUEST for an EQUALISE of S0 by recipe 2. -/
def asked (p : Priority) : Entry := ⟨0, .equalise, 2, .request, p, .request, ⟨0, 0⟩⟩

/-- The entry that stands in the queue for S0 before the request. -/
def older (p : Priority) (o : Origin) : Entry := ⟨0, .equalise, 3, .dueDays, p, o, ⟨0, 0⟩⟩

theorem witness_EnqueueJoinsOrMerges :
    (site.takesFrom 1 ∧ (0 : Byte).toNat = (0 : Str).val ∧ (0 : Byte).toNat = RoundKind.equalise.code
      ∧ (1 : Byte).toNat = Priority.urgent.code ∧ (site.cfg 0).present = true ∧ (8 : Byte).toNat ≤ 8
      ∧ site.recipeIsEmpty (2 : Byte).toNat = false ∧ (site.cfg 0).manifoldAddr ≠ 0xFF
      ∧ (site.control 0).slot = none ∧ (site.control 0).state ≠ .out)
    ∧ ((equalising 3 0 .run).control 0).slot ≠ none
    ∧ (site.queue = [] ++ [] ∧ ∀ x ∈ site.queue, x.string = 0 → x.kind ≠ .equalise)
    ∧ (∀ p o, { site with queue := [older p o] }.queue = [] ++ older p o :: [] ∧ (older p o).string = 0
        ∧ (older p o).kind = .equalise ∧ (older p o).priority = p ∧ ([] : List Entry) ++ [] = [] ++ [])
    ∧ (7 < (8 : Byte).toNat ∧ 1 < (2 : Byte).toNat ∧ 8 < (9 : Byte).toNat ∧ (site.cfg 2).present = false
      ∧ site.recipeIsEmpty (4 : Byte).toNat = true ∧ (site.cfg 1).manifoldAddr = 0xFF) :=
  ⟨⟨witness_takesFrom, by decide +kernel⟩, by decide +kernel, by decide +kernel,
    fun p o => ⟨rfl, rfl, rfl, rfl, rfl⟩, by decide +kernel⟩

theorem witness_CancelRemovesTheEntry :
    (site.takesFrom 1 ∧ (0 : Byte).toNat = (0 : Str).val ∧ (1 : Byte).toNat = RoundKind.water.code
      ∧ ∀ x ∈ site.queue, x.string = 0 → x.kind ≠ .water)
    ∧ (queued.takesFrom 1 ∧ queued.queue = [⟨1, .equalise, 3, .dueDays, .normal, .auto, ⟨212, 540⟩⟩]
        ++ ⟨0, .equalise, 3, .dueSpread, .normal, .auto, ⟨212, 590⟩⟩ :: [])
    ∧ (let e : Entry := ⟨0, .water, 0, .waterPoint, .urgent, .recipe, ⟨0, 0⟩⟩
      let s := { equalising 3 4 .waterWait with queue := [e] };
      s.takesFrom 1 ∧ s.queue = [] ++ e :: [] ∧ e.string = 0 ∧ e.kind = .water ∧ (s.control 0).slot = some .A
        ∧ (s.slot .A).entryState = some .waterWait ∧ (s.slot .A).string = some 0
        ∧ recipeEntry s.images.recipe 3 5 ≠ .water)
    ∧ (let r := putBytes recipeImage 58 [3, 0];
      let s := { equalising 3 4 .waterWait with images := { site.images with recipe := r } };
      (s.slot .A).recipe ≠ 0 ∧ (s.cfg 0).manifoldAddr ≠ 0xFF ∧ s.watering 0 = false ∧ recipeEntry r 3 (4 + 1) = .water)
    ∧ 7 < (8 : Byte).toNat ∧ 1 < (2 : Byte).toNat :=
  ⟨⟨witness_takesFrom, by decide +kernel⟩, ⟨witness_takesFrom, rfl⟩, ⟨witness_takesFrom, by decide +kernel⟩,
    by decide +kernel, by decide⟩

theorem witness_AbortEndsTheRounds :
    (site.takesFrom 1 ∧ (site.cfg 0).present = true ∧ (site.control 0).state ≠ .called ∧ (site.control 0).state ≠ .equalising
      ∧ site.water.state = .idle)
    ∧ (let s := equalising 3 0 .run;
      s.takesFrom 1 ∧ (s.control 0).state = .equalising ∧ s.water.state = .idle ∧ (s.control 0).slot ≠ none
        ∧ s.site.gasLatch = false ∧ s.ring.sight ≠ .blind
        ∧ (s.modSite fun t => { t with gasLatch := true }).site.gasLatch = true)
    ∧ (dosing.takesFrom 1 ∧ dosing.water.state ≠ .idle ∧ dosing.water.string = some 0)
    ∧ 7 < (8 : Byte).toNat ∧ (site.cfg 7).present = false :=
  ⟨⟨witness_takesFrom, by decide +kernel⟩, ⟨witness_takesFrom, by decide +kernel⟩, ⟨witness_takesFrom, by decide⟩,
    by decide +kernel⟩

theorem witness_DirectSetsTheOrder :
    (site.takesFrom 1 ∧ (0 : Byte).toNat = (0 : Str).val ∧ (site.cfg 0).present = true ∧ (site.control 0).state ≠ .equalising)
    ∧ (let s := equalising 0 0 .direct;
      s.takesFrom 1 ∧ s.holds .A 0 ∧ (s.control 0).state = .equalising ∧ (s.slot .A).recipe = 0
        ∧ (s.slot .A).entryState = some .direct ∧ 2000 ≤ s.lim.cellCeilingMv ∧ s.site.src.level = true ∧ s.site.allowance ≠ 0
        ∧ s.site.fanFail = false ∧ s.stale .A = false ∧ s.ring.sight ≠ .warn
        ∧ ∃ tc, (s.slot .A).tc = some tc ∧ tc + 20 ≤ s.lim.hotLimit)
    ∧ ((1 : Word16).toNat ≠ 0 ∧ ((equalising 0 0 .direct).modSite fun t => { t with allowance := 0 }).site.allowance = 0)
    ∧ (7 < (8 : Byte).toNat ∧ (2 : Byte).toNat = (2 : Str).val ∧ (site.cfg 2).present = false)
    ∧ (let s := (equalising 0 0 .suspended).modSlot .A fun r => { r with resumeState := some .direct, lastOrder := some .off };
      s.takesFrom 1 ∧ s.holds .A 0 ∧ (s.control 0).state = .equalising ∧ (s.slot .A).recipe = 0
        ∧ (s.slot .A).entryState = some .suspended ∧ (s.slot .A).resumeState = some .direct
        ∧ (s.slot .A).suspendedTotal < s.lim.suspendMaxMin * 60000 ∧ s.site.src.level = true ∧ s.stale .A = false
        ∧ s.ring.sight ≠ .warn ∧ (s.modSite fun t => { t with src := {} }).site.src.level = false)
    ∧ (let s := (equalising 0 0 .direct).modSite fun t => { t with fanFail := true };
      s.site.fanFail = true ∧ s.site.allowance ≠ 0 ∧ s.lim.gasMv ≤ 2350 ∧ 2349 < s.lim.gasMv
        ∧ clampNat (2350 : Word16).toNat 2000 s.lim.cellCeilingMv = 2350) :=
  ⟨⟨witness_takesFrom, by decide +kernel⟩,
    ⟨witness_takesFrom, ⟨by decide +kernel, by decide +kernel⟩, by decide +kernel, by decide +kernel, by decide +kernel,
      by decide +kernel, by decide +kernel, by decide +kernel, by decide +kernel, by decide +kernel, by decide +kernel, 380,
      by decide +kernel⟩, by decide +kernel, by decide +kernel,
    ⟨witness_takesFrom, ⟨by decide +kernel, by decide +kernel⟩, by decide +kernel⟩, by decide +kernel⟩

/-- S0 FAULTED with its contactor at `c`, with or without slot A. -/
def faulted (c : Contact) (sl : Option SlotId) : State :=
  ((site.modControl 0 fun r => { r with state := .faulted, slot := sl, endReason := some .contactor }).modReading 0
    fun r => { r with lastPosition := some c }).modSlot .A fun r => { r with string := sl.map fun _ => 0, recipe := 3 }

/-- S0 OUT with its contactor at BUS. -/
def outside : State :=
  (site.modControl 0 fun r => { r with state := .out }).modReading 0 fun r => { r with lastPosition := some .bus }

theorem witness_StringsLeaveAndRejoin :
    (site.takesFrom 1 ∧ (site.control 0).state = .onBus ∧ site.water.state = .idle ∧ (site.cfg 0).present = true)
    ∧ (after (.excludeStr 0 1 0) site).discharge = false
    ∧ ((faulted .openPos none).takesFrom 1 ∧ ((faulted .openPos none).control 0).state = .faulted
      ∧ ((faulted .openPos none).control 0).slot = none)
    ∧ ((equalising 3 0 .run).control 0).state ≠ .onBus
    ∧ (dosing.water.state ≠ .idle ∧ dosing.water.string = some 0)
    ∧ (outside.takesFrom 1 ∧ (outside.control 0).state = .out ∧ (outside.reading 0).lastPosition = some .bus)
    ∧ (site.reading 0).lastPosition ≠ some .bus
    ∧ (7 < (8 : Byte).toNat ∧ (7 : Byte).toNat = (7 : Str).val ∧ (site.cfg 7).present = false) :=
  ⟨⟨witness_takesFrom, by decide +kernel⟩, by decide +kernel, ⟨witness_takesFrom, by decide +kernel⟩, by decide +kernel, by decide,
    ⟨witness_takesFrom, by decide +kernel⟩, by decide +kernel, by decide +kernel⟩

/-- The CONTACTOR order of another source that calls S0 back to the bus. -/
def homeward : Frame := ⟨0x60, 0x02, 0x21, [1]⟩

/-- S0 with a held order. -/
def withHeld (s : State) : State := s.modControl 0 fun c => { c with heldOrder := some homeward }

theorem witness_ClearFaultByPosition :
    (site.takesFrom 1 ∧ (site.control 0).state ≠ .faulted ∧ (site.cfg 0).present = true)
    ∧ ((faulted .bus (some .A)).takesFrom 1 ∧ ((faulted .bus (some .A)).control 0).state = .faulted
      ∧ ((faulted .bus (some .A)).reading 0).lastPosition = some .bus ∧ ((faulted .bus (some .A)).control 0).slot = some .A)
    ∧ ((faulted .eq (some .A)).takesFrom 1 ∧ ((faulted .eq (some .A)).control 0).state = .faulted
      ∧ ((faulted .eq (some .A)).reading 0).lastPosition = some .eq ∧ ((faulted .eq (some .A)).control 0).slot = some .A)
    ∧ (((faulted .eq none).reading 0).lastPosition = some .eq ∧ ((faulted .eq none).control 0).slot = none)
    ∧ (let s := withHeld (faulted .bus (some .A));
      (s.control 0).heldOrder = some homeward ∧ homeward.isRectOn = false ∧ s.ring.orders.length ≤ 16 ∧ s.onlyAway 0)
    ∧ (7 < (8 : Byte).toNat ∧ (7 : Byte).toNat = (7 : Str).val ∧ (site.cfg 7).present = false) :=
  ⟨⟨witness_takesFrom, by decide +kernel⟩, ⟨witness_takesFrom, by decide +kernel⟩, ⟨witness_takesFrom, by decide +kernel⟩,
    by decide +kernel, ⟨rfl, by decide, by decide +kernel, by unfold State.onlyAway; decide +kernel⟩, by decide +kernel⟩

/-- S0 in the gap behind its group, positions 1 and 3 just closed. -/
def inGap : State :=
  dosing.modWater fun w => { w with state := .gap, pump := false, openSet := [], gapEnd := some 6000 }

theorem witness_RestartIsWarm :
    (equalising 3 0 .run).takesFrom 1 ∧ (equalising 3 0 .run).BoundOk ∧ ((equalising 3 0 .run).control 0).state = .equalising
      ∧ ((returning .matching).control 0).state = .returning ∧ ((equalising 3 0 .run).control 1).state = .onBus
      ∧ ((∀ i, (site.control i).slot = none) ∧ site.water.state = .idle)
      ∧ (∀ s, s = equalising 3 0 .run ∨ s = returning .confirm ∨ s = faulted .openPos (some .A) →
        (s.control 0).slot = some .A ∧ (∀ j : Str, j ≠ 0 → (s.control j).slot = none)
          ∧ s.rectAddr .A ≠ (s.cfg 0).contactorAddr ∧ (s.cfg 0).manifoldAddr ≠ s.rectAddr .A
          ∧ (s.cfg 0).manifoldAddr ≠ (s.cfg 0).contactorAddr)
      ∧ (∀ s, s = dosing ∨ s = inGap →
        s.takesFrom 1 ∧ s.water.state ≠ .idle ∧ s.water.string = some 0 ∧ ∀ i, (s.control i).slot = none)
      ∧ (inGap.water.state = .gap ∧ inGap.water.group.map (fun g => g.pos) = [0, 2] ∧ inGap.water.openSet = []) := by
  refine ⟨witness_takesFrom, witness_bindings, by decide +kernel, by decide +kernel, by decide +kernel, by decide +kernel, ?_, ?_,
    by decide +kernel⟩
  · rintro s (rfl | rfl | rfl) <;> decide +kernel
  · rintro s (rfl | rfl) <;> exact ⟨witness_takesFrom, by decide +kernel⟩

/-- R80, R141, R172: after a RESTART the order queue holds the RECT order of the returning string, CONTACTOR BUS in its CONFIRM
step, and the VALVE order that closes positions 1 and 3. -/
theorem test_restart_orders :
    let t := after (.restart 0 1) ((returning .confirm).modWater fun _ => dosing.water)
    t.ring.orders.map (fun o => (o.frame.dst, o.frame.kind, o.frame.payload))
      = [(0x08, 0x20, [1, 0x15, 0x18, 0, 50]), (0x60, 0x21, [1]), (0x70, 0x22, [0x22, 0, 0, 0, 0, 0])] := by decide +kernel

/-- Log 12: after a RESTART in GAP one order closes the positions of the group that has just closed. -/
theorem test_restart_in_gap :
    let t := after (.restart 0 1) inGap
    (t.water.state, t.ring.orders.map fun o => (o.frame.dst, o.frame.payload)) = (.idle, [(0x70, [0x22, 0, 0, 0, 0, 0])]) := by
  decide +kernel

/-! ## Witnesses: expiries -/

/-- S0 with fresh voltages of 2231 and 2254 mV and fresh temperatures of 23.1 and 24.1 °C at positions 1 and 24, and fresh
terminal voltages of S0 and S1. -/
def spread : State :=
  (((site.modCell 0 fun c => { c with voltage := some 2231, vExpiry := some 1000, temp := some 231, tExpiry := some 1000 }).modCell 23
    fun c => { c with voltage := some 2254, vExpiry := some 1001, temp := some 241, tExpiry := some 1001 }).modReading 0
    fun r => { r with terminalV := some 5352, tvExpiry := some 1000 }).modReading 1
    fun r => { r with terminalV := some 5350, tvExpiry := some 1000 }

/-- R14 to R17: two fresh cells, T_s 24.1 °C, a spread of 23 mV, a bus voltage of 53.52 V. -/
theorem test_derived :
    (spread.judgeFreshCells 0, spread.judgeTs 0, spread.judgeSpread 0, spread.judgeBusVoltage)
      = (2, some 241, some 23, some 5352) := by decide +kernel

theorem witness_FreshnessAndHoldoffExpire :
    (spread.measured 0 0 2231 ∧ spread.measured 0 23 2254 ∧ spread.warm 0 0 231 ∧ spread.warm 0 23 241
      ∧ spread.onBusAt 0 5352 ∧ spread.onBusAt 1 5350 ∧ (∀ p u, ¬ site.warm 0 p u) ∧ ∀ p u, ¬ site.measured 0 p u)
    ∧ (let s := site.modCell 191 fun c => { c with vExpiry := some 1000, tExpiry := some 1001 };
      (s.cell 191).vExpiry = some 1000 ∧ 1000 ≤ s.now + 0 ∧ (s.cell 191).tExpiry = some 1001 ∧ 1001 ≤ s.now + 1)
    ∧ (let s := site.modReading 0 fun r => { r with tvExpiry := some 1000 };
      (s.reading 0).tvExpiry = some 1000 ∧ 1000 ≤ s.now + 0 ∧ (s.control 0).state = .onBus)
    ∧ { site with holdoffEnd := some 1000 }.holdoffEnd = some 1000 := by
  have temps : ∀ p, (site.cellAt 0 p).temp = none := by decide +kernel
  have volts : ∀ p, (site.cellAt 0 p).voltage = none := by decide +kernel
  have cool : ∀ p u, ¬ site.warm 0 p u := fun p _ h => nomatch (temps p).symm.trans h.2.1
  have blank : ∀ p u, ¬ site.measured 0 p u := fun p _ h => nomatch (volts p).symm.trans h.2.1
  refine ⟨⟨⟨?_, ?_, 1000, ?_, ?_⟩, ⟨?_, ?_, 1001, ?_, ?_⟩, ⟨?_, ?_, ⟨1000, ?_, ?_⟩, 1000, ?_, ?_⟩,
    ⟨?_, ?_, ⟨1001, ?_, ?_⟩, 1001, ?_, ?_⟩, ⟨?_, ?_, ?_, 1000, ?_, ?_⟩, ⟨?_, ?_, ?_, 1000, ?_, ?_⟩, cool, blank⟩, ?_, ?_, ?_⟩ <;>
    decide +kernel

theorem witness_StringTimersRunOut :
    (let s := returning .confirm;
      (s.control 0).slot = some .A ∧ s.ring.sight = .seeing ∧ (s.control 0).confirmLeft = some 20000 ∧ 20000 ≤ 20000
        ∧ (s.control 0).state = .returning ∧ (s.control 0).step = some .confirm ∧ s.mgmt.mode = .engaged
        ∧ s.ring.replies.length < 8 ∧ (s.control 0).state ≠ .equalising ∧ (s.control 0).rectOrder = some (.on 5400 50)
        ∧ (s.control 0).lastRectTime = some 500 ∧ 500 + s.lim.orderRefreshS * 1000 ≤ s.now + 9500)
    ∧ (let s := returning .matching;
      (s.control 0).slot = some .A ∧ (s.control 0).step = some .matching ∧ (s.control 0).matchDeadline = some 2000
        ∧ 2000 ≤ s.now + 1000)
    ∧ (let s := (equalising 3 0 .run).modSlot .A fun r => { r with lastOrder := some .off, lastOrderTime := some 500 };
      (s.control 0).slot = some .A ∧ (s.slot .A).entryState ≠ none ∧ (s.slot .A).lastOrder = some .off
        ∧ (s.slot .A).lastOrderTime = some 500 ∧ 500 + s.lim.orderRefreshS * 1000 ≤ s.now + 9500) := by decide +kernel

theorem witness_EntriesEndAtTheirTimes :
    (let s := (equalising 3 0 .run).modSlot .A fun r => { r with dEff := 155, runElapsed := 9299999 };
      (s.slot .A).recipe ≠ 0 ∧ (s.slot .A).entryState = some .run ∧ s.slotEntry .A = .phase 1
        ∧ (s.slot .A).dEff * 60000 ≤ (s.slot .A).runElapsed + 1)
    ∧ (let s := (equalising 3 1 .run).modSlot .A fun r => { r with critStart := some 0, runElapsed := 1799999 };
      s.slotEntry .A = .phase 2 ∧ (s.phase 2).criterion ≠ .none
        ∧ 0 + (s.phase 2).critHoldMin * 60000 ≤ (s.slot .A).runElapsed + 1)
    ∧ (∀ e, e = EntryState.wait ∨ e = .waterWait →
      let s := (equalising 3 3 e).modSlot .A fun r => { r with entryEnd := some 1000 };
      (s.slot .A).recipe ≠ 0 ∧ (s.slot .A).entryState = some e ∧ (s.slot .A).entryEnd = some 1000 ∧ 1000 ≤ s.now + 0
        ∧ (s.slot .A).string = some 0 ∧ ∀ x ∈ s.queue, x.string = 0 → x.kind ≠ .water)
    ∧ (let x : Entry := ⟨0, .water, 0, .waterPoint, .urgent, .recipe, ⟨0, 0⟩⟩
      { equalising 3 4 .waterWait with queue := [x] }.queue = [] ++ x :: [] ∧ x.string = 0 ∧ x.kind = .water) := by
  refine ⟨by decide +kernel, by decide +kernel, ?_, by decide +kernel⟩
  rintro e (rfl | rfl) <;> decide +kernel

theorem witness_holds (r ix : Nat) (e : EntryState) : (equalising r ix e).holds .A 0 := ⟨rfl, rfl⟩

theorem witness_EntriesStartByKind :
    (∀ ix, (equalising 3 ix .run).holds .A 0 ∧ ((equalising 3 ix .run).control 0).state = .equalising
      ∧ ((equalising 3 ix .run).slot .A).recipe ≠ 0)
    ∧ [0, 1, 2, 3, 4, 5].map (fun ix => recipeEntry site.images.recipe 3 (ix + 1))
      = [.phase 2, .phase 4, .wait 30, .water, .phase 3, .finish]
    ∧ (0 < (site.phase 2).iSet ∧ (site.modSite fun t => { t with allowance := 0 }).site.allowance = 0
      ∧ (site.phase 4).iSet = 0 ∧ site.lim.gasMv ≤ (site.phase 4).vSet
      ∧ (site.modSite fun t => { t with fanFail := true }).site.fanFail = true ∧ site.site.fanFail = false
      ∧ site.site.allowance ≠ 0 ∧ (site.phase 3).vSet < site.lim.gasMv)
    ∧ (let s := equalising 3 0 .run;
      s.site.src.level = true ∧ s.stale .A = false ∧ s.ring.sight ≠ .warn ∧ (s.slot .A).tc = some 380
        ∧ (380 : Int) + 20 ≤ s.lim.hotLimit ∧ (s.slot .A).suspendedTotal < s.lim.suspendMaxMin * 60000
        ∧ (s.modSite fun t => { t with src := {} }).site.src.level = false
        ∧ (s.modRing fun r => { r with sight := .warn }).ring.sight = .warn
        ∧ (s.modReading 0 fun r => { r with freshCells := 0 }).stale .A = true
        ∧ ((s.modSlot .A fun r => { r with tc := some 430 }).slot .A).tc = some 430 ∧ (430 : Int) + 20 ≤ s.lim.hotLimit
        ∧ ((s.modSlot .A fun r => { r with tc := some 450 }).slot .A).tc = some 450 ∧ s.lim.hotLimit ≤ 450
        ∧ s.lim.gasMv ≤ (s.phase 2).vSet)
    ∧ ((site.cfg 0).manifoldAddr ≠ 0xFF ∧ (equalising 3 3 .run).watering 0 = false
      ∧ { equalising 3 3 .run with water := dosing.water }.watering 0 = true)
    ∧ (let s := (equalising 3 3 .run).modControl 1 fun c => { c with state := .equalising, slot := some .B }
      let s := s.modSlot .B fun r => { r with string := some 1, recipe := 3, index := 3, entryState := some .wait };
      s.holds .B 1 ∧ (s.control 1).state = .equalising ∧ (s.slot .B).recipe ≠ 0 ∧ (s.cfg 1).manifoldAddr = 0xFF
        ∧ recipeEntry s.images.recipe (s.slot .B).recipe ((s.slot .B).index + 1) = .water)
    ∧ ((site.cfg 1).manifoldAddr = 0xFF
      ∧ (let images := putBytes recipeImage 48 [1, 3, 3, 0, 0, 0];
        recipeEntry images 3 1 = .water ∧ recipeEntry images 3 2 = .finish)) :=
  ⟨fun ix => ⟨⟨rfl, rfl⟩, rfl, show (3 : Nat) ≠ 0 by decide⟩, by decide +kernel, by decide +kernel, by decide +kernel,
    by decide +kernel, ⟨⟨rfl, rfl⟩, by decide +kernel⟩, by decide +kernel⟩

theorem witness_SlotLimitsEndTheRound :
    (let s := (equalising 3 0 .suspended).modSlot .A fun r => { r with suspendedTotal := 3599999 };
      s.holds .A 0 ∧ (s.control 0).state = .equalising ∧ (s.slot .A).entryState = some .suspended
        ∧ s.lim.suspendMaxMin * 60000 ≤ (s.slot .A).suspendedTotal + 1)
    ∧ (unsourced.holds .A 0 ∧ (unsourced.slot .A).entryState ≠ none ∧ (unsourced.slot .A).reasons.source = true
      ∧ (unsourced.slot .A).sourceWaitStart = some 900 ∧ 900 + unsourced.lim.sourceWaitMin * 60000 ≤ unsourced.now + 1199900)
    ∧ (let s := (equalising 0 0 .direct).modSlot .A fun r => { r with runElapsed := 3599999 };
      s.holds .A 0 ∧ (s.slot .A).entryState = some .direct ∧ s.lim.directMaxMin * 60000 ≤ (s.slot .A).runElapsed + 1)
    ∧ (SlotId.B ≠ .A ∧ (unsourced.control 0).state = .equalising) := by
  refine ⟨⟨⟨rfl, rfl⟩, by decide +kernel⟩, ⟨⟨rfl, rfl⟩, by decide +kernel⟩, ⟨⟨rfl, rfl⟩, by decide +kernel⟩, by decide +kernel⟩

/-! ## Witnesses: watering, sight, readings, accounts, admission -/

/-- A CELL reading of S0 at the position with address `a`: 2.250 V, 24.1 °C, HIGH. -/
def highAt (a : Byte) : Frame := ⟨0x01, a, 0x10, [0x08, 0xCA, 0, 0xF1, 1, 0]⟩

theorem witness_ValvesCloseWithTheirDose :
    (dosing.water.state = .dosing ∧ dosing.water.string = some 0 ∧ (2 : Pos) ∈ dosing.water.openSet
      ∧ dosing.water.group = [⟨0, 86, 34400, some 800⟩] ++ ⟨2, 10, 4000, some 800⟩ :: []
      ∧ (∀ x ∈ ([⟨0, 86, 34400, some 800⟩] : List GroupItem), x.pos ≠ 2) ∧ 800 + 4000 ≤ dosing.now + 3800)
    ∧ (let s := allButLast (highAt 0x20) dosing;
      s.lastByteOf (highAt 0x20) (lastByte (highAt 0x20)) ∧ s.ring.sight = .seeing ∧ (highAt 0x20).dst ≠ s.ring.ownAddress
        ∧ s.roleOf (highAt 0x20).src = some (.cell 0 0) ∧ (highAt 0x20).kind = 0x10
        ∧ (highAt 0x20).payload = 0x08 :: 0xCA :: 0 :: 0xF1 :: 1 :: 0 :: [] ∧ (0 : Byte).getLsbD 0 = false
        ∧ (s.cfg 0).hasProbe 0 = true ∧ s.water.string = some 0 ∧ s.water.state = .dosing ∧ (0 : Pos) ∈ s.water.openSet
        ∧ s.water.group = [] ++ ⟨0, 86, 34400, some 800⟩ :: [⟨2, 10, 4000, some 800⟩])
    ∧ (let s := allButLast (highAt 0x21) dosing;
      s.lastByteOf (highAt 0x21) (lastByte (highAt 0x21)) ∧ s.roleOf (highAt 0x21).src = some (.cell 0 1)
        ∧ (s.cfg 0).hasProbe 1 = true ∧ s.water.state ≠ .idle ∧ (1 : Pos) ∉ s.water.openSet) :=
  ⟨by decide +kernel, ⟨lastByte_completes _ _ (by decide), by decide +kernel⟩,
    ⟨lastByte_completes _ _ (by decide), by decide +kernel⟩⟩

/-- S0 between two groups, `plan` left. -/
def between (plan : List PlanItem) (reservoir : Nat) : State :=
  dosing.modWater fun w =>
    { w with state := .gap, pump := false, openSet := [], gapEnd := some 1000, plan := plan, reservoir := reservoir }

theorem witness_GapsEndInGroupsOrOutcomes :
    (let s := between [] 15000;
      s.water.state = .gap ∧ s.water.string = some 0 ∧ s.water.gapEnd = some 1000 ∧ 1000 ≤ s.now + 0 ∧ s.water.plan = [])
    ∧ (let s := between [⟨5, 40, 16000⟩] 2039;
      s.water.plan = ⟨5, 40, 16000⟩ :: [] ∧ s.water.reservoir - s.lim.reservoirReserveMl < 40)
    ∧ (let s := between [⟨5, 40, 16000⟩] 2040;
      s.water.plan = ⟨5, 40, 16000⟩ :: [] ∧ 40 ≤ s.water.reservoir - s.lim.reservoirReserveMl ∧ 1 ≤ s.lim.maxOpen)
    ∧ (let s := (between [⟨5, 40, 16000⟩] 2040).modWater fun w => { w with lastValveDst := some 0x70, unsent := [⟨2, false⟩] };
      s.water.lastValveDst = some (s.cfg 0).manifoldAddr ∧ s.altersOpening 0 [5] = [⟨2, false⟩, ⟨5, true⟩])
    ∧ (let as : List Alter := [⟨2, false⟩, ⟨5, true⟩];
      ⟨5, true⟩ ∈ as ∧ (∀ a ∈ as, a.pos = 5 → a.opened = true) ∧ valvePayload as = [0x20, 0x0C, 0, 0, 0, 0]) := by
  decide +kernel

/-- R128, R129, 11.2: the order that opens position 6 behind an unsent closing of position 3 carries both. -/
theorem test_gap_order :
    let s := after (.gapEnd 0) ((between [⟨5, 40, 16000⟩] 2040).modWater fun w =>
      { w with lastValveDst := some 0x70, unsent := [⟨2, false⟩] })
    s.ring.orders.map (fun o => (o.frame.dst, o.frame.payload)) = [(0x70, [0x20, 0x0C, 0, 0, 0, 0])] := by decide +kernel

/-- A cell whose confirmation falls due at 1000 ms. -/
def awaiting (lv : Level) : State :=
  site.modCell 191 fun c => { c with level := lv, confirmDeadline := some 1000 }

theorem witness_ConfirmDeadlineCountsTheDose :
    (∀ lv, ((awaiting lv).cell 191).confirmDeadline = some 1000 ∧ 1000 ≤ (awaiting lv).now + 0)
      ∧ ((awaiting .normal).cell 191).level ≠ .low ∧ ((awaiting .normal).cell 191).level ≠ .dry
      ∧ ((awaiting .low).cell 191).level = .low ∧ (awaiting .low).mgmt.mode = .engaged
      ∧ (awaiting .low).ring.replies.length < 7
      ∧ ((awaiting .low).modMgmt fun m => { m with mode := .transparent }).mgmt.mode = .transparent
      ∧ (∀ n, (((awaiting .dry).modCell 191 fun c => { c with unconfirmed := n }).cell 191).unconfirmed = n)
      ∧ (((awaiting .low).modRing fun r => { r with replies := List.replicate 7 passing }).ring.replies.length = 7
        ∧ 7 ≤ ((awaiting .low).modRing fun r => { r with replies := List.replicate 8 passing }).ring.replies.length) :=
  ⟨fun lv => by cases lv <;> decide +kernel, by decide +kernel, by decide +kernel, by decide +kernel, by decide +kernel,
    by decide +kernel, by decide +kernel, fun n => rfl, by decide +kernel⟩

theorem witness_SilenceWarnsThenBlinds :
    (site.mgmt.loaded.limits = true ∧ site.ring.lastGood = some 900 ∧ site.ring.sight = .seeing
      ∧ 900 + site.lim.silenceWarnMs ≤ site.now + 400 ∧ site.lim.silenceWarnMs ≠ site.lim.silenceBlindS * 1000
      ∧ ∀ sl, (site.slot sl).entryState = none)
    ∧ (let s := equalising 3 0 .run;
      s.otherIdle .A ∧ (s.slot .A).entryState = some (ResumeState.entry .run)
        ∧ (s.slot .A).suspendedTotal < s.lim.suspendMaxMin * 60000)
    ∧ (site.ring.sight ≠ .blind ∧ 900 + site.lim.silenceBlindS * 1000 ≤ site.now + 19900)
    ∧ (let s := { site with images := { site.images with limits := putBytes limitsImage 57 (bytesBE 2 20000) } };
      s.lim.silenceWarnMs = s.lim.silenceBlindS * 1000)
    ∧ (let s := (returning .confirm).modRing fun r => { r with sight := .blind, repeatDue := some 1000 };
      s.ring.sight = .blind ∧ s.ring.repeatDue = some 1000 ∧ 1000 ≤ s.now + 0 ∧ (s.control 0).state = .returning
        ∧ (s.control 0).slot = some .A ∧ ∀ j : Str, j ≠ 0 → (s.control j).state ≠ .returning ∧ (s.control j).state ≠ .faulted)
    ∧ (∀ i, (site.control i).state ≠ .returning ∧ (site.control i).state ≠ .faulted)
    ∧ (let s := equalising 3 0 .run;
      s.mgmt.mode = .engaged ∧ s.water.state = .idle ∧ s.ring.replies.length < 7 ∧ (s.control 0).slot = some .A
        ∧ (s.control 0).state = .equalising ∧ (∀ j : Str, j ≠ 0 → (s.control j).slot = none)
        ∧ s.rectAddr .A ≠ (s.cfg 0).contactorAddr ∧ s.ring.orders.length ≤ 16)
    ∧ (equalising 3 0 .run).onlyAway 0 ∧ ((returning .matching).control 0).step = some .matching
    ∧ (dosing.ring.sight ≠ .blind ∧ dosing.water.string = some 0 ∧ dosing.water.state ≠ .idle) := by
  refine ⟨⟨by decide +kernel, by decide +kernel, by decide +kernel, by decide +kernel, by decide +kernel,
    fun sl => by cases sl <;> rfl⟩, ⟨fun sl h => ?_, by decide +kernel⟩, by decide +kernel, by decide +kernel,
    by decide +kernel, by decide +kernel, by decide +kernel, by unfold State.onlyAway; decide +kernel, rfl,
    by decide +kernel⟩
  cases sl
  · exact absurd rfl h
  · decide +kernel

/-- S0 CALLED in slot A for `recipe`. -/
def called (recipe : Nat) : State :=
  (site.modControl 0 fun c => { c with state := .called, slot := some .A, confirmLeft := some 20000 }).modSlot .A fun r =>
    { r with string := some 0, recipe := recipe, tc := some 380 }

/-- A POSITION reading of S0. -/
def position (code : Byte) : Frame := ⟨0x01, 0x60, 0x12, [code, 0]⟩

theorem witness_ReadingsReachTheRecords :
    (let f : Frame := ⟨0x01, 0x37, 0x10, [0x08, 0xCA, 0, 0xF1, 3, 0]⟩
      let s := allButLast f site;
      s.lastByteOf f (lastByte f) ∧ s.ring.sight = .seeing ∧ f.dst ≠ s.ring.ownAddress
        ∧ s.roleOf f.src = some (.cell 0 23) ∧ f.kind = 0x10 ∧ f.payload = 0x08 :: 0xCA :: 0 :: 0xF1 :: 3 :: 0 :: [])
    ∧ (let f : Frame := ⟨0x01, 0x41, 0x11, [0, 123, 0x15, 0x24, 0]⟩
      let s := allButLast f site;
      s.lastByteOf f (lastByte f) ∧ s.roleOf f.src = some (.shunt 1) ∧ f.kind = 0x11
        ∧ f.payload = 0 :: 123 :: 0x15 :: 0x24 :: 0 :: [])
    ∧ (let f : Frame := ⟨0x01, 0x60, 0x12, [1, 0]⟩
      let s := allButLast f (returning .confirm);
      s.lastByteOf f (lastByte f) ∧ s.roleOf f.src = some (.contactor 0) ∧ f.kind = 0x12 ∧ f.payload = 1 :: 0 :: []
        ∧ (1 : Byte).toNat = Contact.bus.code ∧ (s.control 0).state = .returning)
    ∧ ((0 : Byte).toNat = Contact.openPos.code ∧ 3 < (4 : Byte).toNat)
    ∧ (∀ r, r = 3 ∨ r = 0 →
      let s := allButLast (position 2) (called r);
      s.lastByteOf (position 2) (lastByte (position 2)) ∧ s.roleOf (position 2).src = some (.contactor 0)
        ∧ (2 : Byte).toNat = Contact.eq.code ∧ (s.control 0).state = .called ∧ s.holds .A 0 ∧ (s.slot .A).recipe = r
        ∧ (s.slot .A).suspendedTotal < s.lim.suspendMaxMin * 60000
        ∧ recipeEntry s.images.recipe 3 0 = .phase 1 ∧ s.site.allowance ≠ 0 ∧ s.site.fanFail = false)
    ∧ (((called 3).modControl 0 fun c => { c with slot := none }).control 0).slot = none
    ∧ (let s := allButLast (position 1) (equalising 3 0 .run);
      s.lastByteOf (position 1) (lastByte (position 1)) ∧ (s.control 0).state = .equalising ∧ (s.control 0).slot = some .A)
    ∧ (let s := withHeld (returning .confirm);
      (s.control 0).heldOrder = some homeward ∧ homeward.isRectOn = false ∧ s.ring.orders.length ≤ 16 ∧ s.onlyAway 0)
    ∧ ((site.modMgmt fun m => { m with loaded := {} }).mgmt.loaded.limits = false
      ∧ ((equalising 3 0 .run).control 0).state ≠ .onBus)
    ∧ (∀ code, code = 2 ∨ code = 3 → let s := allButLast (position code) site;
      s.lastByteOf (position code) (lastByte (position code)) ∧ s.roleOf (position code).src = some (.contactor 0)
        ∧ (s.control 0).state = .onBus ∧ (3 : Byte).toNat = Contact.moving.code)
    ∧ (let s := allButLast (position 1) (called 3);
      s.lastByteOf (position 1) (lastByte (position 1)) ∧ (s.control 0).state = .called)
    ∧ (let s := allButLast (position 2) (faulted .openPos (some .A));
      s.lastByteOf (position 2) (lastByte (position 2)) ∧ (s.control 0).state = .faulted) := by
  refine ⟨⟨lastByte_completes _ _ (by decide), by decide +kernel⟩, ⟨lastByte_completes _ _ (by decide), by decide +kernel⟩,
    ⟨lastByte_completes _ _ (by decide), by decide +kernel⟩, by decide, ?_, by decide +kernel,
    ⟨lastByte_completes _ _ (by decide), by decide +kernel⟩,
    ⟨rfl, by decide, by decide +kernel, by unfold State.onlyAway; decide +kernel⟩, by decide +kernel, ?_,
    ⟨lastByte_completes _ _ (by decide), by decide +kernel⟩, ⟨lastByte_completes _ _ (by decide), by decide +kernel⟩⟩
  · rintro r (rfl | rfl) <;>
      exact ⟨lastByte_completes _ _ (by decide), by decide +kernel, by decide, by decide +kernel, ⟨rfl, rfl⟩, rfl, by decide +kernel⟩
  · rintro code (rfl | rfl) <;> exact ⟨lastByte_completes _ _ (by decide), by decide +kernel⟩

/-- R75: EQ for a string in ON_BUS makes it FAULTED; MOVING changes the position alone. -/
theorem test_positions_on_bus :
    let t := receive (position 2) site
    let u := receive (position 3) site
    ((t.control 0).state, (u.control 0).state, (u.reading 0).lastPosition) = (.faulted, .onBus, some .moving) := by
  decide +kernel

theorem witness_ChargeIsAccountedWhole :
    let c : Charge := { fine := -9999, qBal := -720000, wAcc := 9999, tPrev := some 0 }
    c.fine.natAbs < 10000 ∧ -((720000 : Nat) : Int) ≤ c.qBal ∧ c.qBal ≤ 0 ∧ c.wAcc < 10000
      ∧ 2000 = min (match c.tPrev with | some t => 12500 - t | none => 0) 2000 := by decide +kernel

/-- A CELL reading of S0 at position 1: 2.650 V or 2.649 V, 24.1 °C, NORMAL. -/
def cellAt2650 (low : Byte) : Frame := ⟨0x01, 0x20, 0x10, [0x0A, low, 0, 0xF1, 2, 0]⟩

/-- S0 in RUN or DIRECT at the limit `l`, its order ON. -/
def loaded (e : EntryState) (l : Nat) : State :=
  (equalising (if e = .direct then 0 else 3) 0 e).modSlot .A fun r => { r with limit := l, lastOrder := some (.on 5786 l) }

theorem witness_VoltagesStayUnderTheCeiling :
    ((-400 : Int) ≤ 850 ∧ 2000 ≤ site.lim.cellCeilingMv ∧ -400 ≤ site.lim.tRef ∧ site.lim.tRef ≤ 850
      ∧ backOffLimit 50 250 = some 187 ∧ 50 ≤ 250 * 3 / 4
      ∧ (site.phase 1).vMin ≤ min (site.phase 1).vMax site.lim.cellCeilingMv
      ∧ (let p := { site.phase 1 with vMin := 2601 }; min p.vMax site.lim.cellCeilingMv < p.vMin))
    ∧ (∀ e l low, (e = .run ∨ e = .direct) → (l = 51 ∨ l = 50) → (low = 0x5A ∨ low = 0x59) →
      let s := allButLast (cellAt2650 low) (loaded e l);
      s.lastByteOf (cellAt2650 low) (lastByte (cellAt2650 low)) ∧ s.ring.sight = .seeing
        ∧ (cellAt2650 low).dst ≠ s.ring.ownAddress ∧ s.roleOf (cellAt2650 low).src = some (.cell 0 0)
        ∧ (cellAt2650 low).payload = 0x0A :: low :: 0 :: 0xF1 :: 2 :: 0 :: [] ∧ (0 : Byte).getLsbD 0 = false
        ∧ (0x0A : Byte) ++ low ≠ (0xFFFF : BitVec 16) ∧ s.holds .A 0 ∧ (s.slot .A).entryState = some e
        ∧ (s.slot .A).suspendedTotal < s.lim.suspendMaxMin * 60000 ∧ (s.slot .A).settleEnd = none
        ∧ (s.slot .A).lastOrder = some (.on 5786 l) ∧ s.lim.iFloor = 50 ∧ s.lim.cellCutMv = 2650
        ∧ ((0x0A : Byte) ++ low).toNat = (if low = 0x5A then 2650 else 2649)) := by
  refine ⟨by decide +kernel, ?_⟩
  rintro e l low (rfl | rfl) (rfl | rfl) (rfl | rfl) <;>
    exact ⟨lastByte_completes _ _ (by decide), by decide +kernel, by decide +kernel, by decide +kernel, by decide +kernel,
      by decide, by decide, ⟨rfl, rfl⟩, by decide +kernel⟩

/-- A SHUNT reading of S0 in 0.1 A, its two high bytes given, without a terminal voltage. -/
def shuntOf (c1 c0 : Byte) : Frame := ⟨0x01, 0x40, 0x11, [c1, c0, 0xFF, 0xFF, 0]⟩

/-- `site` at 6000 ms, S0's account as `f` gives it, DISCHARGE as given. -/
def accounted (discharge : Bool) (f : Charge → Charge) : State :=
  { site.modCharge 0 f with now := 6000, discharge := discharge }

theorem witness_ReadingsJudgeFullAndDischarge :
    (∀ c1 c0 d f, let s := allButLast (shuntOf c1 c0) (accounted d f);
      s.lastByteOf (shuntOf c1 c0) (lastByte (shuntOf c1 c0)) ∧ s.ring.sight = .seeing
        ∧ (shuntOf c1 c0).dst ≠ s.ring.ownAddress ∧ s.roleOf (shuntOf c1 c0).src = some (.shunt 0)
        ∧ (shuntOf c1 c0).kind = 0x11 ∧ (shuntOf c1 c0).payload = c1 :: c0 :: 0xFF :: 0xFF :: 0 :: []
        ∧ s.mgmt.loaded.limits = true ∧ (s.control 0).state = .onBus)
    ∧ ((equalising 3 0 .run).control 0).state ≠ .onBus
    ∧ (((0xFF : Byte) ++ (0xFF : Byte)).toInt < 0 ∧ (site.lim.fullCurrent : Int) < ((0 : Byte) ++ (21 : Byte)).toInt
      ∧ 0 ≤ ((0 : Byte) ++ (0 : Byte)).toInt ∧ ((0 : Byte) ++ (20 : Byte)).toInt ≤ site.lim.fullCurrent
      ∧ -(site.lim.dischargeCurrent : Int) < ((0xFF : Byte) ++ (0xCF : Byte)).toInt
      ∧ ((0xFF : Byte) ++ (0xCE : Byte)).toInt ≤ -(site.lim.dischargeCurrent : Int))
    ∧ (let s := accounted false fun c => { c with tPrev := some 3999, fullTimer := some 0, disStart := some 0 };
      s.gapBefore 0 6000 ∧ (s.charge 0).disStart = some 0 ∧ (s.charge 0).discharging = false)
    ∧ (let s := accounted false fun c => { c with tPrev := some 4000, fullTimer := some 0 };
      ¬ s.gapBefore 0 6000 ∧ (s.charge 0).fullTimer = some 0 ∧ 6000 < 0 + s.lim.fullHoldMin * 60000
        ∧ 0 + s.lim.fullHoldMin * 60000 ≤ 1800000 ∧ (s.charge 0).disStart = none)
    ∧ (let s := accounted false fun c => { c with tPrev := some 5000, disStart := some 1000 };
      s.discharge = false ∧ ((allButLast (shuntOf 0xFF 0xCE) s).takeCheck (lastByte (shuntOf 0xFF 0xCE))).discharge = true
        ∧ s.mgmt.mode = .engaged ∧ s.ring.replies.length < 8 ∧ 1000 + s.lim.dischargeConfirmS * 1000 ≤ 6000)
    ∧ (let s := accounted true fun c => { c with tPrev := some 5000, disStart := some 1000, discharging := true };
      s.discharge = true ∧ ((allButLast (shuntOf 0 0) s).takeCheck (lastByte (shuntOf 0 0))).discharge = false
        ∧ s.lim.dischargeHoldoffMin ≠ 0
        ∧ { s with images := { s.images with limits := putBytes limitsImage 36 [0, 0] } }.lim.dischargeHoldoffMin = 0) := by
  refine ⟨fun c1 c0 d f => ⟨lastByte_completes _ _ (Nat.le_of_ble_eq_true rfl), rfl, by show (0x01 : Byte) ≠ 0xF0; decide,
      show site.roleOf 0x40 = some (.shunt 0) by decide +kernel, rfl, rfl, rfl, rfl⟩, by decide +kernel, by decide +kernel,
    ⟨⟨3999, rfl, by decide +kernel⟩, by decide +kernel⟩, ⟨?_, by decide +kernel⟩, by decide +kernel, by decide +kernel⟩
  rintro ⟨t, e, h⟩
  cases e
  revert h
  decide +kernel

/-- `site` with 15 litres, S0's position 1 LOW. -/
def thirsty : State :=
  (site.modCell 0 fun c => { c with level := .low }).modWater fun w => { w with reservoir := 15000 }

theorem witness_PlansHoldEveryCandidate :
    1 ≤ site.lim.flowX10 ∧ (0 : Pos).val < (thirsty.cfg 0).cells ∧ (thirsty.cellAt 0 0).wateringFault = false
      ∧ (thirsty.cellAt 0 0).confirmDeadline = none ∧ (thirsty.cellAt 0 0).level = .low
      ∧ ((thirsty.buildPlan 0).map fun x => (x.pos, x.dose)) = [(0, 10)] ∧ site.lim.flowX10 ≤ 200
      ∧ min ((thirsty.cellAt 0 0).deficit / 1000) thirsty.lim.doseMaxMl = 0 := by decide +kernel

/-- A scan is due, with one entry waiting. -/
def scanning (e : Entry) (s : State) : State :=
  { s with queue := [e], marks := { scan := true } }

theorem witness_ScansAdmitByTheConditions :
    ((scanning (older .normal .auto) site).marks.scan = true
      ∧ (site.modMgmt fun m => { m with mode := .transparent }).mgmt.mode = .transparent)
    ∧ (let e : Entry := { older .normal .auto with recipe := 3 }
      let s := scanning e (site.modCharge 0 fun c => { c with assumed := false });
      s.marks.scan = true ∧ s.queue = [e] ∧ s.mgmt.mode = .engaged ∧ s.mgmt.staging ≠ .pending ∧ s.site.gasLatch = false
        ∧ s.ring.sight = .seeing ∧ e.kind = .equalise ∧ s.site.fanFail = false ∧ s.discharge = false
        ∧ s.judgeDischarge = false ∧ s.holdoffEnd = none ∧ s.lim.triggerMode = .off ∧ s.slotFree .A = true
        ∧ s.boundCount < s.lim.maxOut ∧ (s.control e.string).state = .onBus ∧ (s.reading e.string).dry = false
        ∧ (s.charge e.string).qBal = 0 ∧ (s.charge e.string).assumed = false ∧ (s.reading e.string).ts = some 380
        ∧ s.lim.coldLimit ≤ 380 ∧ 380 < s.lim.hotLimit
        ∧ (s.cfg e.string).cells ≤ (s.reading e.string).freshCells + s.lim.staleAllow
        ∧ s.lim.minOnBus ≤ s.othersOnBus e.string ∧ s.needsSourceAtStart e.recipe = true ∧ 1 ≤ s.site.allowance)
    ∧ (∀ s, s = site.modWater (fun w => { w with reservoir := 15000 }) ∨ s = thirsty →
      let e : Entry := ⟨0, .water, 0, .level, .normal, .auto, ⟨0, 0⟩⟩
      let s := scanning e s;
      e.kind = .water ∧ s.water.state = .idle ∧ s.site.reslow.level = false
        ∧ s.lim.reservoirReserveMl + s.lim.doseMinMl ≤ s.water.reservoir ∧ (s.cfg e.string).manifoldAddr ≠ 0xFF
        ∧ e.origin ≠ .recipe ∧ (s.control e.string).state = .onBus ∧ (s.control e.string).slot = none
        ∧ (s.charge e.string).qBal = 0 ∧ 1 ≤ s.lim.maxOpen)
    ∧ (site.buildPlan 0 = [] ∧ thirsty.buildPlan 0 = ⟨0, 10, 4000⟩ :: []
      ∧ 10 ≤ thirsty.water.reservoir - thirsty.lim.reservoirReserveMl)
    ∧ site.onlyAway 0 := by
  refine ⟨by decide +kernel, by decide +kernel, ?_, by decide +kernel, by unfold State.onlyAway; decide +kernel⟩
  rintro s (rfl | rfl) <;> decide +kernel

/-- S0 EQUALISING at the water point of recipe 3, its slot in WATER_WAIT, 15 litres in the reservoir. -/
def atPoint : State :=
  (equalising 3 4 .waterWait).modWater fun w => { w with reservoir := 15000 }

theorem witness_ScansAdmitByTheConditions_passed_over :
    (let x : Entry := ⟨1, .water, 0, .level, .urgent, .request, ⟨0, 0⟩⟩;
      (site.cfg x.string).manifoldAddr = 0xFF ∧ site.barred x ∧ ¬ (x.string = 0 ∧ x.kind = .water))
    ∧ (let x := older .normal .auto; (site.charge x.string).assumed = true ∧ x.recipe ≠ 0 ∧ site.barred x)
    ∧ (atPoint.atWaterPoint 0 ∧ atPoint.holds .A 0 ∧ (atPoint.slot .A).entryState = some .waterWait
      ∧ atPoint.buildPlan 0 = [])
    ∧ (let s := site.modWater fun w => { w with reservoir := 2010 };
      s.lim.reservoirReserveMl + s.lim.doseMinMl ≤ s.water.reservoir
        ∧ (s.modCell 0 fun c => { c with deficit := 40000 }).buildPlan 0 = ⟨0, 40, 16000⟩ :: []
        ∧ s.water.reservoir - s.lim.reservoirReserveMl < 40) := by
  refine ⟨⟨by decide +kernel, ?_, by decide⟩, ⟨by decide +kernel, by decide, ?_⟩,
    ⟨⟨by decide +kernel, .A, by decide +kernel, by decide +kernel⟩, ⟨by decide +kernel, by decide +kernel⟩,
      by decide +kernel, by decide +kernel⟩, by decide +kernel⟩
  · have h : (site.cfg 1).manifoldAddr = 0xFF := by decide +kernel
    simp [State.barred, State.waterBarred, h]
  · have h : (site.charge 0).assumed = true := by decide +kernel
    simp [State.barred, State.equaliseBarred, older, h]

/-- 3.9, R63: the scan admits S0 to slot A, with RECT ON at the float of 53.52 V and the confirmation of 20 s. -/
theorem test_scan_admits :
    let s := (scanning { older .normal .auto with recipe := 3 } (site.modCharge 0 fun c => { c with assumed := false })).scan
    ((s.control 0).state, (s.control 0).slot, (s.control 0).rectOrder, s.queue.length)
      = (.called, some .A, some (.on 5352 50), 0) := by decide +kernel

/-- R64, R128: RECT ON and CONTACTOR EQ are handed in this order; a watering round opens its group by one VALVE order. -/
theorem test_scan_orders :
    let s := (scanning { older .normal .auto with recipe := 3 } (site.modCharge 0 fun c => { c with assumed := false })).scan
    let w := (scanning ⟨0, .water, 0, .level, .normal, .auto, ⟨0, 0⟩⟩
      (thirsty.modCharge 0 fun c => { c with assumed := false })).scan
    s.ring.orders.map (fun o => (o.frame.dst, o.frame.payload)) = [(0x08, [1, 0x14, 0xE8, 0, 50]), (0x60, [2])]
      ∧ w.ring.orders.map (fun o => (o.frame.dst, o.frame.payload)) = [(0x70, [3, 0, 0, 0, 0, 0])] := by decide +kernel

end Sys2Proof.Tests
end

/-! ## Every step keeps the bounds -/

namespace Sys2Proof.Machine

/-- What keeps the bounds in a state whose time has passed keeps them as an event. -/
theorem event_ok {s t : State} {dt : Nat} {eff : State → State} (h : s.Ok) (e : event dt eff s = .next t)
    (k : ∀ u : State, u.Ok → (eff u).Ok) : t.Ok := by
  cases e
  exact State.settle_ok (k _ (State.begin_ok h dt))

theorem quietEvent_ok {s t : State} {dt : Nat} {eff : State → State} (h : s.Ok) (e : quietEvent dt eff s = .next t)
    (k : ∀ u : State, u.Ok → (eff u).Ok) : t.Ok := by
  cases e
  exact k _ (State.begin_ok h dt)

/-- An event whose condition fails only lets the time pass (log 2), which keeps the bounds too. -/
theorem eventIf_ok {s t : State} {dt : Nat} {cond : State → Bool} {eff : State → State} (h : s.Ok)
    (e : eventIf dt cond eff s = .next t) (k : ∀ u : State, u.Ok → (eff u).Ok) : t.Ok := by
  unfold eventIf at e
  split at e
  · exact event_ok h e k
  · cases e
    exact State.begin_ok h dt

/-- A request row names a SET_TIME day within the clock's range: its operand has two bytes. -/
theorem requestOf_day {c : Instr} {src : Byte} {p : Parsed} (h : requestOf c = some (src, p)) (d m : Nat)
    (hp : p = .request (.setTime d m)) : d ≤ 65535 := by
  subst hp
  cases c <;> simp only [requestOf, Option.some.injEq, Prod.mk.injEq, Parsed.request.injEq, reduceCtorEq, and_false] at h
  case setTime dt src' day minute =>
    obtain ⟨-, h⟩ := h
    cases h
    have := day.isLt
    omega

/-- Every request row keeps the bounds. -/
theorem request_ok {c : Instr} {s t : State} {src : Byte} {p : Parsed} (h : s.Ok) (hr : requestOf c = some (src, p))
    (e : exec c s = .next t) : t.Ok := by
  rw [exec_request hr] at e
  cases e
  exact State.settle_ok ((State.begin_ok h _).offer src p fun d m => requestOf_day hr d m)

/-- Every command keeps the bounds of a run. -/
theorem exec_ok {c : Instr} {s t : State} (h : s.Ok) (e : exec c s = .next t) : t.Ok := by
  cases c with
  | coldReset dt straps => cases e; exact State.coldReset_ok _ _
  | rawLineChange dt line high =>
    simp only [exec, execRawLineChange] at e
    exact quietEvent_ok h e fun u k => k.rawLine line high
  | srcChange dt =>
    simp only [exec, execSrcChange] at e
    exact eventIf_ok h e fun u k => (k.takeLevel .src).evolves (evolves_srcChanges (.refl _))
  | gasRise dt =>
    simp only [exec, execGasRise] at e
    exact eventIf_ok h e fun u k => (k.takeLevel .gas).gasTrips
  | gasFall dt =>
    simp only [exec, execGasFall] at e
    exact eventIf_ok h e fun u k => k.takeLevel .gas
  | reslowRise dt =>
    simp only [exec, execReslowRise] at e
    exact eventIf_ok h e fun u k => (k.takeLevel .reslow).evolves (evolves_reslowRises (.refl _))
  | reslowFall dt =>
    simp only [exec, execReslowFall] at e
    exact eventIf_ok h e fun u k => (k.takeLevel .reslow).evolves (evolves_markScan (.refl _))
  | trigEdge dt =>
    simp only [exec, execTrigEdge] at e
    exact eventIf_ok h e fun u k => (k.takeLevel .trig).trigChanges _
  | tachEdge dt =>
    simp only [exec, execTachEdge] at e
    exact quietEvent_ok h e fun u k => k.edge _ _
  | tachWindowEnd dt =>
    simp only [exec, execTachWindowEnd] at e
    exact eventIf_ok h e fun u k => k.takeWindowEnd
  | rxTimeout dt =>
    simp only [exec, execRxTimeout] at e
    exact eventIf_ok h e fun u k => k.rxTimeout
  | frameReceived dt check =>
    simp only [exec, execFrameReceived] at e
    exact eventIf_ok h e fun u k => k.takeCheck check
  | applyPendingCommit dt =>
    simp only [exec, execApplyPendingCommit] at e
    exact eventIf_ok h e fun u k => k.evolves (evolves_applyPending (.refl _))
  | siteMinute dt =>
    simp only [exec, execSiteMinute] at e
    exact eventIf_ok h e fun u k => k.minutePasses
  | freshnessExpiry dt value =>
    simp only [exec, execFreshnessExpiry] at e
    exact eventIf_ok h e fun u k => k.evolves (evolves_becomeStale (.refl _) value)
  | dischargeHoldoffEnd dt =>
    simp only [exec, execDischargeHoldoffEnd] at e
    exact eventIf_ok h e fun u k => k.evolves (evolves_holdoffEnds (.refl _))
  | confirmExpiry dt str =>
    simp only [exec, execConfirmExpiry] at e
    exact eventIf_ok h e fun u k => k.evolves (evolves_enterFaulted (.refl _) str)
  | matchDeadline dt str =>
    simp only [exec, execMatchDeadline] at e
    exact eventIf_ok h e fun u k => k.evolves (evolves_toConfirm (.refl _) str)
  | rectRefresh dt str =>
    simp only [exec, execRectRefresh] at e
    refine eventIf_ok h e fun u k => k.evolves ?_
    unfold State.refreshRect
    split
    · exact evolves_stringRect (.refl _) str _
    · exact .refl _
  | slotRefresh dt slot =>
    simp only [exec, execSlotRefresh] at e
    refine eventIf_ok h e fun u k => k.evolves ?_
    unfold State.refreshSlot
    split
    · exact evolves_handRect (evolves_modSlot (.refl _) slot _) slot _
    · exact .refl _
  | phaseTimeup dt slot =>
    simp only [exec, execPhaseTimeup] at e
    exact eventIf_ok h e fun u k => k.evolves (evolves_nextEntry (.refl _) slot)
  | criterionMet dt slot =>
    simp only [exec, execCriterionMet] at e
    exact eventIf_ok h e fun u k => k.evolves (evolves_nextEntry (.refl _) slot)
  | waitEnd dt slot =>
    simp only [exec, execWaitEnd] at e
    exact eventIf_ok h e fun u k => k.evolves (evolves_nextEntry (.refl _) slot)
  | waterWaitExpiry dt slot =>
    simp only [exec, execWaterWaitExpiry] at e
    refine eventIf_ok h e fun u k => k.evolves ?_
    unfold State.waterWaitOver
    split
    · exact evolves_endWaterWait (evolves_withdrawWater (.refl _) _) slot
    · exact evolves_endWaterWait (.refl _) slot
  | suspendLimit dt slot =>
    simp only [exec, execSuspendLimit] at e
    exact eventIf_ok h e fun u k => k.evolves (evolves_slotEnds (.refl _) slot _)
  | noSource dt slot =>
    simp only [exec, execNoSource] at e
    exact eventIf_ok h e fun u k => k.evolves (evolves_slotEnds (.refl _) slot _)
  | directTimeup dt slot =>
    simp only [exec, execDirectTimeup] at e
    exact eventIf_ok h e fun u k => k.evolves (evolves_slotEnds (.refl _) slot _)
  | valveClose dt pos =>
    simp only [exec, execValveClose] at e
    refine eventIf_ok h e fun u k => k.evolves ?_
    unfold State.closeDue
    split
    · exact evolves_closeValve (.refl _) _ pos _ _
    · exact .refl _
  | gapEnd dt =>
    simp only [exec, execGapEnd] at e
    refine eventIf_ok h e fun u k => k.evolves ?_
    unfold State.gapOver
    split
    · exact evolves_endGap (.refl _) _
    · exact .refl _
  | confirmDeadlineExpiry dt cell =>
    simp only [exec, execConfirmDeadlineExpiry] at e
    exact eventIf_ok h e fun u k => k.evolves (evolves_deadlineExpires (.refl _) cell)
  | genEnd dt =>
    simp only [exec, execGenEnd] at e
    exact eventIf_ok h e fun u k => k.evolves (evolves_genEnds (.refl _))
  | runOnEnd dt =>
    simp only [exec, execRunOnEnd] at e
    exact eventIf_ok h e fun u k => k.modSite (fun t => { t with runOnEnd := none }) ⟨k.site.1, k.site.2.1, k.site.2.2.1, fun _ => rfl⟩ rfl
  | warnExpiry dt =>
    simp only [exec, execWarnExpiry] at e
    exact eventIf_ok h e fun u k => k.evolves (evolves_ite (evolves_goBlind (.refl _)) (evolves_goWarn (.refl _)))
  | blindExpiry dt =>
    simp only [exec, execBlindExpiry] at e
    exact eventIf_ok h e fun u k => k.evolves (evolves_goBlind (.refl _))
  | blindRepeat dt =>
    simp only [exec, execBlindRepeat] at e
    exact eventIf_ok h e fun u k => k.evolves (evolves_blindOrders (.refl _))
  | outputFrameEnd dt =>
    simp only [exec, execOutputFrameEnd] at e
    exact eventIf_ok h e fun u k => k.outputEnds
  | ringInputByte dt byte =>
    have e : execRingInputByte dt byte s = .next t := e
    unfold execRingInputByte at e
    split at e
    · exact event_ok h e fun u k => k.takeCheck byte
    · exact quietEvent_ok h e fun u k => k.takeByte _ byte
  | _ => exact request_ok h rfl e

/-- The queue of waiting commands is no item of the bounds. -/
theorem State.Ok.withPending {s : State} (h : s.Ok) (cs : List Instr) : State.Ok { s with pending := cs } :=
  ⟨h.ring, h.counts, h.cells, h.clock, h.gas, h.queue, h.site, h.pump⟩

theorem State.Ok.withNow {s : State} (h : s.Ok) (n : Nat) : State.Ok { s with now := n } :=
  ⟨h.ring, h.counts, h.cells, h.clock, h.gas, h.queue, h.site, h.pump⟩

/-- A tick of an idle part keeps the bounds of a run. -/
theorem State.Ok.tick {s : State} (h : s.Ok) : s.tick.Ok := by
  have k := (elapse_evolves (wet := true) (com := true) s 1).ok (h.withNow _)
  unfold State.tick
  exact k.withPending _

/-- Settles O6: the bounds are kept by the time that passes, by what each command does and by the settlement of its event. -/
theorem everyStepKeepsBounds : Obligations.EveryStepKeepsBounds := by
  intro s t h e
  unfold step at e
  split at e
  · exact exec_ok (h.withPending _) e
  · cases e
    exact h.tick

end Sys2Proof.Machine

/-! ## The values of a cold reset -/

namespace Sys2Proof.Machine

theorem State.reset_cell (i : CellIx) : State.reset.cell i = {} := by
  simp [State.cell, State.reset]

theorem State.reset_str (i : Str) : State.reset.str i = {} := by
  simp [State.str, State.reset]

/-- The committed images are zero bytes of each table's size after a cold reset (R43). -/
theorem State.reset_images (tb : TableId) : State.reset.images.get tb = List.replicate tb.size 0 := by
  cases tb <;> rfl

/-- The straps are added to 0xF0 without a carry (R156). -/
theorem strappedAddress_eq (straps : BitVec 2) : strappedAddress straps = BitVec.ofNat 8 (0xF0 + straps.toNat) := by
  revert straps; decide

/-- Settles O4: each cold value is the default of its record, and COLD_RESET is one quiet event. -/
theorem coldResetRestoresColdValues : Obligations.ColdResetRestoresColdValues := by
  refine ⟨State.reset_cell, fun i => ?_, fun sl => by cases sl <;> rfl, rfl, rfl, rfl, rfl, rfl, rfl, rfl, rfl, rfl, rfl, rfl,
    State.reset_images, fun s dt straps => ?_⟩
  · have h := State.reset_str i
    exact ⟨congrArg StringRec.reading h, congrArg StringRec.charge h, congrArg StringRec.control h⟩
  · rw [← strappedAddress_eq]
    simp only [exec, execColdReset, quietEvent, State.coldReset, Site.coldReset, State.begin_now, State.begin_pending,
      State.begin_site]
    rfl

end Sys2Proof.Machine

/-! ## What is due, and the rows that are no event -/

namespace Sys2Proof.Machine

/-! ### The conditions of the timed rows -/

theorem State.reached_iff (s : State) (t : Option Nat) : s.reached t = true ↔ s.past t := by
  cases t <;> simp [State.reached, State.past]

/-- An expiry a fixed time after a stamp. -/
theorem State.reached_map_iff (s : State) (t : Option Nat) (d : Nat) :
    s.reached (t.map (· + d)) = true ↔ ∃ e, t = some e ∧ e + d ≤ s.now := by
  cases t <;> simp [State.reached]

theorem State.settled_iff (s : State) (l : Line) (high : Bool) :
    s.settled l high = true ↔ s.lineDue (s.site.filter l) high := by
  simp [State.settled, State.lineDue, State.reached_iff, and_assoc]

theorem State.settled_either (s : State) (l : Line) :
    (s.settled l true || s.settled l false) = true ↔ ∃ high, s.lineDue (s.site.filter l) high := by
  simp only [Bool.or_eq_true, State.settled_iff, Bool.exists_bool]
  exact or_comm

theorem State.endedWindow_isSome (s : State) : s.endedWindow.isSome = true
    ↔ s.site.measuring = true ∧ ∃ w, s.site.window = some w ∧ w.start + 1000 ≤ s.now := by
  unfold State.endedWindow
  cases s.site.window with
  | none => simp
  | some w => dsimp only; split <;> simp_all

theorem State.rxSilent_iff (s : State) : s.rxSilent = true ↔ s.ring.rx ≠ .hunt ∧ s.ring.rxLast + 2 < s.now := by
  unfold State.rxSilent
  cases s.ring.rx <;> simp

theorem State.outputDue_iff (s : State) : s.outputDue = true
    ↔ ∃ x, s.ring.sending = some x ∧ x.begun * 1000 + 40 * (7 + x.frame.payload.length) ≤ s.now * 1000 := by
  unfold State.outputDue frameMicros
  cases s.ring.sending <;> simp

theorem State.warns_iff (s : State) : s.warns = true ↔ s.mgmt.loaded.limits = true ∧ s.ring.sight = .seeing
    ∧ ∃ g, s.ring.lastGood = some g ∧ g + s.lim.silenceWarnMs ≤ s.now := by
  simp [State.warns, State.limitsLoaded, State.warnDue, State.reached_map_iff, and_assoc]

theorem State.blinds_iff (s : State) : s.blinds = true ↔ s.mgmt.loaded.limits = true ∧ s.ring.sight ≠ .blind
    ∧ ∃ g, s.ring.lastGood = some g ∧ g + s.lim.silenceBlindS * 1000 ≤ s.now := by
  simp [State.blinds, State.limitsLoaded, State.blindDue, State.reached_map_iff, and_assoc]

theorem State.confirmRunsOut_iff (s : State) (i : Str) :
    (s.confirming i && (s.control i).confirmLeft == some 0) = true ↔ s.ring.sight = .seeing
      ∧ ((s.control i).state = .called ∨ (s.control i).state = .returning ∧ (s.control i).step = some .confirm)
      ∧ (s.control i).confirmLeft = some 0 := by
  simp [State.confirming, State.inState, and_assoc]

theorem State.matchOver_iff (s : State) (i : Str) : s.matchOver i = true ↔ (s.control i).state = .returning
    ∧ (s.control i).step = some .matching ∧ s.past (s.control i).matchDeadline := by
  simp [State.matchOver, State.inState, State.reached_iff, and_assoc]

theorem State.rectRefreshDue_iff (s : State) (i : Str) : s.rectRefreshDue i = true ↔ (s.control i).slot ≠ none
    ∧ (s.control i).state ≠ .equalising ∧ (s.control i).rectOrder ≠ none
    ∧ ∃ t, (s.control i).lastRectTime = some t ∧ t + s.lim.orderRefreshS * 1000 ≤ s.now := by
  simp [State.rectRefreshDue, State.refreshDue, State.reached_map_iff, Option.isSome_iff_ne_none, and_assoc]

theorem State.slotRefreshDue_iff (s : State) (sl : SlotId) : s.slotRefreshDue sl = true ↔ (s.slot sl).entryState ≠ none
    ∧ (s.slot sl).lastOrder ≠ none
    ∧ ∃ t, (s.slot sl).lastOrderTime = some t ∧ t + s.lim.orderRefreshS * 1000 ≤ s.now := by
  simp [State.slotRefreshDue, State.refreshDue, State.reached_map_iff, Option.isSome_iff_ne_none, and_assoc]

theorem State.runningPhase_eq_some (s : State) (sl : SlotId) (p : PhaseRec) : s.runningPhase sl = some p
    ↔ (s.slot sl).entryState = some .run ∧ (s.slot sl).recipe ≠ 0 ∧ ∃ id, s.slotEntry sl = .phase id ∧ s.phase id = p := by
  unfold State.runningPhase
  split
  · next h =>
    simp only [h, ne_eq, not_false_eq_true, true_and]
    split
    · next id e => simp [e]
    · next e => simpa using fun id h' => absurd h' (e id)
  · next h => simpa using fun h1 h2 => absurd ⟨h1, h2⟩ h

theorem State.phaseTimeup_iff (s : State) (sl : SlotId) : s.phaseTimeup sl = true ↔ (s.slot sl).entryState = some .run
    ∧ (s.slot sl).recipe ≠ 0 ∧ (∃ id, s.slotEntry sl = .phase id)
    ∧ (s.slot sl).dEff * 60000 ≤ (s.slot sl).runElapsed := by
  simp [State.phaseTimeup, Option.isSome_iff_exists, State.runningPhase_eq_some, and_assoc]

theorem State.criterionMet_iff (s : State) (sl : SlotId) : s.criterionMet sl = true ↔ (s.slot sl).entryState = some .run
    ∧ (s.slot sl).recipe ≠ 0 ∧ ∃ id c, s.slotEntry sl = .phase id ∧ (s.phase id).criterion ≠ .none
      ∧ (s.slot sl).critStart = some c ∧ c + (s.phase id).critHoldMin * 60000 ≤ (s.slot sl).runElapsed := by
  have h : s.criterionMet sl = true ↔ ∃ p c, s.runningPhase sl = some p ∧ (s.slot sl).critStart = some c
      ∧ p.criterion ≠ .none ∧ c + p.critHoldMin * 60000 ≤ (s.slot sl).runElapsed := by
    unfold State.criterionMet
    cases s.runningPhase sl <;> cases (s.slot sl).critStart <;> simp
  rw [h]
  simp only [State.runningPhase_eq_some]
  constructor
  · rintro ⟨p, c, ⟨h1, h2, id, h3, rfl⟩, h4, h5, h6⟩
    exact ⟨h1, h2, id, c, h3, h5, h4, h6⟩
  · rintro ⟨h1, h2, id, c, h3, h4, h5, h6⟩
    exact ⟨_, c, ⟨h1, h2, id, h3, rfl⟩, h5, h4, h6⟩

theorem State.sourceWaitOver_iff (s : State) (sl : SlotId) : s.sourceWaitOver sl = true
    ↔ (s.slot sl).entryState ≠ none ∧ (s.slot sl).reasons.source = true
      ∧ ∃ t, (s.slot sl).sourceWaitStart = some t ∧ t + s.lim.sourceWaitMin * 60000 ≤ s.now := by
  simp [State.sourceWaitOver, State.reached_map_iff, Option.isSome_iff_ne_none, and_assoc]

theorem State.valveDue_isSome (s : State) (p : Pos) : (s.valveDue p).isSome = true ↔ s.water.state = .dosing
    ∧ s.water.string ≠ none ∧ p ∈ s.water.openSet
    ∧ ∃ g t, s.groupItem? p = some g ∧ g.sent = some t ∧ t + g.openMs ≤ s.now := by
  unfold State.valveDue
  cases s.water.string with
  | none => simp
  | some i =>
    cases s.groupItem? p with
    | none => simp
    | some g =>
      dsimp only
      split
      · next h =>
        obtain ⟨h1, h2, h3⟩ := h
        obtain ⟨t, h4, h5⟩ := (s.reached_map_iff _ _).mp h3
        simpa [h1, List.contains_iff_mem.mp h2] using ⟨t, h4, h5⟩
      · next h =>
        simp only [Option.isSome_none, Bool.false_eq_true, false_iff]
        rintro ⟨h1, -, h2, g', t, e, h4, h5⟩
        cases e
        exact h ⟨h1, List.contains_iff_mem.mpr h2, (s.reached_map_iff _ _).mpr ⟨t, h4, h5⟩⟩

/-- No string is bound (R61). -/
theorem State.boundCount_eq_zero (s : State) : s.boundCount = 0 ↔ ∀ i, (s.control i).slot = none := by
  simp only [State.boundCount, List.length_eq_zero_iff, List.filter_eq_nil_iff, State.bound, Option.not_isSome_iff_eq_none]
  exact ⟨fun h i => h i (mem_allStrs i), fun h i _ => h i⟩

theorem State.mayApply_iff (s : State) :
    s.mayApply = true ↔ s.water.state = .idle ∧ ∀ i, (s.control i).slot = none := by
  simp [State.mayApply, State.boundCount_eq_zero, and_comm]

theorem State.appliesPending_iff (s : State) : s.appliesPending = true ↔ s.mgmt.staging = .pending
    ∧ s.mgmt.stagedTable ≠ none ∧ s.water.state = .idle ∧ ∀ i, (s.control i).slot = none := by
  simp only [State.appliesPending, State.commitPending, Bool.and_eq_true, State.mayApply_iff, beq_iff_eq,
    Option.isSome_iff_ne_none]
  tauto

/-! ### The events that are due -/

theorem mem_dueIf {b : Bool} {c d : Instr} : c ∈ dueIf b d ↔ b = true ∧ c = d := by
  cases b <;> simp [dueIf]

theorem mem_allSlots (sl : SlotId) : sl ∈ allSlots := by cases sl <;> decide

theorem mem_allPos (p : Pos) : p ∈ allPos := by revert p; decide

/-- The expiries of each block that are due, row by row. -/
theorem State.mem_dueLines (s : State) (c : Instr) : c ∈ s.dueLines ↔
    (∃ high, s.lineDue s.site.src high) ∧ c = .srcChange 0 ∨ s.lineDue s.site.gas true ∧ c = .gasRise 0
      ∨ s.lineDue s.site.gas false ∧ c = .gasFall 0 ∨ s.lineDue s.site.reslow true ∧ c = .reslowRise 0
      ∨ s.lineDue s.site.reslow false ∧ c = .reslowFall 0
      ∨ (∃ high, s.lineDue s.site.trig high) ∧ c = .trigEdge 0 := by
  simp only [State.dueLines, List.mem_append, mem_dueIf, State.settled_either, State.settled_iff, Site.filter, or_assoc]

theorem State.mem_dueSite (s : State) (c : Instr) : c ∈ s.dueSite ↔
    s.dueNow (.tachWindowEnd 0) ∧ c = .tachWindowEnd 0 ∨ s.dueNow (.genEnd 0) ∧ c = .genEnd 0
      ∨ s.dueNow (.runOnEnd 0) ∧ c = .runOnEnd 0 ∨ s.dueNow (.dischargeHoldoffEnd 0) ∧ c = .dischargeHoldoffEnd 0
      ∨ s.dueNow (.siteMinute 0) ∧ c = .siteMinute 0 := by
  simp only [State.dueSite, List.mem_append, mem_dueIf, State.endedWindow_isSome, State.reached_iff, State.dueNow,
    decide_eq_true_eq, or_assoc]

theorem State.mem_dueRing (s : State) (c : Instr) : c ∈ s.dueRing ↔
    s.dueNow (.rxTimeout 0) ∧ c = .rxTimeout 0 ∨ s.dueNow (.outputFrameEnd 0) ∧ c = .outputFrameEnd 0
      ∨ s.dueNow (.warnExpiry 0) ∧ c = .warnExpiry 0 ∨ s.dueNow (.blindExpiry 0) ∧ c = .blindExpiry 0
      ∨ s.dueNow (.blindRepeat 0) ∧ c = .blindRepeat 0 := by
  simp only [State.dueRing, List.mem_append, mem_dueIf, State.rxSilent_iff, State.outputDue_iff, State.warns_iff,
    State.blinds_iff, Bool.and_eq_true, beq_iff_eq, State.reached_iff, State.dueNow, or_assoc]

theorem State.mem_dueCell (s : State) (i : CellIx) (c : Instr) : c ∈ s.dueCell i ↔
    s.dueNow (.freshnessExpiry 0 (.cellVoltage i)) ∧ c = .freshnessExpiry 0 (.cellVoltage i)
      ∨ s.dueNow (.freshnessExpiry 0 (.cellTemp i)) ∧ c = .freshnessExpiry 0 (.cellTemp i)
      ∨ s.dueNow (.confirmDeadlineExpiry 0 i) ∧ c = .confirmDeadlineExpiry 0 i := by
  simp only [State.dueCell, List.mem_append, mem_dueIf, State.reached_iff, State.dueNow, or_assoc]

theorem State.mem_dueStr (s : State) (i : Str) (c : Instr) : c ∈ s.dueStr i ↔
    s.dueNow (.freshnessExpiry 0 (.terminal i)) ∧ c = .freshnessExpiry 0 (.terminal i)
      ∨ s.dueNow (.confirmExpiry 0 i) ∧ c = .confirmExpiry 0 i ∨ s.dueNow (.matchDeadline 0 i) ∧ c = .matchDeadline 0 i
      ∨ s.dueNow (.rectRefresh 0 i) ∧ c = .rectRefresh 0 i := by
  simp only [State.dueStr, List.mem_append, mem_dueIf, State.reached_iff, State.confirmRunsOut_iff, State.matchOver_iff,
    State.rectRefreshDue_iff, State.dueNow, or_assoc]

theorem State.mem_dueSlot (s : State) (sl : SlotId) (c : Instr) : c ∈ s.dueSlot sl ↔
    s.dueNow (.slotRefresh 0 sl) ∧ c = .slotRefresh 0 sl ∨ s.dueNow (.phaseTimeup 0 sl) ∧ c = .phaseTimeup 0 sl
      ∨ s.dueNow (.criterionMet 0 sl) ∧ c = .criterionMet 0 sl ∨ s.dueNow (.waitEnd 0 sl) ∧ c = .waitEnd 0 sl
      ∨ s.dueNow (.waterWaitExpiry 0 sl) ∧ c = .waterWaitExpiry 0 sl
      ∨ s.dueNow (.suspendLimit 0 sl) ∧ c = .suspendLimit 0 sl ∨ s.dueNow (.noSource 0 sl) ∧ c = .noSource 0 sl
      ∨ s.dueNow (.directTimeup 0 sl) ∧ c = .directTimeup 0 sl := by
  simp only [State.dueSlot, List.mem_append, mem_dueIf, State.slotRefreshDue_iff, State.phaseTimeup_iff,
    State.criterionMet_iff, State.sourceWaitOver_iff, Bool.and_eq_true, beq_iff_eq, decide_eq_true_eq, State.reached_iff,
    State.dueNow, or_assoc]
  rfl

theorem State.mem_dueUnit (s : State) (c : Instr) : c ∈ s.dueUnit ↔
    (∃ p, s.dueNow (.valveClose 0 p) ∧ c = .valveClose 0 p) ∨ s.dueNow (.gapEnd 0) ∧ c = .gapEnd 0
      ∨ s.dueNow (.applyPendingCommit 0) ∧ c = .applyPendingCommit 0 := by
  simp only [State.dueUnit, List.mem_append, List.mem_flatMap, mem_allPos, true_and, mem_dueIf, State.valveDue_isSome,
    State.appliesPending_iff, Bool.and_eq_true, beq_iff_eq, Option.isSome_iff_ne_none (o := s.water.string), State.reached_iff,
    State.dueNow, or_assoc, and_assoc]

theorem State.mem_dueEvents_lists (s : State) (c : Instr) : c ∈ s.dueEvents ↔ c ∈ s.dueLines ∨ c ∈ s.dueSite
    ∨ c ∈ s.dueRing ∨ (∃ i, c ∈ s.dueStr i) ∨ (∃ sl, c ∈ s.dueSlot sl) ∨ c ∈ s.dueUnit ∨ ∃ i, c ∈ s.dueCell i := by
  simp [State.dueEvents, List.mem_flatMap, mem_allStrs, mem_allSlots]

/-- The queue of a tick holds exactly what is due, to take no further time (log 3). -/
theorem State.mem_dueEvents (s : State) (c : Instr) : c ∈ s.dueEvents ↔ dtOf c = 0 ∧ s.dueNow c := by
  rw [s.mem_dueEvents_lists]
  constructor
  · simp only [State.mem_dueLines, State.mem_dueSite, State.mem_dueRing, State.mem_dueStr, State.mem_dueSlot,
      State.mem_dueUnit, State.mem_dueCell]
    rintro ((⟨h, rfl⟩ | ⟨h, rfl⟩ | ⟨h, rfl⟩ | ⟨h, rfl⟩ | ⟨h, rfl⟩ | ⟨h, rfl⟩)
      | (⟨h, rfl⟩ | ⟨h, rfl⟩ | ⟨h, rfl⟩ | ⟨h, rfl⟩ | ⟨h, rfl⟩)
      | (⟨h, rfl⟩ | ⟨h, rfl⟩ | ⟨h, rfl⟩ | ⟨h, rfl⟩ | ⟨h, rfl⟩)
      | ⟨i, ⟨h, rfl⟩ | ⟨h, rfl⟩ | ⟨h, rfl⟩ | ⟨h, rfl⟩⟩
      | ⟨sl, ⟨h, rfl⟩ | ⟨h, rfl⟩ | ⟨h, rfl⟩ | ⟨h, rfl⟩ | ⟨h, rfl⟩ | ⟨h, rfl⟩ | ⟨h, rfl⟩ | ⟨h, rfl⟩⟩
      | (⟨p, h, rfl⟩ | ⟨h, rfl⟩ | ⟨h, rfl⟩)
      | ⟨i, ⟨h, rfl⟩ | ⟨h, rfl⟩ | ⟨h, rfl⟩⟩) <;> exact ⟨rfl, h⟩
  · rintro ⟨h0, h⟩
    cases c <;> first | exact False.elim h | obtain rfl : _ = 0 := h0
    case srcChange | gasRise | gasFall | reslowRise | reslowFall | trigEdge =>
      exact .inl ((s.mem_dueLines _).mpr (by simpa [State.dueNow] using h))
    case tachWindowEnd | genEnd | runOnEnd | dischargeHoldoffEnd | siteMinute =>
      exact .inr (.inl ((s.mem_dueSite _).mpr (by simpa using h)))
    case rxTimeout | outputFrameEnd | warnExpiry | blindExpiry | blindRepeat =>
      exact .inr (.inr (.inl ((s.mem_dueRing _).mpr (by simpa using h))))
    case confirmExpiry i | matchDeadline i | rectRefresh i =>
      exact .inr (.inr (.inr (.inl ⟨i, (s.mem_dueStr i _).mpr (by simpa using h)⟩)))
    case slotRefresh sl | phaseTimeup sl | criterionMet sl | waitEnd sl | waterWaitExpiry sl | suspendLimit sl
        | noSource sl | directTimeup sl =>
      exact .inr (.inr (.inr (.inr (.inl ⟨sl, (s.mem_dueSlot sl _).mpr (by simpa using h)⟩))))
    case valveClose | gapEnd | applyPendingCommit =>
      exact .inr (.inr (.inr (.inr (.inr (.inl ((s.mem_dueUnit _).mpr (by simpa using h)))))))
    case confirmDeadlineExpiry i =>
      exact .inr (.inr (.inr (.inr (.inr (.inr ⟨i, (s.mem_dueCell i _).mpr (by simpa using h)⟩)))))
    case freshnessExpiry v =>
      cases v with
      | terminal i => exact .inr (.inr (.inr (.inl ⟨i, (s.mem_dueStr i _).mpr (by simpa using h)⟩)))
      | cellVoltage i | cellTemp i =>
        exact .inr (.inr (.inr (.inr (.inr (.inr ⟨i, (s.mem_dueCell i _).mpr (by simpa using h)⟩)))))

/-! ### The rows that are no event -/

/-- The rows that are an event exactly when they are due. The end of a frame at the output is none of them: a row may give it
before the frame has taken its time (log 22). -/
def isExpiry : Instr → Bool
  | .srcChange .. => true
  | .gasRise .. => true
  | .gasFall .. => true
  | .reslowRise .. => true
  | .reslowFall .. => true
  | .trigEdge .. => true
  | .tachWindowEnd .. => true
  | .genEnd .. => true
  | .runOnEnd .. => true
  | .dischargeHoldoffEnd .. => true
  | .siteMinute .. => true
  | .rxTimeout .. => true
  | .warnExpiry .. => true
  | .blindExpiry .. => true
  | .blindRepeat .. => true
  | .confirmDeadlineExpiry .. => true
  | .confirmExpiry .. => true
  | .matchDeadline .. => true
  | .rectRefresh .. => true
  | .slotRefresh .. => true
  | .phaseTimeup .. => true
  | .criterionMet .. => true
  | .waitEnd .. => true
  | .waterWaitExpiry .. => true
  | .suspendLimit .. => true
  | .noSource .. => true
  | .directTimeup .. => true
  | .valveClose .. => true
  | .gapEnd .. => true
  | .applyPendingCommit .. => true
  | .freshnessExpiry .. => true
  | _ => false

/-- An event whose condition fails after its time lets the time pass alone (log 2). -/
theorem eventIf_idle {s : State} {dt : Nat} {cond : State → Bool} {eff : State → State} {P : Prop}
    (hc : cond (s.begin dt) = true ↔ P) (h : ¬ P) : eventIf dt cond eff s = .next (s.begin dt) :=
  if_neg fun e => h (hc.mp e)

/-- A row that is not due after its time lets the time pass alone (log 2). -/
theorem exec_not_due {c : Instr} {s : State} {dt : Nat} (hd : dtOf c = dt) (hc : isExpiry c = true)
    (h : ¬ (s.begin dt).dueNow c) : exec c s = .next (s.begin dt) := by
  subst hd
  cases c with
  | srcChange dt => simp only [exec, execSrcChange]; exact eventIf_idle (State.settled_either _ _) h
  | gasRise dt => simp only [exec, execGasRise]; exact eventIf_idle (State.settled_iff _ _ _) h
  | gasFall dt => simp only [exec, execGasFall]; exact eventIf_idle (State.settled_iff _ _ _) h
  | reslowRise dt => simp only [exec, execReslowRise]; exact eventIf_idle (State.settled_iff _ _ _) h
  | reslowFall dt => simp only [exec, execReslowFall]; exact eventIf_idle (State.settled_iff _ _ _) h
  | trigEdge dt => simp only [exec, execTrigEdge]; exact eventIf_idle (State.settled_either _ _) h
  | tachWindowEnd dt => simp only [exec, execTachWindowEnd]; exact eventIf_idle (State.endedWindow_isSome _) h
  | genEnd dt => simp only [exec, execGenEnd]; exact eventIf_idle (State.reached_iff _ _) h
  | runOnEnd dt => simp only [exec, execRunOnEnd]; exact eventIf_idle (State.reached_iff _ _) h
  | dischargeHoldoffEnd dt => simp only [exec, execDischargeHoldoffEnd]; exact eventIf_idle (State.reached_iff _ _) h
  | siteMinute dt => simp only [exec, execSiteMinute]; exact eventIf_idle decide_eq_true_iff h
  | rxTimeout dt => simp only [exec, execRxTimeout]; exact eventIf_idle (State.rxSilent_iff _) h
  | warnExpiry dt => simp only [exec, execWarnExpiry]; exact eventIf_idle (State.warns_iff _) h
  | blindExpiry dt => simp only [exec, execBlindExpiry]; exact eventIf_idle (State.blinds_iff _) h
  | blindRepeat dt => simp only [exec, execBlindRepeat]; exact eventIf_idle (by simp [State.dueNow, dtOf, State.reached_iff]) h
  | confirmDeadlineExpiry dt i => simp only [exec, execConfirmDeadlineExpiry]; exact eventIf_idle (State.reached_iff _ _) h
  | confirmExpiry dt i => simp only [exec, execConfirmExpiry]; exact eventIf_idle (State.confirmRunsOut_iff _ _) h
  | matchDeadline dt i => simp only [exec, execMatchDeadline]; exact eventIf_idle (State.matchOver_iff _ _) h
  | rectRefresh dt i => simp only [exec, execRectRefresh]; exact eventIf_idle (State.rectRefreshDue_iff _ _) h
  | slotRefresh dt sl => simp only [exec, execSlotRefresh]; exact eventIf_idle (State.slotRefreshDue_iff _ _) h
  | phaseTimeup dt sl => simp only [exec, execPhaseTimeup]; exact eventIf_idle (State.phaseTimeup_iff _ _) h
  | criterionMet dt sl => simp only [exec, execCriterionMet]; exact eventIf_idle (State.criterionMet_iff _ _) h
  | waitEnd dt sl => simp only [exec, execWaitEnd]; exact eventIf_idle (by simp [State.dueNow, dtOf, State.reached_iff]) h
  | waterWaitExpiry dt sl => simp only [exec, execWaterWaitExpiry]; exact eventIf_idle (by simp [State.dueNow, dtOf, State.reached_iff]) h
  | suspendLimit dt sl => simp only [exec, execSuspendLimit]; exact eventIf_idle (by simp [State.dueNow, dtOf, State.suspendMs]) h
  | noSource dt sl => simp only [exec, execNoSource]; exact eventIf_idle (State.sourceWaitOver_iff _ _) h
  | directTimeup dt sl => simp only [exec, execDirectTimeup]; exact eventIf_idle (by simp [State.dueNow, dtOf]) h
  | valveClose dt p => simp only [exec, execValveClose]; exact eventIf_idle (State.valveDue_isSome _ _) h
  | gapEnd dt => simp only [exec, execGapEnd]; exact eventIf_idle (by simp [State.dueNow, dtOf, State.reached_iff, Option.isSome_iff_ne_none, and_assoc]) h
  | applyPendingCommit dt => simp only [exec, execApplyPendingCommit]; exact eventIf_idle (State.appliesPending_iff _) h
  | freshnessExpiry dt v =>
    simp only [exec, execFreshnessExpiry]
    exact eventIf_idle (P := (s.begin dt).dueNow (.freshnessExpiry dt v)) (by cases v <;> exact State.reached_iff _ _) h
  | _ => cases hc

/-- An expiry that has not been reached when the time of a row has passed. -/
theorem State.not_past_begin {s : State} {dt : Nat} {t : Option Nat} (h : ∀ e, t = some e → s.now + dt < e) :
    ¬ (s.begin dt).past t := by
  rintro ⟨e, rfl, k⟩
  have := h e rfl
  rw [State.begin_now] at k
  omega

/-- The timers of a string and of a slot that the passing of time does not move. -/
theorem State.begin_control_kept (s : State) (dt : Nat) (i : Str) :
    ((s.begin dt).control i).state = (s.control i).state ∧ ((s.begin dt).control i).step = (s.control i).step
      ∧ ((s.begin dt).control i).slot = (s.control i).slot
      ∧ ((s.begin dt).control i).matchDeadline = (s.control i).matchDeadline
      ∧ ((s.begin dt).control i).rectOrder = (s.control i).rectOrder
      ∧ ((s.begin dt).control i).lastRectTime = (s.control i).lastRectTime := by
  rw [State.begin_control]
  split <;> exact ⟨rfl, rfl, rfl, rfl, rfl, rfl⟩

/-! The items of a slot record that the passing of time does not move. -/

@[simp] theorem SlotRec.elapse_string (dt : Nat) (r : SlotRec) : (r.elapse dt).string = r.string := by
  unfold SlotRec.elapse; split <;> rfl
@[simp] theorem SlotRec.elapse_recipe (dt : Nat) (r : SlotRec) : (r.elapse dt).recipe = r.recipe := by
  unfold SlotRec.elapse; split <;> rfl
@[simp] theorem SlotRec.elapse_reason (dt : Nat) (r : SlotRec) : (r.elapse dt).reason = r.reason := by
  unfold SlotRec.elapse; split <;> rfl
@[simp] theorem SlotRec.elapse_priority (dt : Nat) (r : SlotRec) : (r.elapse dt).priority = r.priority := by
  unfold SlotRec.elapse; split <;> rfl
@[simp] theorem SlotRec.elapse_triggerStarted (dt : Nat) (r : SlotRec) : (r.elapse dt).triggerStarted = r.triggerStarted := by
  unfold SlotRec.elapse; split <;> rfl
@[simp] theorem SlotRec.elapse_index (dt : Nat) (r : SlotRec) : (r.elapse dt).index = r.index := by
  unfold SlotRec.elapse; split <;> rfl
@[simp] theorem SlotRec.elapse_entryState (dt : Nat) (r : SlotRec) : (r.elapse dt).entryState = r.entryState := by
  unfold SlotRec.elapse; split <;> rfl
@[simp] theorem SlotRec.elapse_resumeState (dt : Nat) (r : SlotRec) : (r.elapse dt).resumeState = r.resumeState := by
  unfold SlotRec.elapse; split <;> rfl
@[simp] theorem SlotRec.elapse_limit (dt : Nat) (r : SlotRec) : (r.elapse dt).limit = r.limit := by
  unfold SlotRec.elapse; split <;> rfl
@[simp] theorem SlotRec.elapse_lastOrder (dt : Nat) (r : SlotRec) : (r.elapse dt).lastOrder = r.lastOrder := by
  unfold SlotRec.elapse; split <;> rfl
@[simp] theorem SlotRec.elapse_lastOrderTime (dt : Nat) (r : SlotRec) : (r.elapse dt).lastOrderTime = r.lastOrderTime := by
  unfold SlotRec.elapse; split <;> rfl
@[simp] theorem SlotRec.elapse_tc (dt : Nat) (r : SlotRec) : (r.elapse dt).tc = r.tc := by
  unfold SlotRec.elapse; split <;> rfl
@[simp] theorem SlotRec.elapse_pendingOrder (dt : Nat) (r : SlotRec) : (r.elapse dt).pendingOrder = r.pendingOrder := by
  unfold SlotRec.elapse; split <;> rfl
@[simp] theorem SlotRec.elapse_dEff (dt : Nat) (r : SlotRec) : (r.elapse dt).dEff = r.dEff := by
  unfold SlotRec.elapse; split <;> rfl
@[simp] theorem SlotRec.elapse_entryEnd (dt : Nat) (r : SlotRec) : (r.elapse dt).entryEnd = r.entryEnd := by
  unfold SlotRec.elapse; split <;> rfl
@[simp] theorem SlotRec.elapse_reasons (dt : Nat) (r : SlotRec) : (r.elapse dt).reasons = r.reasons := by
  unfold SlotRec.elapse; split <;> rfl
@[simp] theorem SlotRec.elapse_sourceWaitStart (dt : Nat) (r : SlotRec) : (r.elapse dt).sourceWaitStart = r.sourceWaitStart := by
  unfold SlotRec.elapse; split <;> rfl
@[simp] theorem SlotRec.elapse_critStart (dt : Nat) (r : SlotRec) : (r.elapse dt).critStart = r.critStart := by
  unfold SlotRec.elapse; split <;> rfl
@[simp] theorem SlotRec.elapse_settleEnd (dt : Nat) (r : SlotRec) : (r.elapse dt).settleEnd = r.settleEnd := by
  unfold SlotRec.elapse; split <;> rfl
@[simp] theorem SlotRec.elapse_directV (dt : Nat) (r : SlotRec) : (r.elapse dt).directV = r.directV := by
  unfold SlotRec.elapse; split <;> rfl
@[simp] theorem SlotRec.elapse_directI (dt : Nat) (r : SlotRec) : (r.elapse dt).directI = r.directI := by
  unfold SlotRec.elapse; split <;> rfl
@[simp] theorem SlotRec.elapse_waterCalled (dt : Nat) (r : SlotRec) : (r.elapse dt).waterCalled = r.waterCalled := by
  unfold SlotRec.elapse; split <;> rfl
@[simp] theorem SlotRec.elapse_cut (dt : Nat) (r : SlotRec) : (r.elapse dt).cut = r.cut := by
  unfold SlotRec.elapse; split <;> rfl
@[simp] theorem SlotRec.elapse_entriesCompleted (dt : Nat) (r : SlotRec) : (r.elapse dt).entriesCompleted = r.entriesCompleted := by
  unfold SlotRec.elapse; split <;> rfl

theorem SlotRec.elapse_runElapsed {r : SlotRec} (dt : Nat) (h : r.entryState = some .run ∨ r.entryState = some .direct) :
    (r.elapse dt).runElapsed = r.runElapsed + dt := by
  unfold SlotRec.elapse
  rcases h with h | h <;> rw [h]

theorem SlotRec.elapse_suspendedTotal {r : SlotRec} (dt : Nat) (h : r.entryState = some .suspended) :
    (r.elapse dt).suspendedTotal = r.suspendedTotal + dt := by
  unfold SlotRec.elapse
  rw [h]

theorem State.begin_slotEntry (s : State) (dt : Nat) (sl : SlotId) : (s.begin dt).slotEntry sl = s.slotEntry sl := by
  unfold State.slotEntry
  simp [State.begin_slot]

theorem State.begin_phase (s : State) (dt id : Nat) : (s.begin dt).phase id = s.phase id := by
  simp [State.phase]

/-- The same for an expiry a fixed time after a stamp. -/
theorem State.not_late_begin {s : State} {dt d : Nat} {t : Option Nat} (h : ∀ e, t = some e → s.now + dt < e + d) :
    ¬ ∃ e, t = some e ∧ e + d ≤ (s.begin dt).now := by
  rintro ⟨e, rfl, k⟩
  have := h e rfl
  rw [State.begin_now] at k
  omega

/-- A confirmation that is not counting, or has time left, does not run out (R66). -/
theorem State.not_confirmExpiry {s : State} {dt : Nat} {i : Str}
    (h : s.ring.sight ≠ .seeing
      ∨ ((s.control i).state ≠ .called ∧ ((s.control i).state ≠ .returning ∨ (s.control i).step ≠ some .confirm))
      ∨ ∀ left, (s.control i).confirmLeft = some left → dt < left) :
    ¬ (s.begin dt).dueNow (.confirmExpiry dt i) := by
  obtain ⟨hs, hp, -⟩ := s.begin_control_kept dt i
  simp only [State.dueNow, State.begin_ring, hs, hp]
  rintro ⟨k1, k2, k3⟩
  rw [State.begin_control, if_pos k1] at k3
  obtain ⟨left, e, k3⟩ := Option.map_eq_some_iff.mp k3
  rcases h with h | ⟨h1, h2⟩ | h
  · exact h k1
  · exact k2.elim h1 fun k => h2.elim (· k.1) (· k.2)
  · have := h left e
    omega

theorem State.not_rectRefresh {s : State} {dt : Nat} {i : Str}
    (h : (s.control i).slot = none ∨ (s.control i).state = .equalising ∨ (s.control i).rectOrder = none
      ∨ ∀ e, (s.control i).lastRectTime = some e → s.now + dt < e + s.lim.orderRefreshS * 1000) :
    ¬ (s.begin dt).dueNow (.rectRefresh dt i) := by
  obtain ⟨hs, -, hl, -, ho, ht⟩ := s.begin_control_kept dt i
  simp only [State.dueNow, State.begin_lim, hs, hl, ho, ht]
  rintro ⟨k1, k2, k3, k4⟩
  rcases h with h | h | h | h
  · exact k1 h
  · exact k2 h
  · exact k3 h
  · exact State.not_late_begin h k4

theorem State.not_slotRefresh {s : State} {dt : Nat} {sl : SlotId}
    (h : (s.slot sl).entryState = none ∨ (s.slot sl).lastOrder = none
      ∨ ∀ e, (s.slot sl).lastOrderTime = some e → s.now + dt < e + s.lim.orderRefreshS * 1000) :
    ¬ (s.begin dt).dueNow (.slotRefresh dt sl) := by
  simp only [State.dueNow, State.begin_lim, State.begin_slot, SlotRec.elapse_entryState, SlotRec.elapse_lastOrder,
    SlotRec.elapse_lastOrderTime]
  rintro ⟨k1, k2, k3⟩
  rcases h with h | h | h
  · exact k1 h
  · exact k2 h
  · exact State.not_late_begin h k3

theorem State.not_phaseTimeup {s : State} {dt : Nat} {sl : SlotId}
    (h : (s.slot sl).entryState ≠ some .run ∨ (s.slot sl).recipe = 0
      ∨ ∀ id, s.slotEntry sl = .phase id → (s.slot sl).runElapsed + dt < (s.slot sl).dEff * 60000) :
    ¬ (s.begin dt).dueNow (.phaseTimeup dt sl) := by
  simp only [State.dueNow, State.begin_slotEntry, State.begin_slot, SlotRec.elapse_entryState, SlotRec.elapse_recipe,
    SlotRec.elapse_dEff]
  rintro ⟨k1, k2, ⟨id, k3⟩, k4⟩
  rw [SlotRec.elapse_runElapsed dt (.inl k1)] at k4
  rcases h with h | h | h
  · exact h k1
  · exact k2 h
  · have := h id k3
    omega

theorem State.not_criterionMet {s : State} {dt : Nat} {sl : SlotId}
    (h : (s.slot sl).entryState ≠ some .run ∨ (s.slot sl).recipe = 0
      ∨ ∀ id, s.slotEntry sl = .phase id → (s.phase id).criterion = .none ∨ ∀ c, (s.slot sl).critStart = some c →
        (s.slot sl).runElapsed + dt < c + (s.phase id).critHoldMin * 60000) :
    ¬ (s.begin dt).dueNow (.criterionMet dt sl) := by
  simp only [State.dueNow, State.begin_slotEntry, State.begin_phase, State.begin_slot, SlotRec.elapse_entryState, 
    SlotRec.elapse_recipe, SlotRec.elapse_critStart]
  rintro ⟨k1, k2, id, c, k3, k4, k5, k6⟩
  rw [SlotRec.elapse_runElapsed dt (.inl k1)] at k6
  rcases h with h | h | h
  · exact h k1
  · exact k2 h
  · rcases h id k3 with h | h
    · exact k4 h
    · have := h c k5
      omega

theorem State.not_noSource {s : State} {dt : Nat} {sl : SlotId}
    (h : (s.slot sl).entryState = none ∨ (s.slot sl).reasons.source = false
      ∨ ∀ e, (s.slot sl).sourceWaitStart = some e → s.now + dt < e + s.lim.sourceWaitMin * 60000) :
    ¬ (s.begin dt).dueNow (.noSource dt sl) := by
  simp only [State.dueNow, State.begin_lim, State.begin_slot, SlotRec.elapse_entryState, SlotRec.elapse_reasons,
    SlotRec.elapse_sourceWaitStart]
  rintro ⟨k1, k2, k3⟩
  rcases h with h | h | h
  · exact k1 h
  · exact absurd (k2.symm.trans h) (by decide)
  · exact State.not_late_begin h k3

theorem State.not_valveClose {s : State} {dt : Nat} {p : Pos}
    (h : s.water.state ≠ .dosing ∨ s.water.string = none ∨ p ∉ s.water.openSet
      ∨ ∀ g ∈ s.water.group, g.pos = p → ∀ e, g.sent = some e → s.now + dt < e + g.openMs) :
    ¬ (s.begin dt).dueNow (.valveClose dt p) := by
  simp only [State.dueNow, State.begin_water, State.begin_now, State.groupItem?]
  rintro ⟨k1, k2, k3, g, e, k4, k5, k6⟩
  rcases h with h | h | h | h
  · exact h k1
  · exact k2 h
  · exact h k3
  · have := h g (List.mem_of_find?_eq_some k4) (by simpa using List.find?_some k4) e k5
    omega

/-- Settles O3: the tick queues what is due, and a row that is not due after its time is no event. -/
theorem eventsNotDueLetTimePass : Obligations.EventsNotDueLetTimePass := by
  intro s dt
  have line : ∀ {f : Filter} {high : Bool}, (∀ e, f.stableEnd = some e → s.now + dt < e) →
      ¬ (s.begin dt).lineDue f high := fun h k => State.not_past_begin h k.1
  refine ⟨fun h => ⟨(s.elapse 1).dueEvents, by unfold step; rw [h]; rfl, State.mem_dueEvents _⟩, ?_⟩
  refine ⟨?_, ?_, ?_, ?_, ?_, ?_, ?_, ?_, ?_, ?_, ?_, ?_, ?_, ?_, ?_, ?_, ?_, ?_, ?_, ?_, ?_⟩
  · refine fun h => exec_not_due rfl rfl ?_
    rintro ⟨high, k⟩
    exact line h (by simpa using k)
  · exact fun h => ⟨exec_not_due rfl rfl fun k => line (high := true) h (by simpa [State.dueNow] using k),
      exec_not_due rfl rfl fun k => line (high := false) h (by simpa [State.dueNow] using k)⟩
  · exact fun h => ⟨exec_not_due rfl rfl fun k => line (high := true) h (by simpa [State.dueNow] using k),
      exec_not_due rfl rfl fun k => line (high := false) h (by simpa [State.dueNow] using k)⟩
  · refine fun h => exec_not_due rfl rfl ?_
    rintro ⟨high, k⟩
    exact line h (by simpa using k)
  · refine fun h => exec_not_due rfl rfl ?_
    rintro ⟨k1, w, k2, k3⟩
    simp only [State.begin_site, State.begin_now] at k1 k2 k3
    rcases h with h | h
    · rw [h] at k1; cases k1
    · have := h w k2
      omega
  · exact fun h => exec_not_due rfl rfl (State.not_past_begin (by simpa using h))
  · exact fun h => exec_not_due rfl rfl (State.not_past_begin (by simpa using h))
  · refine fun h => exec_not_due rfl rfl ?_
    rintro ⟨k1, k2⟩
    simp only [State.begin_ring, State.begin_now] at k1 k2
    exact h.elim k1 (by omega)
  · refine fun h b => if_neg ?_
    simp only [State.awaitsCheck, State.begin_ring]
    split
    · next got e =>
      have := h got e
      simp only [completes, rxLen, u8, Bool.and_eq_true, decide_eq_true_eq, beq_iff_eq]
      omega
    · exact Bool.false_ne_true
  · exact fun h => if_neg (by simp [h])
  · refine fun h => exec_not_due rfl rfl ?_
    simp only [State.dueNow, State.begin_mgmt, State.begin_now]
    omega
  · exact fun h => exec_not_due rfl rfl (State.not_past_begin (by simpa using h))
  · refine fun h => exec_not_due rfl rfl ?_
    obtain hc := fun i => (s.begin_control_kept dt i).2.2.1
    rintro ⟨k1, -, k2, k3⟩
    simp only [State.begin_mgmt, State.begin_water, hc] at k1 k2 k3
    rcases h with h | h | ⟨i, h⟩
    · exact h k1
    · exact h k2
    · exact h (k3 i)
  · refine fun h => exec_not_due rfl rfl ?_
    rintro ⟨k1, k2, k3⟩
    simp only [State.begin_mgmt, State.begin_ring, State.begin_lim] at k1 k2 k3
    rcases h with h | h | h
    · rw [h] at k1; cases k1
    · exact h k2
    · exact State.not_late_begin h k3
  · refine fun h => exec_not_due rfl rfl ?_
    rintro ⟨k1, k2, k3⟩
    simp only [State.begin_mgmt, State.begin_ring, State.begin_lim] at k1 k2 k3
    rcases h with h | h | h
    · rw [h] at k1; cases k1
    · exact k2 h
    · exact State.not_late_begin h k3
  · refine fun h => exec_not_due rfl rfl ?_
    rintro ⟨k1, k2⟩
    simp only [State.begin_ring] at k1 k2
    exact h.elim (· k1) (State.not_past_begin · k2)
  · exact fun i => ⟨fun h => exec_not_due rfl rfl (State.not_past_begin (by simpa using h)),
      fun h => exec_not_due rfl rfl (State.not_past_begin (by simpa using h)),
      fun h => exec_not_due rfl rfl (State.not_past_begin (by simpa using h))⟩
  · refine fun i => ⟨fun h => exec_not_due rfl rfl (State.not_past_begin (by simpa [State.begin_reading] using h)),
      fun h => exec_not_due rfl rfl (State.not_confirmExpiry h), fun h => exec_not_due rfl rfl ?_,
      fun h => exec_not_due rfl rfl (State.not_rectRefresh h)⟩
    obtain ⟨hs, hp, -, hd, -⟩ := s.begin_control_kept dt i
    rintro ⟨k1, k2, k3⟩
    simp only [hs, hp, hd] at k1 k2 k3
    rcases h with h | h | h
    · exact h k1
    · exact h k2
    · exact State.not_past_begin h k3
  · intro sl
    refine ⟨fun h => exec_not_due rfl rfl (State.not_slotRefresh h), fun h => exec_not_due rfl rfl (State.not_phaseTimeup h),
      fun h => exec_not_due rfl rfl (State.not_criterionMet h), fun h => exec_not_due rfl rfl ?_, fun h => exec_not_due rfl rfl ?_,
      fun h => exec_not_due rfl rfl ?_, fun h => exec_not_due rfl rfl (State.not_noSource h), fun h => exec_not_due rfl rfl ?_⟩ <;>
      rintro ⟨k1, k2⟩ <;>
      simp only [State.begin_slot, SlotRec.elapse_entryState, SlotRec.elapse_entryEnd, State.begin_lim] at k1 k2
    · exact h.elim (· k1) (State.not_past_begin · k2)
    · exact h.elim (· k1) (State.not_past_begin · k2)
    · rw [SlotRec.elapse_suspendedTotal dt k1] at k2
      exact h.elim (· k1) (by omega)
    · rw [SlotRec.elapse_runElapsed dt (.inr k1)] at k2
      exact h.elim (· k1) (by omega)
  · exact fun p h => exec_not_due rfl rfl (State.not_valveClose h)
  · refine fun h => exec_not_due rfl rfl ?_
    rintro ⟨k1, k2, k3⟩
    simp only [State.begin_water] at k1 k2 k3
    rcases h with h | h | h
    · exact h k1
    · exact k2 h
    · exact State.not_past_begin h k3

end Sys2Proof.Machine

/-! ## Requests that start nothing: the row as a whole -/

namespace Sys2Proof.Machine

theorem State.begin_takesFrom {s : State} {src : Byte} (h : s.takesFrom src) (dt : Nat) : (s.begin dt).takesFrom src := by
  obtain ⟨h1, h2⟩ := h
  refine ⟨by simpa using h1, ?_⟩
  simpa [State.sourceBarred] using h2

/-- A request row whose answer hands no notice and starts nothing: its reply stands at the tail of the reply queue, and the
event ends quietly (R174, R189). -/
theorem exec_replied {c : Instr} {src : Byte} {r : Request} {s t : State} {dt n : Nat} {st : Status} {data : List Byte}
    (hc : requestOf c = some (src, .request r)) (hd : dtOf c = dt) (hs : s.takesFrom src)
    (ha : ((s.begin dt).heldFor src).act r = ⟨t.heldFor src, st, n, data⟩) (hr : t.ring = (s.begin dt).ring)
    (hm : t.marks = {}) : exec c s = .next (t.replied src r.code st n data).quietEnd := by
  rw [exec_request hc, hd, State.offer_request (State.begin_takesFrom hs dt) ha (by rw [hr]) (by rw [hr]),
    State.replied_quiet hm]

/-- A request row that is refused changes nothing but the reply queue. -/
theorem exec_refused {c : Instr} {src : Byte} {r : Request} {s : State} {dt : Nat} {st : Status}
    (hc : requestOf c = some (src, .request r)) (hd : dtOf c = dt) (hs : s.takesFrom src)
    (ha : ((s.begin dt).heldFor src).act r = ((s.begin dt).heldFor src).refuse st) :
    exec c s = .next ((s.begin dt).replied src r.code st 0 []).quietEnd :=
  exec_replied hc hd hs ha rfl rfl

end Sys2Proof.Machine

/-! ## The record window -/

namespace Sys2Proof.Machine

/-! ### The codes of 11.3 -/

theorem codeIn_level (l : Level) : codeIn levelCodes l = l.code := by cases l <;> rfl

theorem codeIn_state (x : StringState) : codeIn stateCodes x = x.code := by cases x <;> rfl

theorem codeIn_entry (x : EntryState) : 1 + codeIn entryCodes x = x.code := by cases x <;> rfl

theorem codeIn_reason (x : Reason) : 1 + codeIn reasonCodes x = x.code := by cases x <;> rfl

theorem codeIn_end (x : EndReason) : 1 + codeIn endCodes x = x.code := by cases x <;> rfl

theorem codeIn_origin (x : Origin) : codeIn [Origin.auto, .request, .recipe] x = x.code := by cases x <;> rfl

theorem reasonCode_eq (r : Option Reason) :
    reasonCode r = match r with | none => 0 | some x => 1 + codeIn reasonCodes x := by
  cases r with
  | none => rfl
  | some x => exact (codeIn_reason x).symm

theorem endReasonCode_eq (r : Option EndReason) :
    endReasonCode r = match r with | none => 0 | some x => 1 + codeIn endCodes x := by
  cases r with
  | none => rfl
  | some x => exact (codeIn_end x).symm

theorem flag_isSome {α : Type} (o : Option α) (k : Nat) [Decidable (o = none)] :
    flag o.isSome k = if o = none then 0 else 2 ^ k := by
  cases o <;> simp [flag]

/-- A value is shown fresh through the millisecond of its expiry (log 25). -/
theorem State.fresh_eq_any (s : State) (e : Option Nat) : s.fresh e = e.any fun t => decide (s.now ≤ t) := by
  cases e <;> rfl

/-! ### The records of 11.5 -/

/-- The bytes of a CELL record. -/
theorem State.cellRecord_bytes (s : State) (c : Cell) : s.cellRecord c =
    bytesBE 2 (c.voltage.getD 0xFFFF) ++ bytesSigned 2 (c.temp.getD 0x7FFF)
      ++ [BitVec.ofNat 8 (codeIn levelCodes c.level + (if c.vExpiry.any fun e => decide (s.now ≤ e) then 8 else 0)
          + (if c.tExpiry.any fun e => decide (s.now ≤ e) then 16 else 0) + (if c.wateringFault then 32 else 0)
          + 64 * c.unconfirmed)]
      ++ bytesBE 3 c.deficit ++ bytesBE 2 c.lastDose
      ++ [match c.confirmDeadline with | none => 0xFF | some e => BitVec.ofNat 8 ((e - s.now + 59999) / 60000)] := by
  have hd : s.deadlineByte c = match c.confirmDeadline with
      | none => 0xFF | some e => BitVec.ofNat 8 ((e - s.now + 59999) / 60000) := by
    unfold State.deadlineByte
    cases c.confirmDeadline <;> rfl
  unfold State.cellRecord State.cellFlags
  rw [hd, ← State.fresh_eq_any, ← State.fresh_eq_any, codeIn_level]
  rfl

/-- The time of the SLOT record in seconds is within a second of the ms counted, whatever the rounding (log 16). -/
theorem slotSeconds_near (ms : Nat) : ms < 1000 * slotSeconds ms + 1000 ∧ 1000 * slotSeconds ms < ms + 1000 := by
  unfold slotSeconds
  split
  · omega
  · split <;> omega

theorem State.record_cell (s : State) (i : CellIx) : s.record .cell i.val = some (s.cellRecord (s.cell i)) :=
  dif_pos i.isLt

theorem State.record_string (s : State) (i : Str) : s.record .string i.val = some (s.stringRecord i) :=
  dif_pos i.isLt

theorem State.record_slot (s : State) (sl : SlotId) :
    s.record .slot (match sl with | .A => 0 | .B => 1) = some (slotRecord (s.slot sl)) := by
  cases sl <;> rfl

/-- The bytes of a QUEUE record. -/
theorem queueRecord_bytes (e : Entry) : queueRecord e =
    [BitVec.ofNat 8 (e.string.val + (if e.kind = .water then 8 else 0) + (if e.priority = .urgent then 16 else 0)
          + 32 * codeIn [.auto, .request, .recipe] e.origin),
        BitVec.ofNat 8 (16 * e.recipe + (1 + codeIn reasonCodes e.reason))]
      ++ bytesBE 2 e.stamp.day ++ bytesBE 2 e.stamp.minute := by
  have hk : 8 * e.kind.code = if e.kind = .water then 8 else 0 := by cases e.kind <;> rfl
  have hp : 16 * e.priority.code = if e.priority = .urgent then 16 else 0 := by cases e.priority <;> rfl
  rw [codeIn_origin, codeIn_reason, ← hk, ← hp]
  rfl

/-- The bytes of a SLOT record, by the codes of 11.3. -/
theorem slotRecord_bytes (r : SlotRec) : slotRecord r =
    [BitVec.ofNat 8 (16 * (match r.string with | some i => i.val | none => 15) + r.recipe),
        BitVec.ofNat 8 (16 * r.index + r.entriesCompleted),
        BitVec.ofNat 8 ((match r.entryState with | none => 0 | some e => 1 + codeIn entryCodes e)
          + (match r.resumeState with | none => 0 | some .run => 8 | some .direct => 16) + (if r.cut then 32 else 0)
          + (if r.waterCalled then 64 else 0) + (if r.triggerStarted then 128 else 0)),
        BitVec.ofNat 8 ((if r.reasons.source then 1 else 0) + (if r.reasons.stale then 2 else 0)
          + (if r.reasons.hot then 4 else 0) + (if r.reasons.blind then 8 else 0) + (if r.priorityBit then 16 else 0)
          + (match r.lastOrder with | none => 0 | some .off => 32 | some (.on _ _) => 64)),
        BitVec.ofNat 8 (16 * (match r.reason with | none => 0 | some x => 1 + codeIn reasonCodes x)
          + (if r.sourceWaitStart = none then 0 else 1) + (if r.critStart = none then 0 else 2)
          + (if r.settleEnd = none then 0 else 4) + (if r.entryEnd = none then 0 else 8))]
      ++ bytesBE 2 r.limit
      ++ (match r.lastOrder with
        | none => [0xFF, 0xFF, 0xFF, 0xFF]
        | some .off => [0, 0, 0, 0]
        | some (.on v a) => bytesBE 2 v ++ bytesBE 2 a)
      ++ bytesBE 2 r.dEff ++ bytesBE 3 (slotSeconds r.runElapsed) ++ bytesBE 2 (slotSeconds r.suspendedTotal)
      ++ bytesBE 2 r.directV ++ bytesBE 2 r.directI := by
  have h0 : boundCode r.string = match r.string with | some i => i.val | none => 15 := by cases r.string <;> rfl
  have h2 : r.stateByte = (match r.entryState with | none => 0 | some e => 1 + codeIn entryCodes e)
      + (match r.resumeState with | none => 0 | some .run => 8 | some .direct => 16) + (if r.cut then 32 else 0)
      + (if r.waterCalled then 64 else 0) + (if r.triggerStarted then 128 else 0) := by
    unfold SlotRec.stateByte
    congr 3
    congr 1
    · cases r.entryState with
      | none => rfl
      | some e => exact (codeIn_entry e).symm
    · rcases r.resumeState with _ | _ | _ <;> rfl
  have h3 : 32 * commandCode r.lastOrder = match r.lastOrder with | none => 0 | some .off => 32 | some (.on _ _) => 64 := by
    rcases r.lastOrder with _ | _ | _ <;> rfl
  have h4 : orderLimits r.lastOrder = match r.lastOrder with
      | none => [0xFF, 0xFF, 0xFF, 0xFF]
      | some .off => [0, 0, 0, 0]
      | some (.on v a) => bytesBE 2 v ++ bytesBE 2 a := by
    rcases r.lastOrder with _ | _ | _ <;> rfl
  unfold slotRecord SlotRec.reasonsByte SlotRec.presenceByte
  rw [h0, h2, h3, h4, reasonCode_eq, flag_isSome, flag_isSome, flag_isSome, flag_isSome]
  rfl

/-- The state byte of a STRING record. -/
theorem Control.stateByte_eq (r : Control) : r.stateByte =
    codeIn stateCodes r.state + (match r.slot with | none => 0 | some .A => 8 | some .B => 16)
      + (match r.variant with | none => 0 | some .normal => 32 | some .gas => 64 | some .fast => 96)
      + (if r.step = some .confirm then 128 else 0) := by
  have hs : 8 * slotField r.slot = match r.slot with | none => 0 | some .A => 8 | some .B => 16 := by
    rcases r.slot with _ | _ | _ <;> rfl
  have hv : 32 * (match r.variant with | some v => v.code | none => 0)
      = match r.variant with | none => 0 | some .normal => 32 | some .gas => 64 | some .fast => 96 := by
    rcases r.variant with _ | _ | _ | _ <;> rfl
  have hc : flag (r.step == some .confirm) 7 = if r.step = some .confirm then 128 else 0 := by
    rcases r.step with _ | _ | _ <;> rfl
  unfold Control.stateByte
  rw [codeIn_state, hs, hc]
  exact congrArg (· + _) (congrArg _ hv)

/-- The end byte of a STRING record; the codes of the rect_order command are those of the SLOT record (log 48). -/
theorem StringRec.endByte_eq (x : StringRec) : x.endByte =
    (match x.control.endReason with | none => 0 | some x => 1 + codeIn endCodes x)
      + (match x.control.rectOrder with | none => 0 | some .off => 32 | some (.on _ _) => 64)
      + (if x.charge.disStart = none then 0 else 128) := by
  have ho : 32 * commandCode x.control.rectOrder
      = match x.control.rectOrder with | none => 0 | some .off => 32 | some (.on _ _) => 64 := by
    rcases x.control.rectOrder with _ | _ | _ <;> rfl
  unfold StringRec.endByte
  rw [endReasonCode_eq, ho, flag_isSome]
  rfl

/-- What the bytes of the last equalise outcome are held to; those of an absent one are free but for its codes (log 17). -/
theorem eqOutcomeBytes_spec (x : Option OutcomeRecord) :
    (∀ o, x = some o → eqOutcomeBytes x = [BitVec.ofNat 8 (16 * o.recipe + o.entries),
        BitVec.ofNat 8 (16 * (match o.reason with | none => 0 | some x => 1 + codeIn reasonCodes x)
          + (if o.cut then 1 else 0)),
        BitVec.ofNat 8 (match o.endReason with | none => 0 | some x => 1 + codeIn endCodes x)] ++ bytesBE 4 o.amount)
    ∧ (x = none → (eqOutcomeBytes x).length = 7 ∧ ((eqOutcomeBytes x).getD 1 0 &&& 0xFE) = 0
        ∧ (eqOutcomeBytes x).getD 2 0 = 0) := by
  refine ⟨fun o h => ?_, fun h => ?_⟩ <;> subst h
  · rw [← reasonCode_eq, ← endReasonCode_eq]
    rfl
  · refine ⟨rfl, ?_, rfl⟩
    show Config.absentEqOutcome 36 &&& 0x01 &&& 0xFE = 0
    rw [BitVec.and_assoc]
    exact BitVec.and_zero

/-- Two bytes of a number below 128: the high one is 0, and the low one keeps the bits. -/
theorem absentWaterBytes (v : BitVec 7) : bytesBE 2 (v &&& 0x5F).toNat = [0, (v &&& 0x5F).setWidth 8] := by
  revert v; decide

/-- The same for the last water outcome; its absent amount is 0xFFFF (log 17). -/
theorem waterOutcomeBytes_spec (x : Option OutcomeRecord) :
    (∀ o, x = some o → waterOutcomeBytes x = bytesBE 2
        (2048 * (match o.endReason with | none => 0 | some x => 1 + codeIn endCodes x)
          + 128 * (match o.reason with | none => 0 | some x => 1 + codeIn reasonCodes x)
          + (if o.cut then 64 else 0) + o.entries)
        ++ bytesBE 2 o.amount)
    ∧ (x = none → (waterOutcomeBytes x).length = 4 ∧ (waterOutcomeBytes x).getD 0 0 = 0
        ∧ ((waterOutcomeBytes x).getD 1 0 &&& 0xA0) = 0 ∧ (waterOutcomeBytes x).drop 2 = [0xFF, 0xFF]) := by
  refine ⟨fun o h => ?_, fun h => ?_⟩ <;> subst h
  · rw [← reasonCode_eq, ← endReasonCode_eq]
    rfl
  · have mask : ∀ v : BitVec 7, ((v &&& 0x5F).setWidth 8 &&& 0xA0 : Byte) = 0 := by decide
    simp only [waterOutcomeBytes, absentWaterBytes]
    exact ⟨rfl, rfl, mask _, rfl⟩

/-- The bytes of a STRING record, by the codes of 11.3. -/
theorem State.stringRecord_bytes (s : State) (i : Str) : s.stringRecord i =
    [BitVec.ofNat 8 (s.control i).stateByte, BitVec.ofNat 8 (s.str i).flagsByte, BitVec.ofNat 8 (s.str i).endByte]
      ++ bytesSigned 4 (s.charge i).qBal ++ bytesSigned 2 (s.charge i).fine ++ bytesBE 2 (s.charge i).wAcc
      ++ bytesBE 4 (s.charge i).oTotal ++ bytesBE 4 (s.charge i).dDis
      ++ bytesSigned 2 (s.charge i).current ++ bytesBE 2 (s.charge i).daysSinceEq
      ++ (match (s.control i).holdoffUntil with
        | none => [0xFF, 0xFF, 0xFF, 0xFF]
        | some h => bytesBE 2 h.day ++ bytesBE 2 h.minute)
      ++ bytesBE 2 ((s.reading i).terminalV.getD 0xFFFF) ++ bytesSigned 2 ((s.reading i).ts.getD 0x7FFF)
      ++ bytesBE 2 ((s.reading i).spread.getD 0xFFFF)
      ++ [BitVec.ofNat 8 ((s.reading i).freshCells + 32 * (match (s.reading i).lastPosition with
            | none => 7 | some .openPos => 0 | some .bus => 1 | some .eq => 2 | some .moving => 3)),
          match (s.control i).confirmLeft with | none => 0xFF | some t => BitVec.ofNat 8 ((t + 999) / 1000)]
      ++ eqOutcomeBytes (s.control i).lastEqOutcome ++ waterOutcomeBytes (s.control i).lastWaterOutcome := by
  have h1 : stampBytes (s.control i).holdoffUntil = match (s.control i).holdoffUntil with
      | none => [0xFF, 0xFF, 0xFF, 0xFF]
      | some h => bytesBE 2 h.day ++ bytesBE 2 h.minute := by
    cases (s.control i).holdoffUntil <;> rfl
  have h2 : positionCode (s.reading i).lastPosition = match (s.reading i).lastPosition with
      | none => 7 | some .openPos => 0 | some .bus => 1 | some .eq => 2 | some .moving => 3 := by
    rcases (s.reading i).lastPosition with _ | _ | _ | _ | _ <;> rfl
  have h3 : confirmByte (s.control i).confirmLeft
      = match (s.control i).confirmLeft with | none => 0xFF | some t => BitVec.ofNat 8 ((t + 999) / 1000) := by
    cases (s.control i).confirmLeft <;> rfl
  rw [← h1, ← h2, ← h3]
  rfl

/-- The flags byte of a STRING record. -/
theorem StringRec.flagsByte_eq (x : StringRec) : x.flagsByte =
    (if x.charge.assumed then 1 else 0) + (if x.charge.gap then 2 else 0) + (if x.charge.floor then 4 else 0)
      + (if x.charge.discharging then 8 else 0) + (if x.reading.dry then 16 else 0)
      + (if x.control.heldOrder = none then 0 else 32)
      + (if x.charge.fullTimer = none then 0 else 64) + (if x.charge.spreadTimer = none then 0 else 128) := by
  unfold StringRec.flagsByte
  rw [flag_isSome, flag_isSome, flag_isSome]
  rfl

/-! ### The requests of the window (R183) -/

/-- The records a READ carries, one after the other. -/
theorem State.records_eq (s : State) (sp : Space) (n : Nat) : ∀ ix,
    s.records sp ix n = (List.range n).flatMap fun j => (s.record sp (ix + j)).getD [] := by
  induction n with
  | zero => exact fun ix => rfl
  | succ n ih =>
    intro ix
    rw [State.records, ih, List.range_succ_eq_map, List.flatMap_cons, List.flatMap_map]
    simp only [Nat.add_zero, Nat.succ_eq_add_one, Nat.add_assoc, Nat.add_comm 1]

/-- No record shows an item of the Ring Port. -/
theorem State.record_heldFor (s : State) (src : Byte) (sp : Space) (ix : Nat) :
    (s.heldFor src).record sp ix = s.record sp ix := by
  cases sp <;> rfl

theorem State.record_modMgmt (s : State) (f : Mgmt → Mgmt) (sp : Space) (ix : Nat) :
    (s.modMgmt f).record sp ix = s.record sp ix := by
  cases sp <;> rfl

theorem State.heldFor_mgmt (s : State) (src : Byte) : (s.heldFor src).mgmt = s.mgmt := rfl

theorem State.heldFor_modMgmt (s : State) (src : Byte) (f : Mgmt → Mgmt) :
    (s.heldFor src).modMgmt f = (s.modMgmt f).heldFor src := rfl

/-- A request row that moves the Management Agent's items alone. -/
theorem exec_mgmt {c : Instr} {src : Byte} {r : Request} {s : State} {dt n : Nat} {st : Status} {data : List Byte}
    (f : Mgmt → Mgmt) (hc : requestOf c = some (src, .request r)) (hd : dtOf c = dt) (hs : s.takesFrom src)
    (ha : ((s.begin dt).heldFor src).act r = ⟨((s.begin dt).modMgmt f).heldFor src, st, n, data⟩) :
    exec c s = .next (((s.begin dt).modMgmt f).replied src r.code st n data).quietEnd :=
  exec_replied hc hd hs ha (State.modMgmt_ring ..) ((State.modMgmt_marks ..).trans (State.begin_marks ..))

/-- The answer of a CURSOR (R183). -/
theorem State.act_cursor (s : State) (src space index : Byte) : (s.heldFor src).act (.cursor space index)
    = match spaceOf space with
      | none => (s.heldFor src).refuse .badArg
      | some sp =>
        if sp.lastIndex < index.toNat then (s.heldFor src).refuse .badArg
        else if s.mgmt.held then (s.heldFor src).refuse .notAllowed
        else ⟨(s.modMgmt fun m => { m with cursor := ⟨sp, index.toNat⟩ }).heldFor src, .ok, 0, []⟩ := by
  show (s.heldFor src).askCursor space index = _
  unfold State.askCursor
  rw [State.heldFor_mgmt]
  cases spaceOf space <;> rfl

/-- The answer of a HOLD (R183). -/
theorem State.act_hold (s : State) (src : Byte) : (s.heldFor src).act .hold
    = ⟨(s.modMgmt fun m => { m with mark := some m.cursor, held := true }).heldFor src, .ok, 0, []⟩ := rfl

/-- The answer of a RELEASE (R183). -/
theorem State.act_release (s : State) (src : Byte) : (s.heldFor src).act .release
    = if s.mgmt.held then
        ⟨(s.modMgmt fun m => { m with cursor := m.mark.getD m.cursor, mark := none, held := false }).heldFor src, .ok, 0, []⟩
      else (s.heldFor src).refuse .notAllowed := rfl

theorem State.modMgmt_congr {s : State} {f g : Mgmt → Mgmt} (h : f s.mgmt = g s.mgmt) : s.modMgmt f = s.modMgmt g := by
  unfold State.modMgmt
  rw [h]

/-- A RELEASE under hold returns to the mark (R183). -/
theorem State.act_release_held {s : State} {c : Cursor} (hh : s.mgmt.held = true) (hm : s.mgmt.mark = some c)
    (src : Byte) : (s.heldFor src).act .release
    = ⟨(s.modMgmt fun m => { m with cursor := c, mark := none, held := false }).heldFor src, .ok, 0, []⟩ := by
  have hc : s.modMgmt (fun m => { m with cursor := m.mark.getD m.cursor, mark := none, held := false })
      = s.modMgmt fun m => { m with cursor := c, mark := none, held := false } := State.modMgmt_congr (by simp [hm])
  rw [State.act_release, if_pos hh, hc]

/-- The cursor after a READ of `k` records: it advances unless hold is set (R183). -/
def Mgmt.readBy (k : Nat) (m : Mgmt) : Mgmt :=
  if m.held then m else { m with cursor := { m.cursor with index := m.cursor.index + k } }

/-- The answer of a READ (R183). -/
theorem State.act_read (s : State) (src n : Byte) : (s.heldFor src).act (.read n)
    = if n.toNat = 0 then (s.heldFor src).refuse .badArg
      else if s.spaceSize s.mgmt.cursor.space ≤ s.mgmt.cursor.index then (s.heldFor src).refuse .ended
      else ⟨(s.modMgmt (Mgmt.readBy (s.readCount n.toNat))).heldFor src, .ok, s.readCount n.toNat,
        (List.range (s.readCount n.toNat)).flatMap fun j =>
          (s.record s.mgmt.cursor.space (s.mgmt.cursor.index + j)).getD []⟩ := by
  have hz : (s.heldFor src).spaceSize s.mgmt.cursor.space = s.spaceSize s.mgmt.cursor.space := by
    cases s.mgmt.cursor.space <;> rfl
  have hk : (s.heldFor src).readCount n.toNat = s.readCount n.toNat := by
    unfold State.readCount
    rw [State.heldFor_mgmt, hz]
  have hm : ∀ k, (if s.mgmt.held then s.heldFor src else (s.heldFor src).modMgmt (Mgmt.advance k))
      = (s.modMgmt (Mgmt.readBy k)).heldFor src := by
    intro k
    unfold State.modMgmt Mgmt.readBy
    split <;> rfl
  show (s.heldFor src).askRead n = _
  unfold State.askRead
  dsimp only
  rw [State.heldFor_mgmt, hz, hk, hm, State.records_eq]
  simp only [State.record_heldFor]

/-- The number of records of the cursor's space is that of R183, and time does not move it. -/
theorem State.begin_spaceSize {s : State} {dt size : Nat}
    (h : size = (match s.mgmt.cursor.space with | .cell => 192 | .string => 8 | .queue => s.queue.length | .slot => 2)) :
    (s.begin dt).spaceSize (s.begin dt).mgmt.cursor.space = size := by
  rw [h, State.begin_mgmt]
  cases s.mgmt.cursor.space with
  | queue => exact congrArg List.length (State.begin_queue ..)
  | _ => rfl

theorem spaceOf_none {space : Byte} (h : 3 < space.toNat) : spaceOf space = none := by
  unfold spaceOf
  split <;> [omega; omega; omega; omega; rfl]

/-- Settles O34: the bytes of the four records, then the requests of the window one by one. -/
theorem recordWindowMoves : Obligations.RecordWindowMoves := by
  refine ⟨fun s i c hc => ?_, fun s k e he => ?_, fun s sl r hr => ?_, fun s i q c r hq hc hr => ?_,
    fun s dt src hs => ⟨fun sp space index hsp => ⟨fun hi => ⟨fun hh => ?_, fun hh => ?_⟩, fun hi hh => ?_⟩,
      fun space index hsp hh => ?_, ?_, fun c hh hm => ?_, fun hh => ?_, ?_,
      fun n size k hn hsize => ⟨fun hix => ?_, fun hix hk => ?_⟩⟩⟩
  · subst hc
    exact (State.record_cell ..).trans (congrArg some (State.cellRecord_bytes ..))
  · show (s.queue[k]?).map queueRecord = _
    rw [he, ← queueRecord_bytes]
    rfl
  · subst hr
    refine ⟨_, _, (s.slot sl).priorityBit, (slotSeconds_near _).1, (slotSeconds_near _).2, (slotSeconds_near _).1,
      (slotSeconds_near _).2, fun p hp => ?_, ?_⟩
    · unfold SlotRec.priorityBit
      rw [hp]
      rfl
    · exact (State.record_slot s sl).trans (congrArg some (slotRecord_bytes _))
  · subst hq hc hr
    obtain ⟨e1, e2⟩ := eqOutcomeBytes_spec (s.control i).lastEqOutcome
    obtain ⟨w1, w2⟩ := waterOutcomeBytes_spec (s.control i).lastWaterOutcome
    refine ⟨_, _, e1, e2, w1, w2, ?_⟩
    rw [State.record_string, State.stringRecord_bytes, Control.stateByte_eq, StringRec.flagsByte_eq, StringRec.endByte_eq]
    rfl
  · have hle : ¬ sp.lastIndex < index.toNat := Nat.not_lt.mpr (by cases sp <;> exact hi)
    refine exec_mgmt (r := .cursor space index) _ rfl rfl hs ?_
    rw [State.act_cursor, hsp]
    dsimp only
    rw [if_neg hle, State.begin_mgmt, hh, if_neg Bool.false_ne_true]
  · have hle : ¬ sp.lastIndex < index.toNat := Nat.not_lt.mpr (by cases sp <;> exact hi)
    refine exec_refused (r := .cursor space index) rfl rfl hs ?_
    rw [State.act_cursor, hsp]
    dsimp only
    rw [if_neg hle, State.begin_mgmt, hh, if_pos rfl]
  · have hlt : sp.lastIndex < index.toNat := by cases sp <;> exact hi
    refine exec_refused (r := .cursor space index) rfl rfl hs ?_
    rw [State.act_cursor, hsp]
    dsimp only
    rw [if_pos hlt]
  · refine exec_refused (r := .cursor space index) rfl rfl hs ?_
    rw [State.act_cursor, spaceOf_none hsp]
  · exact exec_mgmt (r := .hold) (fun m => { m with mark := some m.cursor, held := true }) rfl rfl hs (State.act_hold _ _)
  · exact exec_mgmt (r := .release) _ rfl rfl hs (State.act_release_held (by simpa using hh) (by simpa using hm) src)
  · refine exec_refused (r := .release) rfl rfl hs ?_
    rw [State.act_release, State.begin_mgmt, hh, if_neg Bool.false_ne_true]
  · refine exec_refused (r := .read 0) rfl rfl hs ?_
    exact (State.act_read ..).trans (if_pos rfl)
  · refine exec_refused (r := .read n) rfl rfl hs ?_
    rw [State.act_read, if_neg (Nat.ne_of_gt hn), State.begin_spaceSize hsize, State.begin_mgmt, if_pos hix]
  · have hz := State.begin_spaceSize (dt := dt) hsize
    have hkk : (s.begin dt).readCount n.toNat = k := by
      rw [hk, State.readCount, hz, State.begin_mgmt]
      cases s.mgmt.cursor.space <;> rfl
    refine exec_mgmt (r := .read n) (Mgmt.readBy k) rfl rfl hs ?_
    rw [State.act_read, if_neg (Nat.ne_of_gt hn), hkk, hz, State.begin_mgmt, if_neg (Nat.not_le.mpr hix)]

end Sys2Proof.Machine

/-! ## The derived values of the records, as their rules state them -/

namespace Sys2Proof.Machine

theorem State.fresh_iff (s : State) (x : Option Nat) : s.fresh x = true ↔ ∃ e, x = some e ∧ s.now ≤ e := by
  cases x <;> simp [State.fresh]

theorem State.terminalV_eq_some (s : State) (i : Str) (v : Nat) : s.terminalV i = some v
    ↔ (s.reading i).terminalV = some v ∧ ∃ e, (s.reading i).tvExpiry = some e ∧ s.now ≤ e := by
  rw [← State.fresh_iff, State.terminalV]
  split <;> simp_all

theorem State.mem_presentStrs (s : State) (i : Str) : i ∈ s.presentStrs ↔ (s.cfg i).present = true := by
  simp [State.presentStrs, mem_allStrs, State.present]

theorem State.mem_positions (s : State) (i : Str) (p : Pos) : p ∈ s.positions i ↔ p.val < (s.cfg i).cells := by
  simp [State.positions, mem_allPos]

/-- The terminal voltages that count toward the bus voltage (R17). -/
theorem State.mem_busVoltages (s : State) (v : Nat) :
    v ∈ (s.presentStrs.filter fun i => s.inState i .onBus).filterMap (fun i => s.terminalV i) ↔ ∃ i, s.onBusAt i v := by
  simp only [List.mem_filterMap, List.mem_filter, State.mem_presentStrs, State.inState, beq_iff_eq, State.terminalV_eq_some,
    State.onBusAt, and_assoc]

theorem State.judgeBusVoltage_eq_some (s : State) (b : Nat) :
    s.judgeBusVoltage = some b ↔ (∃ i, s.onBusAt i b) ∧ ∀ i v, s.onBusAt i v → v ≤ b := by
  rw [State.judgeBusVoltage, List.max?_eq_some_iff, State.mem_busVoltages]
  simp only [State.mem_busVoltages]
  exact and_congr_right fun _ => ⟨fun h i v k => h v ⟨i, k⟩, fun h v ⟨i, k⟩ => h i v k⟩

theorem State.judgeBusVoltage_eq_none (s : State) : s.judgeBusVoltage = none ↔ ∀ i v, ¬ s.onBusAt i v := by
  rw [State.judgeBusVoltage, List.max?_eq_none_iff, List.eq_nil_iff_forall_not_mem]
  simp only [State.mem_busVoltages, not_exists]
  exact forall_comm

/-- The voltage of a string on the bus is at most the bus voltage. -/
theorem State.le_judgeBusVoltage {s : State} {i : Str} {v : Nat} (h : s.onBusAt i v) :
    ∃ b, s.judgeBusVoltage = some b ∧ v ≤ b := by
  cases e : s.judgeBusVoltage with
  | none => exact absurd h ((State.judgeBusVoltage_eq_none s).mp e i v)
  | some b => exact ⟨b, rfl, ((State.judgeBusVoltage_eq_some s b).mp e).2 i v h⟩

/-- The temperatures that count in T_s (R15). -/
theorem State.mem_freshTemps (s : State) (i : Str) (t : Int) : t ∈ s.freshTemps i ↔ ∃ p, s.warm i p t := by
  simp only [State.freshTemps, List.mem_filterMap, State.mem_positions, Option.ite_none_right_eq_some, Bool.and_eq_true,
    State.cellFresh, State.fresh_iff, State.warm]
  exact exists_congr fun p => by constructor <;> (rintro ⟨h1, h2, h3⟩; tauto)

theorem State.judgeTs_eq_some (s : State) (i : Str) (t : Int) :
    s.judgeTs i = some t ↔ (∃ p, s.warm i p t) ∧ ∀ q u, s.warm i q u → u ≤ t := by
  rw [State.judgeTs, List.max?_eq_some_iff, State.mem_freshTemps]
  simp only [State.mem_freshTemps]
  exact and_congr_right fun _ => ⟨fun h q u k => h u ⟨q, k⟩, fun h u ⟨q, k⟩ => h q u k⟩

theorem State.judgeTs_eq_none (s : State) (i : Str) : s.judgeTs i = none ↔ ∀ p u, ¬ s.warm i p u := by
  rw [State.judgeTs, List.max?_eq_none_iff, List.eq_nil_iff_forall_not_mem]
  simp only [State.mem_freshTemps, not_exists]
  exact forall_comm

theorem allPos_eq : allPos = List.finRange 24 := by decide

theorem State.judgeFreshCells_eq (s : State) (i : Str) :
    s.judgeFreshCells i = ((List.finRange 24).filter fun p : Pos =>
      decide (p.val < (s.cfg i).cells) && (s.cellAt i p).vExpiry.any fun e => decide (s.now ≤ e)).length := by
  rw [State.judgeFreshCells, State.positions, List.filter_filter, allPos_eq]
  simp only [State.cellFresh, State.fresh_eq_any, Bool.and_comm]

/-- The voltage of a fresh position. -/
def State.freshVoltage (s : State) (i : Str) (p : Pos) : Option Nat :=
  if s.cellFresh (s.cellAt i p) then (s.cellAt i p).voltage else none

theorem State.freshVoltage_eq_some (s : State) (i : Str) (p : Pos) (v : Nat) :
    (p ∈ s.positions i ∧ s.freshVoltage i p = some v) ↔ s.measured i p v := by
  simp only [State.freshVoltage, State.mem_positions, Option.ite_none_right_eq_some, State.cellFresh, State.fresh_iff,
    State.measured]
  tauto

theorem State.mem_freshVoltages (s : State) (i : Str) (v : Nat) : v ∈ s.freshVoltages i ↔ ∃ p, s.measured i p v := by
  rw [show s.freshVoltages i = (s.positions i).filterMap (s.freshVoltage i) from rfl, List.mem_filterMap]
  exact exists_congr fun p => State.freshVoltage_eq_some s i p v

/-- A list without repeats gives fewer than two values when at most one of its members has one. -/
theorem length_filterMap_lt_two {α β : Type} {l : List α} (hl : l.Nodup) (g : α → Option β) :
    (l.filterMap g).length < 2 ↔ ∀ p q v u, (p ∈ l ∧ g p = some v) → (q ∈ l ∧ g q = some u) → p = q := by
  have hlen : (l.filterMap g).length = (l.filter fun x => (g x).isSome).length := by
    rw [List.length_filterMap_eq_countP, List.countP_eq_length_filter]
  have hmem : ∀ p, p ∈ l.filter (fun x => (g x).isSome) ↔ ∃ v, p ∈ l ∧ g p = some v := by
    intro p
    rw [List.mem_filter, Option.isSome_iff_exists]
    exact ⟨fun ⟨h, v, e⟩ => ⟨v, h, e⟩, fun ⟨v, h, e⟩ => ⟨h, v, e⟩⟩
  have hnd : (l.filter fun x => (g x).isSome).Nodup := hl.filter _
  rw [hlen]
  constructor
  · intro h p q v u hp hq
    have mp := (hmem p).mpr ⟨v, hp⟩
    have mq := (hmem q).mpr ⟨u, hq⟩
    match e : l.filter (fun x => (g x).isSome), h with
    | [], _ => rw [e] at mp; cases mp
    | [a], _ =>
      rw [e, List.mem_singleton] at mp mq
      exact mp.trans mq.symm
  · intro h
    match e : l.filter (fun x => (g x).isSome) with
    | [] => simp
    | [a] => simp
    | a :: b :: m =>
      obtain ⟨v, ha⟩ := (hmem a).mp (by rw [e]; simp)
      obtain ⟨u, hb⟩ := (hmem b).mp (by rw [e]; simp)
      rw [e] at hnd
      exact absurd (h a b v u ha hb) (by rintro rfl; simp at hnd)

theorem State.positions_nodup (s : State) (i : Str) : (s.positions i).Nodup := by
  unfold State.positions
  exact List.Nodup.filter _ (by rw [allPos_eq]; exact List.nodup_finRange 24)

theorem State.freshVoltages_lt_two (s : State) (i : Str) :
    (s.freshVoltages i).length < 2 ↔ ∀ p q v u, s.measured i p v → s.measured i q u → p = q := by
  rw [show s.freshVoltages i = (s.positions i).filterMap (s.freshVoltage i) from rfl,
    length_filterMap_lt_two (s.positions_nodup i)]
  simp only [State.freshVoltage_eq_some]

/-- Below two fresh cells there is no spread (R16). -/
theorem State.judgeSpread_none {s : State} {i : Str} (h : ∀ p q v u, s.measured i p v → s.measured i q u → p = q) :
    s.judgeSpread i = none := by
  unfold State.judgeSpread
  exact if_pos ((State.freshVoltages_lt_two s i).mpr h)

/-- With two fresh cells the spread is the highest fresh voltage minus the lowest (R16). -/
theorem State.judgeSpread_some {s : State} {i : Str} {p q : Pos} {v u : Nat} (hne : p ≠ q) (hp : s.measured i p v)
    (hq : s.measured i q u) : ∃ hi lo, s.judgeSpread i = some (hi - lo)
      ∧ (∃ r, s.measured i r hi) ∧ (∃ r, s.measured i r lo) ∧ ∀ r x, s.measured i r x → lo ≤ x ∧ x ≤ hi := by
  have hlen : ¬ (s.freshVoltages i).length < 2 := fun h =>
    hne ((State.freshVoltages_lt_two s i).mp h p q v u hp hq)
  have hmem : v ∈ s.freshVoltages i := (State.mem_freshVoltages s i v).mpr ⟨p, hp⟩
  cases hx : (s.freshVoltages i).max? with
  | none => rw [List.max?_eq_none_iff.mp hx] at hmem; cases hmem
  | some hi =>
    cases hn : (s.freshVoltages i).min? with
    | none => rw [List.min?_eq_none_iff.mp hn] at hmem; cases hmem
    | some lo =>
      obtain ⟨mx, ux⟩ := List.max?_eq_some_iff.mp hx
      obtain ⟨mn, un⟩ := List.min?_eq_some_iff.mp hn
      refine ⟨hi, lo, ?_, (State.mem_freshVoltages s i hi).mp mx, (State.mem_freshVoltages s i lo).mp mn, fun r x hr => ?_⟩
      · unfold State.judgeSpread
        dsimp only
        rw [if_neg hlen, hx, hn]
      · have := (State.mem_freshVoltages s i x).mpr ⟨r, hr⟩
        exact ⟨un x this, ux x this⟩

end Sys2Proof.Machine

/-! ## What a hand-off leaves -/

namespace Sys2Proof.Machine

/-- The items of a string's control half that no hand-off between the blocks moves. -/
def Control.kept (c : Control) : Option SlotId × Option Frame × Nat × Option OutcomeRecord × Option Stamp × Option OutcomeRecord :=
  (c.slot, c.heldOrder, c.chargeIn, c.lastEqOutcome, c.holdoffUntil, c.lastWaterOutcome)

/-- The items of an account that no hand-off moves: all but the DUE_SPREAD period (R35). -/
def Charge.kept (c : Charge) : Charge :=
  { c with spreadTimer := none }

theorem Charge.qBal_of_kept {c d : Charge} (h : c.kept = d.kept) : c.qBal = d.qBal := by
  have := congrArg Charge.qBal h
  exact this

theorem Charge.assumed_of_kept {c d : Charge} (h : c.kept = d.kept) : c.assumed = d.assumed := by
  have := congrArg Charge.assumed h
  exact this

/-- A hand-off moves a string's state by the beginning of a return alone (R67). -/
def StringState.moves (a b : StringState) : Prop :=
  b = a ∨ ((a = .called ∨ a = .equalising) ∧ b = .returning)

theorem StringState.moves_trans {a b c : StringState} (h : a.moves b) (k : b.moves c) : a.moves c := by
  rcases h with rfl | ⟨h1, rfl⟩
  · exact k
  · rcases k with rfl | ⟨k1 | k1, -⟩
    · exact .inr ⟨h1, rfl⟩
    · cases k1
    · cases k1

theorem StringState.moves_onBus {a b : StringState} (h : a.moves b) : b = .onBus ↔ a = .onBus := by
  rcases h with rfl | ⟨rfl | rfl, rfl⟩ <;> simp

/-- What the blocks make of a state when they hand a change on: a bus voltage, a condition, a reason, a due reason. It ends rounds
when `ends`, and joins entries to the queue when `joins`. -/
structure State.Handed (ends joins : Bool) (s t : State) : Prop where
  now : t.now = s.now
  images : t.images = s.images
  water : t.water = s.water
  busVoltage : t.busVoltage = s.busVoltage
  reading : ∀ i, t.reading i = s.reading i
  charge : ∀ i, (t.charge i).kept = (s.charge i).kept
  control : ∀ i, (t.control i).kept = (s.control i).kept ∧ (s.control i).state.moves (t.control i).state
  queue : joins = false → ∀ e ∈ t.queue, e ∈ s.queue
  calm : ends = false → t.queue = s.queue ∧ t.discharge = s.discharge ∧ ∀ i, (t.control i).state = (s.control i).state
  scan : s.marks.scan = true → t.marks.scan = true

section
variable {ends joins : Bool} {s t u : State}

theorem State.Handed.refl (s : State) : State.Handed ends joins s s :=
  ⟨rfl, rfl, rfl, rfl, fun _ => rfl, fun _ => rfl, fun _ => ⟨rfl, .inl rfl⟩, fun _ _ h => h, fun _ => ⟨rfl, rfl, fun _ => rfl⟩, id⟩

theorem State.Handed.trans (h : State.Handed ends joins s t) (k : State.Handed ends joins t u) : State.Handed ends joins s u where
  now := k.now.trans h.now
  images := k.images.trans h.images
  water := k.water.trans h.water
  busVoltage := k.busVoltage.trans h.busVoltage
  reading i := (k.reading i).trans (h.reading i)
  charge i := (k.charge i).trans (h.charge i)
  control i := ⟨(k.control i).1.trans (h.control i).1, StringState.moves_trans (h.control i).2 (k.control i).2⟩
  queue j e he := h.queue j e (k.queue j e he)
  calm e := ⟨(k.calm e).1.trans (h.calm e).1, (k.calm e).2.1.trans (h.calm e).2.1,
    fun i => ((k.calm e).2.2 i).trans ((h.calm e).2.2 i)⟩
  scan x := k.scan (h.scan x)

/-- A hand-off that ends no round is one that may. -/
theorem State.Handed.all (h : State.Handed ends joins s t) : State.Handed true true s t :=
  { h with queue := fun d => by cases d
           calm := fun d => by cases d }

theorem State.Handed.mayEnd (h : State.Handed ends joins s t) : State.Handed true joins s t :=
  { h with calm := fun d => by cases d }

/-! ### What it leaves of the judged values -/

theorem State.Handed.cfg (h : State.Handed ends joins s t) (i : Str) : t.cfg i = s.cfg i := by
  unfold State.cfg; rw [h.images]

theorem State.Handed.slotOf (h : State.Handed ends joins s t) (i : Str) : (t.control i).slot = (s.control i).slot :=
  congrArg (·.1) (h.control i).1

theorem State.Handed.heldOrder (h : State.Handed ends joins s t) (i : Str) :
    (t.control i).heldOrder = (s.control i).heldOrder :=
  congrArg (·.2.1) (h.control i).1

theorem State.Handed.chargeIn (h : State.Handed ends joins s t) (i : Str) :
    (t.control i).chargeIn = (s.control i).chargeIn :=
  congrArg (·.2.2.1) (h.control i).1

theorem State.Handed.lastEqOutcome (h : State.Handed ends joins s t) (i : Str) :
    (t.control i).lastEqOutcome = (s.control i).lastEqOutcome :=
  congrArg (·.2.2.2.1) (h.control i).1

theorem State.Handed.holdoffUntil (h : State.Handed ends joins s t) (i : Str) :
    (t.control i).holdoffUntil = (s.control i).holdoffUntil :=
  congrArg (·.2.2.2.2.1) (h.control i).1

theorem State.Handed.lastWaterOutcome (h : State.Handed ends joins s t) (i : Str) :
    (t.control i).lastWaterOutcome = (s.control i).lastWaterOutcome :=
  congrArg (·.2.2.2.2.2) (h.control i).1

/-- A string that is neither CALLED nor EQUALISING keeps its state. -/
theorem State.Handed.state (h : State.Handed ends joins s t) {i : Str} (hc : (s.control i).state ≠ .called)
    (he : (s.control i).state ≠ .equalising) : (t.control i).state = (s.control i).state := by
  rcases (h.control i).2 with k | ⟨k | k, -⟩
  · exact k
  · exact absurd k hc
  · exact absurd k he

theorem State.Handed.onBus (h : State.Handed ends joins s t) (i : Str) : t.inState i .onBus = s.inState i .onBus := by
  have := StringState.moves_onBus (h.control i).2
  unfold State.inState
  rw [Bool.eq_iff_iff, beq_iff_eq, beq_iff_eq, this]

theorem State.Handed.terminalV (h : State.Handed ends joins s t) (i : Str) : t.terminalV i = s.terminalV i := by
  unfold State.terminalV State.fresh; rw [h.reading, h.now]

theorem State.Handed.judgeBusVoltage (h : State.Handed ends joins s t) : t.judgeBusVoltage = s.judgeBusVoltage := by
  have hp : t.presentStrs = s.presentStrs := by
    unfold State.presentStrs State.present; simp only [h.cfg]
  unfold State.judgeBusVoltage
  simp only [hp, h.onBus, h.terminalV]

/-! ### Updates -/

/-- A state that differs from a handed one in nothing that the relation speaks of. -/
theorem State.Handed.same (h : State.Handed ends joins s t) (hn : u.now = t.now := by rfl)
    (hi : u.images = t.images := by rfl) (hw : u.water = t.water := by rfl) (hb : u.busVoltage = t.busVoltage := by rfl)
    (hs : u.strings = t.strings := by rfl) (hq : u.queue = t.queue := by rfl) (hd : u.discharge = t.discharge := by rfl)
    (hm : t.marks.scan = true → u.marks.scan = true := by exact id) : State.Handed ends joins s u := by
  have e : ∀ i, u.str i = t.str i := fun i => by unfold State.str; rw [hs]
  refine h.trans ⟨hn, hi, hw, hb, fun i => by unfold State.reading; rw [e], fun i => by unfold State.charge; rw [e],
    fun i => ?_, fun _ _ k => by rwa [hq] at k, fun _ => ⟨hq, hd, fun i => by unfold State.control; rw [e]⟩, hm⟩
  unfold State.control
  rw [e]
  exact ⟨rfl, .inl rfl⟩

theorem handed_ite {c : Prop} [Decidable c] (h : State.Handed ends joins s t) (k : State.Handed ends joins s u) :
    State.Handed ends joins s (if c then t else u) := by split <;> assumption

/-- An update of a control half that leaves what hand-offs leave. -/
theorem handed_modControl (h : State.Handed ends joins s t) (i : Str) (f : Control → Control)
    (hf : ∀ c, (f c).kept = c.kept ∧ (f c).state = c.state) : State.Handed ends joins s (t.modControl i f) := by
  have key : ∀ j, ((t.modControl i f).control j).kept = (t.control j).kept
      ∧ ((t.modControl i f).control j).state = (t.control j).state := by
    intro j
    by_cases e : i = j
    · rw [← e, State.modControl_control]; exact hf _
    · rw [State.modControl_control_ne t e]; exact ⟨rfl, rfl⟩
  exact h.trans ⟨rfl, rfl, rfl, rfl, fun j => by simp, fun j => by simp, fun j => ⟨(key j).1, .inl (key j).2⟩, fun _ _ k => k,
    fun _ => ⟨rfl, rfl, fun j => (key j).2⟩, id⟩

theorem handed_modCharge (h : State.Handed ends joins s t) (i : Str) (f : Charge → Charge) (hf : ∀ c, (f c).kept = c.kept) :
    State.Handed ends joins s (t.modCharge i f) := by
  refine h.trans ⟨rfl, rfl, rfl, rfl, fun j => by simp, fun j => ?_, fun j => ?_, fun _ _ k => k,
    fun _ => ⟨rfl, rfl, fun j => by simp⟩, id⟩
  · by_cases e : i = j
    · rw [← e, State.modCharge_charge]; exact hf _
    · rw [State.modCharge_charge_ne t e]
  · rw [State.modCharge_control]; exact ⟨rfl, .inl rfl⟩

theorem handed_modSlot (h : State.Handed ends joins s t) (sl : SlotId) (f : SlotRec → SlotRec) :
    State.Handed ends joins s (t.modSlot sl f) := by
  cases sl <;> exact h.same

theorem handed_modSite (h : State.Handed ends joins s t) (f : Site → Site) : State.Handed ends joins s (t.modSite f) := h.same

theorem handed_modRing (h : State.Handed ends joins s t) (f : Ring → Ring) : State.Handed ends joins s (t.modRing f) := h.same

theorem handed_handOrder (h : State.Handed ends joins s t) (f : Frame) : State.Handed ends joins s (t.handOrder f) := h.same

theorem handed_markScan (h : State.Handed ends joins s t) : State.Handed ends joins s t.markScan :=
  h.same (hm := fun _ => rfl)

theorem handed_notice (h : State.Handed ends joins s t) (p : List Byte) : State.Handed ends joins s (t.notice p) := by
  unfold State.notice
  exact handed_ite (handed_ite (handed_modRing h _) (handed_modRing h _)) h

theorem handed_onSlotOf (h : State.Handed ends joins s t) (i : Str) (f : SlotId → State → State)
    (hf : ∀ sl u, State.Handed ends joins s u → State.Handed ends joins s (f sl u)) :
    State.Handed ends joins s (t.onSlotOf i f) := by
  unfold State.onSlotOf
  split
  · exact hf _ _ h
  · exact h

/-- Along the strings, each of which may find the state that those before it left. -/
theorem handed_eachStr (h : State.Handed ends joins s t) (f : Str → State → State)
    (hf : ∀ i u, State.Handed ends joins s u → State.Handed ends joins s (f i u)) : State.Handed ends joins s (t.eachStr f) := by
  have key : ∀ (l : List Str) (u : State), State.Handed ends joins s u →
      State.Handed ends joins s (l.foldl (fun s i => f i s) u) := by
    intro l
    induction l with
    | nil => exact fun u k => k
    | cons i l ih => exact fun u k => ih _ (hf i u k)
  exact key _ _ h

/-! ### String Control -/

theorem handed_stringRect (h : State.Handed ends joins s t) (i : Str) (o : RectOrder) :
    State.Handed ends joins s (t.stringRect i o) := by
  unfold State.stringRect
  split
  · refine handed_handOrder (handed_modControl h i _ ?_) _
    exact fun c => ⟨rfl, rfl⟩
  · exact h

theorem handed_toConfirm (h : State.Handed ends joins s t) (i : Str) : State.Handed ends joins s (t.toConfirm i) :=
  handed_modControl (handed_handOrder h _) i _ fun _ => ⟨rfl, rfl⟩

theorem handed_judgeWindow (h : State.Handed ends joins s t) (i : Str) : State.Handed ends joins s (t.judgeWindow i) :=
  handed_ite (handed_toConfirm h i) h

theorem handed_offAndConfirm (h : State.Handed ends joins s t) (i : Str) : State.Handed ends joins s (t.offAndConfirm i) :=
  handed_toConfirm (handed_stringRect h i _) i

theorem handed_changeVariant (h : State.Handed ends joins s t) (i : Str) (v : Variant) :
    State.Handed ends joins s (t.changeVariant i v) := by
  have k := handed_modControl h i (fun c => { c with variant := some v }) fun _ => ⟨rfl, rfl⟩
  exact handed_ite (handed_offAndConfirm k i) (handed_stringRect k i _)

theorem handed_matchTakesBus (h : State.Handed ends joins s t) (i : Str) : State.Handed ends joins s (t.matchTakesBus i) := by
  unfold State.matchTakesBus
  exact handed_ite (handed_ite (handed_changeVariant h i _)
    (handed_judgeWindow (handed_ite (handed_stringRect h i _) h) i)) h

/-- A bus voltage that has been taken is handed to the returns (R17). -/
theorem handed_handBus (h : State.Handed ends joins s t) (before : Option Nat) : State.Handed ends joins s (t.handBus before) :=
  handed_ite h (handed_eachStr h _ fun i _ k => handed_matchTakesBus k i)

theorem handed_recomputeBus (s : State) :
    State.Handed ends joins { s with busVoltage := s.judgeBusVoltage } s.recomputeBus :=
  handed_handBus (.refl _) _

/-- The end of a round whose cause sets no holdoff and is not COMPLETE (R67). -/
theorem handed_endRound (h : State.Handed true joins s t) {i : Str} (cause : EndReason)
    (hs : (t.control i).state = .called ∨ (t.control i).state = .equalising) (hh : cause.setsHoldoff = false)
    (hc : cause ≠ .complete) : State.Handed true joins s (t.endRound i cause) := by
  have f := frame_endRound t i cause
  have k := returned_kept (t.beforeReturn i cause) i (t.variantFor (cause == .gas) (cause == .discharge)) (t.inState i .called)
  have e : t.endedRecord i cause = { t.control i with endReason := some cause, endStamp := some t.mgmt.clock } := by
    unfold State.endedRecord; simp [hh]
  rw [← endRound_control, beforeReturn_control, e] at k
  obtain ⟨hst, -, hsl, hho, -, -, -, hci, hhu, hle, hlw⟩ := k
  refine h.trans ⟨f.now, f.images, f.water, f.busVoltage, f.readings, fun j => ?_, fun j => ?_, fun _ => f.queue,
    (by intro d; cases d), f.scan⟩
  · by_cases g : j = i
    · rw [g, endRound_charge, if_neg hc]
    · unfold State.charge; rw [f.str j g]
  · by_cases g : j = i
    · rw [g]
      unfold Control.kept
      rw [hsl, hho, hci, hle, hhu, hlw]
      exact ⟨rfl, .inr ⟨hs, hst⟩⟩
    · unfold State.control; rw [f.str j g]; exact ⟨rfl, .inl rfl⟩

theorem handed_causeInReturn (h : State.Handed ends joins s t) (i : Str) (cause : EndReason) :
    State.Handed ends joins s (t.causeInReturn i cause) := by
  unfold State.causeInReturn
  dsimp only
  split
  · exact handed_ite (handed_changeVariant h i _) (handed_ite h (handed_stringRect h i _))
  · exact handed_ite (handed_changeVariant h i _) h
  · exact handed_ite (handed_offAndConfirm h i) h
  · exact h

theorem handed_endCause (h : State.Handed true joins s t) (i : Str) (cause : EndReason) (hh : cause.setsHoldoff = false)
    (hc : cause ≠ .complete) : State.Handed true joins s (t.endCause i cause) := by
  unfold State.endCause
  split <;> rename_i hs
  · exact handed_endRound h cause (.inl hs) hh hc
  · exact handed_endRound h cause (.inr hs) hh hc
  · exact handed_causeInReturn h i cause
  · exact h

/-! ### The charge accounts -/

theorem handed_judgeSpreadTimer (h : State.Handed ends joins s t) (i : Str) :
    State.Handed ends joins s (t.judgeSpreadTimer i) :=
  handed_ite (handed_modCharge h i _ fun _ => rfl) (handed_modCharge h i _ fun _ => rfl)

theorem handed_dischargeBegins (h : State.Handed true joins s t) : State.Handed true joins s t.dischargeBegins := by
  have k : State.Handed true joins s { t with discharge := true, holdoffEnd := none } :=
    h.trans ⟨rfl, rfl, rfl, rfl, fun _ => rfl, fun _ => rfl, fun _ => ⟨rfl, .inl rfl⟩, fun _ _ h => h, (by intro d; cases d), id⟩
  unfold State.dischargeBegins State.noticeAlarm
  refine handed_notice (handed_eachStr k (fun i s => s.endCause i .discharge) ?_) _
  exact fun i _ u => handed_endCause u i .discharge rfl (by decide)

theorem handed_dischargeEnds (h : State.Handed true joins s t) : State.Handed true joins s t.dischargeEnds := by
  refine h.trans ?_
  unfold State.dischargeEnds
  split
  · exact ⟨rfl, rfl, rfl, rfl, fun _ => rfl, fun _ => rfl, fun _ => ⟨rfl, .inl rfl⟩, fun _ _ h => h, (by intro d; cases d),
      fun _ => rfl⟩
  · exact ⟨rfl, rfl, rfl, rfl, fun _ => rfl, fun _ => rfl, fun _ => ⟨rfl, .inl rfl⟩, fun _ _ h => h, (by intro d; cases d), id⟩

theorem handed_rejudgeDischarge (h : State.Handed true joins s t) : State.Handed true joins s t.rejudgeDischarge :=
  handed_ite h (handed_ite (handed_dischargeBegins h) (handed_dischargeEnds h))

end

end Sys2Proof.Machine

/-! ## EXCLUDE and INCLUDE (R77) -/

namespace Sys2Proof.Machine

/-! ### Requests that hand notices -/

/-- Time moves the counting confirmation of a control half alone. -/
theorem State.begin_control_eq (s : State) (dt : Nat) (i : Str) :
    (s.begin dt).control i = { s.control i with confirmLeft := ((s.begin dt).control i).confirmLeft } := by
  rw [State.begin_control]
  split <;> rfl

/-- A request that is accepted leaves the state the blocks made, with its reply ahead of the notices `ns` of the event (R160). -/
theorem exec_accepted {c : Instr} {src : Byte} {r : Request} {s t : State} {dt : Nat} {wet com : Bool}
    (hc : requestOf c = some (src, .request r)) (hd : dtOf c = dt) (hs : s.takesFrom src)
    (ha : ((s.begin dt).heldFor src).act r = t.accept) (he : State.Evolves wet com ((s.begin dt).heldFor src) t) :
    ∃ ns, exec c s = .next (t.modRing fun x =>
      { x with replies := s.ring.replies ++ ⟨src, s.ring.ownAddress, 0x31, [r.code, 0]⟩ :: ns }).settle := by
  obtain ⟨ns, hns⟩ := he.replies
  have hr : (s.begin dt).ring = s.ring := by simp
  have hq : t.ring.replies = s.ring.replies ++ ⟨src, s.ring.ownAddress, kindReply, []⟩ :: ns := by
    rw [← hns]
    show ((s.begin dt).ring.replies ++ [⟨src, (s.begin dt).ring.ownAddress, kindReply, []⟩]) ++ ns = _
    rw [hr, List.append_assoc]
    rfl
  have ho := State.offer_answered (p := .request r) (State.begin_takesFrom hs dt).1
    ((State.answer_request (State.begin_takesFrom hs dt) r).trans ha) (ns := ns) (by rw [hr]; exact hq)
  refine ⟨ns, ?_⟩
  rw [exec_request hc, hd, ho, hr]
  rfl

/-- The answer of a request that names a present string. -/
theorem State.withStr_present {s : State} {b : Byte} {i : Str} (h : b.toNat = i.val) (hp : (s.cfg i).present = true)
    (f : Str → Answer) : s.withStr b f = f i := by
  have e : strOf b = some i := by
    unfold strOf
    rw [dif_pos (h ▸ i.isLt)]
    exact congrArg some (Fin.ext h)
  unfold State.withStr
  rw [e]
  exact if_pos hp

/-- The answer of a request that names no present string (R185). -/
theorem State.withStr_absent {s : State} {b : Byte}
    (h : 7 < b.toNat ∨ ∃ j : Str, b.toNat = j.val ∧ (s.cfg j).present = false) (f : Str → Answer) :
    s.withStr b f = s.refuse .badArg := by
  unfold State.withStr strOf
  rcases h with h | ⟨j, h, hp⟩
  · rw [dif_neg (by omega)]
  · rw [dif_pos (h ▸ j.isLt), show (⟨b.toNat, h ▸ j.isLt⟩ : Str) = j from Fin.ext h]
    exact if_neg (by simp [State.present, hp])

/-! ### A string into or out of ON_BUS (R62) -/

/-- Full detection ends for a string out of ON_BUS (R30). -/
def State.fullCleared (s : State) (i : Str) : State :=
  if s.inState i .onBus then s else s.modCharge i fun c => { c with fullTimer := none }

theorem onBusChanged_eq (s : State) (i : Str) :
    s.onBusChanged i = ((s.fullCleared i).recomputeBus.judgeSpreadTimer i).rejudgeDischarge := rfl

theorem handed_onBusChanged (s : State) (i : Str) (joins : Bool) :
    State.Handed true joins { s.fullCleared i with busVoltage := (s.fullCleared i).judgeBusVoltage } (s.onBusChanged i) :=
  handed_rejudgeDischarge (handed_judgeSpreadTimer (handed_recomputeBus (s.fullCleared i)) i)

/-- After a change into or out of ON_BUS the bus voltage is the one judged (R17). -/
theorem onBusChanged_busVoltage (s : State) (i : Str) : (s.onBusChanged i).busVoltage = (s.onBusChanged i).judgeBusVoltage := by
  have h := handed_onBusChanged s i true
  rw [h.busVoltage, h.judgeBusVoltage]
  rfl

theorem notice_queue (s : State) (p : List Byte) : (s.notice p).queue = s.queue := by
  unfold State.notice
  split
  · split <;> rfl
  · rfl

theorem notice_discharge (s : State) (p : List Byte) : (s.notice p).discharge = s.discharge := by
  unfold State.notice
  split
  · split <;> rfl
  · rfl

theorem eachStr_endCause_discharge (s : State) (c : EndReason) :
    (s.eachStr fun i s => s.endCause i c).discharge = s.discharge := by
  have key : ∀ (l : List Str) (u : State), (l.foldl (fun s i => s.endCause i c) u).discharge = u.discharge := by
    intro l
    induction l with
    | nil => exact fun u => rfl
    | cons i l ih => exact fun u => (ih _).trans (frame_endCause u i c).discharge
  exact key _ _

theorem dischargeBegins_discharge (s : State) : s.dischargeBegins.discharge = true := by
  unfold State.dischargeBegins State.noticeAlarm
  rw [notice_discharge, eachStr_endCause_discharge]

/-- The queue moves with a DISCHARGE that begins alone (R32, R100). -/
theorem rejudgeDischarge_queue {s : State} (h : s.discharge = true ∨ s.rejudgeDischarge.discharge = false) :
    s.rejudgeDischarge.queue = s.queue := by
  revert h
  unfold State.rejudgeDischarge
  split
  · exact fun _ => rfl
  · rename_i hne
    split
    · rename_i hj
      rintro (h | h)
      · exact absurd (hj.trans h.symm) hne
      · rw [dischargeBegins_discharge] at h; cases h
    · intro _
      unfold State.dischargeEnds
      split <;> rfl

theorem onBusChanged_queue {s : State} {i : Str} (h : s.discharge = true ∨ (s.onBusChanged i).discharge = false) :
    (s.onBusChanged i).queue = s.queue := by
  have k := (handed_judgeSpreadTimer (ends := false) (joins := false) (handed_recomputeBus (s.fullCleared i)) i).calm rfl
  obtain ⟨kq, kd, -⟩ := k
  have hf : (s.fullCleared i).queue = s.queue ∧ (s.fullCleared i).discharge = s.discharge := by
    unfold State.fullCleared
    split <;> exact ⟨rfl, rfl⟩
  have hd : (((s.fullCleared i).recomputeBus).judgeSpreadTimer i).discharge = s.discharge := kd.trans hf.2
  rw [onBusChanged_eq] at h ⊢
  exact (rejudgeDischarge_queue (by rw [hd]; exact h)).trans (kq.trans hf.1)

/-! ### EXCLUDE -/

/-- The string has left the queue and is OUT (R77, R112). -/
def State.takenOut (s : State) (i : Str) : State :=
  (((s.removeEntry i .equalise).removeEntry i .water).modControl i fun c => { c with state := .out }).markScan

theorem takenOut_control (s : State) (i : Str) : (s.takenOut i).control i = { s.control i with state := .out } := by
  simp only [State.takenOut, markScan_control, State.modControl_control]
  rfl

theorem takenOut_queue (s : State) (i : Str) : (s.takenOut i).queue = s.queue.filter fun e => e.string != i := by
  show (s.queue.filter fun e => !e.named i .equalise).filter (fun e => !e.named i .water) = _
  rw [List.filter_filter]
  congr 1
  funext e
  obtain ⟨str, k, _, _, _, _, _⟩ := e
  cases k <;> simp [Entry.named, bne]

theorem excludeStr_eq (s : State) (i : Str) : s.excludeStr i
    = if (s.control i).state = .onBus then (s.takenOut i).onBusChanged i else s.takenOut i := by
  have hin : (s.takenOut i).inState i .onBus = false := by unfold State.inState; rw [takenOut_control]; rfl
  show (if ((s.control i).state == .onBus) = (s.takenOut i).inState i .onBus then s.takenOut i
    else (s.takenOut i).onBusChanged i) = _
  rw [hin]
  by_cases h : (s.control i).state = .onBus <;> simp [h]

/-- What the hand-offs of an EXCLUDE find. -/
def State.offBus (s : State) (i : Str) : State :=
  if (s.control i).state = .onBus then
    { (s.takenOut i).fullCleared i with busVoltage := ((s.takenOut i).fullCleared i).judgeBusVoltage }
  else s.takenOut i

theorem handed_excludeStr (s : State) (i : Str) : State.Handed true false (s.offBus i) (s.excludeStr i) := by
  rw [excludeStr_eq, State.offBus]
  split
  · exact handed_onBusChanged ..
  · exact .refl _

theorem fullCleared_control (s : State) (i j : Str) : (s.fullCleared i).control j = s.control j := by
  unfold State.fullCleared; split <;> simp

theorem offBus_control (s : State) (i : Str) : (s.offBus i).control i = { s.control i with state := .out } := by
  unfold State.offBus
  split
  · exact (fullCleared_control ..).trans (takenOut_control ..)
  · exact takenOut_control ..

theorem offBus_fixed (s : State) (i : Str) : (s.offBus i).queue = (s.takenOut i).queue ∧ (s.offBus i).water = s.water
    ∧ (s.offBus i).images = s.images ∧ (s.offBus i).marks.scan = true := by
  unfold State.offBus State.fullCleared
  split
  · dsimp only
    split <;> exact ⟨rfl, rfl, rfl, rfl⟩
  · exact ⟨rfl, rfl, rfl, rfl⟩

theorem takenOut_fullTimer (s : State) (i : Str) : (((s.takenOut i).fullCleared i).charge i).fullTimer = none := by
  have hin : (s.takenOut i).inState i .onBus = false := by unfold State.inState; rw [takenOut_control]; rfl
  unfold State.fullCleared
  rw [hin, if_neg Bool.false_ne_true, State.modCharge_charge]

theorem excludeStr_state (s : State) (i : Str) : ((s.excludeStr i).control i).state = .out := by
  have hs : ((s.offBus i).control i).state = .out := by rw [offBus_control]
  rw [(handed_excludeStr s i).state (by rw [hs]; decide) (by rw [hs]; decide), hs]

/-- EXCLUDE from ON_BUS: the string counts no more toward full detection and the bus voltage (R17, R30). -/
theorem excludeStr_offBus {s : State} {i : Str} (h : (s.control i).state = .onBus) :
    ((s.excludeStr i).charge i).fullTimer = none ∧ ∀ b, (s.excludeStr i).busVoltage = some b →
      ∃ j, j ≠ i ∧ (s.cfg j).present = true ∧ ((s.excludeStr i).control j).state = .onBus
        ∧ (s.excludeStr i).terminalV j = some b := by
  have k := handed_excludeStr s i
  have e : s.excludeStr i = (s.takenOut i).onBusChanged i := by rw [excludeStr_eq, if_pos h]
  have hv : (s.excludeStr i).busVoltage = (s.excludeStr i).judgeBusVoltage := by rw [e]; exact onBusChanged_busVoltage ..
  constructor
  · have := congrArg Charge.fullTimer (k.charge i)
    unfold State.offBus at this
    rw [if_pos h] at this
    exact this.trans (takenOut_fullTimer s i)
  · intro b hb
    rw [hv, State.judgeBusVoltage_eq_some] at hb
    obtain ⟨⟨j, hp, hs, ht⟩, -⟩ := hb
    refine ⟨j, ?_, ?_, hs, (State.terminalV_eq_some ..).mpr ht⟩
    · rintro rfl
      rw [excludeStr_state] at hs
      cases hs
    · rw [k.cfg] at hp
      unfold State.cfg at hp ⊢
      rwa [(offBus_fixed s i).2.2.1] at hp

theorem excludeStr_queue {s : State} {i : Str} (h : s.discharge = true ∨ (s.excludeStr i).discharge = false) :
    (s.excludeStr i).queue = s.queue.filter fun e => e.string != i := by
  rw [← takenOut_queue]
  revert h
  rw [excludeStr_eq]
  split
  · exact fun h => onBusChanged_queue (s := s.takenOut i) h
  · exact fun _ => rfl

/-! ### INCLUDE -/

/-- The string stands in ON_BUS and the change is on its way (R77). -/
def State.putOnBus (s : State) (i : Str) : State :=
  (s.modControl i fun c => { c with state := .onBus }).markScan

theorem putOnBus_control (s : State) (i : Str) : (s.putOnBus i).control i = { s.control i with state := .onBus } := by
  simp only [State.putOnBus, markScan_control, State.modControl_control]

theorem putOnBus_reading (s : State) (i j : Str) : (s.putOnBus i).reading j = s.reading j :=
  State.modControl_reading s i j fun c => { c with state := .onBus }

theorem putOnBus_charge (s : State) (i j : Str) : (s.putOnBus i).charge j = s.charge j :=
  State.modControl_charge s i j fun c => { c with state := .onBus }

theorem toBus_eq {s : State} {i : Str} (h : (s.control i).state ≠ .onBus) : s.toBus i = (s.putOnBus i).onBusChanged i := by
  have hin : (s.putOnBus i).inState i .onBus = true := by unfold State.inState; rw [putOnBus_control]; rfl
  show (if ((s.control i).state == .onBus) = (s.putOnBus i).inState i .onBus then s.putOnBus i
    else (s.putOnBus i).onBusChanged i) = _
  rw [hin]
  simp [h]

theorem handed_toBus {s : State} {i : Str} (h : (s.control i).state ≠ .onBus) (joins : Bool) :
    State.Handed true joins { s.putOnBus i with busVoltage := (s.putOnBus i).judgeBusVoltage } (s.toBus i) := by
  have hin : (s.putOnBus i).inState i .onBus = true := by unfold State.inState; rw [putOnBus_control]; rfl
  have e : (s.putOnBus i).fullCleared i = s.putOnBus i := if_pos hin
  have k := handed_onBusChanged (s.putOnBus i) i joins
  rw [e] at k
  rw [toBus_eq h]
  exact k

/-- A string that comes to ON_BUS counts toward the bus voltage (R17). -/
theorem toBus_voltage {s : State} {i : Str} (h : (s.control i).state ≠ .onBus) (hp : (s.cfg i).present = true) {v : Nat}
    (hv : s.terminalV i = some v) : ∃ b, (s.toBus i).busVoltage = some b ∧ v ≤ b := by
  have k := handed_toBus h true
  have e : (s.toBus i).busVoltage = (s.toBus i).judgeBusVoltage := by rw [toBus_eq h]; exact onBusChanged_busVoltage ..
  rw [e]
  refine State.le_judgeBusVoltage (i := i) ⟨by rw [k.cfg]; exact hp, ?_, (State.terminalV_eq_some ..).mp ?_⟩
  · have c := putOnBus_control s i
    exact (StringState.moves_onBus (k.control i).2).mpr (congrArg Control.state c)
  · rw [k.terminalV, ← hv]
    unfold State.terminalV
    show (if s.fresh ((s.putOnBus i).reading i).tvExpiry = true then ((s.putOnBus i).reading i).terminalV else none) = _
    rw [putOnBus_reading]

/-! ### The two requests -/

theorem State.act_exclude (s : State) (src b : Byte) : (s.heldFor src).act (.excludeStr b)
    = (s.heldFor src).withStr b fun i =>
      if (s.heldFor src).mayExclude i then ((s.heldFor src).excludeStr i).accept else (s.heldFor src).refuse .notAllowed := rfl

theorem State.act_include (s : State) (src b : Byte) : (s.heldFor src).act (.includeStr b)
    = (s.heldFor src).withStr b fun i =>
      if (s.heldFor src).inState i .out ∧ ((s.heldFor src).reading i).lastPosition = some .bus then
        ((s.heldFor src).toBus i).accept else (s.heldFor src).refuse .notAllowed := rfl

theorem State.mayExclude_iff (s : State) (i : Str) : s.mayExclude i = true
    ↔ ((s.control i).state = .onBus ∨ ((s.control i).state = .faulted ∧ (s.control i).slot = none))
      ∧ (s.water.state = .idle ∨ s.water.string ≠ some i) := by
  simp only [State.mayExclude, State.inState, State.bound, State.watering, Bool.and_eq_true, Bool.or_eq_true, beq_iff_eq,
    Bool.not_eq_true', Option.isSome_eq_false_iff, Option.isNone_iff_eq_none, Bool.and_eq_false_iff, bne_eq_false_iff_eq,
    beq_eq_false_iff_ne]

/-- What a request leaves that moves neither cell records nor the Management Agent. -/
theorem State.heldFor_evolves {s t : State} {dt : Nat} {src : Byte}
    (h : State.Evolves false false ((s.begin dt).heldFor src) t) : t.cells = s.cells ∧ t.mgmt = s.mgmt ∧ t.images = s.images := by
  obtain ⟨hi, hm, -⟩ := h.images rfl
  exact ⟨(h.dry rfl).trans (State.begin_cells s dt), hm.trans (State.begin_mgmt s dt), hi.trans (State.begin_images s dt)⟩

/-- What a request finds of a string: only the counting confirmation has moved. -/
theorem State.heldFor_control (s : State) (dt : Nat) (src : Byte) (i : Str) : ((s.begin dt).heldFor src).control i
    = { s.control i with confirmLeft := ((s.begin dt).control i).confirmLeft } :=
  State.begin_control_eq s dt i

theorem State.heldFor_reading (s : State) (dt : Nat) (src : Byte) (i : Str) :
    ((s.begin dt).heldFor src).reading i = s.reading i :=
  State.begin_reading s dt i

theorem State.heldFor_present (s : State) (dt : Nat) (src : Byte) (i : Str) :
    (((s.begin dt).heldFor src).cfg i).present = (s.cfg i).present := by
  rw [show ((s.begin dt).heldFor src).cfg i = s.cfg i from State.begin_cfg s dt i]

theorem State.heldFor_water (s : State) (dt : Nat) (src : Byte) : ((s.begin dt).heldFor src).water = s.water :=
  State.begin_water s dt

/-- A request that names no present string is BAD_ARG (R185). -/
theorem exclude_include_badArg {s : State} {dt : Nat} {src string : Byte} (hs : s.takesFrom src)
    (h : 7 < string.toNat ∨ ∃ j : Str, string.toNat = j.val ∧ (s.cfg j).present = false) :
    exec (.excludeStr dt src string) s = .next ((s.begin dt).replied src 0x40 .badArg 0 []).quietEnd
      ∧ exec (.includeStr dt src string) s = .next ((s.begin dt).replied src 0x41 .badArg 0 []).quietEnd := by
  have h' : 7 < string.toNat ∨ ∃ j : Str, string.toNat = j.val ∧ (((s.begin dt).heldFor src).cfg j).present = false := by
    simpa only [State.heldFor_present] using h
  constructor
  · refine exec_refused (r := .excludeStr string) rfl rfl hs ?_
    rw [State.act_exclude, State.withStr_absent h']
  · refine exec_refused (r := .includeStr string) rfl rfl hs ?_
    rw [State.act_include, State.withStr_absent h']

section
variable {s : State} {dt : Nat} {src string : Byte} {i : Str}

theorem exclude_notAllowed (hs : s.takesFrom src) (hi : string.toNat = i.val) (hp : (s.cfg i).present = true)
    (h : ¬ (((s.control i).state = .onBus ∨ ((s.control i).state = .faulted ∧ (s.control i).slot = none))
      ∧ (s.water.state = .idle ∨ s.water.string ≠ some i))) :
    exec (.excludeStr dt src string) s = .next ((s.begin dt).replied src 0x40 .notAllowed 0 []).quietEnd := by
  refine exec_refused (r := .excludeStr string) rfl rfl hs ?_
  rw [State.act_exclude, State.withStr_present hi (by rw [State.heldFor_present, hp]), if_neg]
  rw [State.mayExclude_iff, State.heldFor_control, State.heldFor_water]
  exact h

theorem exclude_taken (hs : s.takesFrom src) (hi : string.toNat = i.val) (hp : (s.cfg i).present = true)
    (hst : (s.control i).state = .onBus ∨ ((s.control i).state = .faulted ∧ (s.control i).slot = none))
    (hw : s.water.state = .idle ∨ s.water.string ≠ some i) :
    ∃ ns, exec (.excludeStr dt src string) s = .next ((((s.begin dt).heldFor src).excludeStr i).modRing fun x =>
      { x with replies := s.ring.replies ++ ⟨src, s.ring.ownAddress, 0x31, [0x40, 0]⟩ :: ns }).settle := by
  refine exec_accepted (r := .excludeStr string) (dt := dt) (wet := false) (com := false) rfl rfl hs ?_ (evolves_excludeStr (.refl _) i)
  rw [State.act_exclude, State.withStr_present hi (by rw [State.heldFor_present, hp]), if_pos]
  rw [State.mayExclude_iff, State.heldFor_control, State.heldFor_water]
  exact ⟨hst, hw⟩

theorem include_notAllowed (hs : s.takesFrom src) (hi : string.toNat = i.val) (hp : (s.cfg i).present = true)
    (h : (s.control i).state ≠ .out ∨ (s.reading i).lastPosition ≠ some .bus) :
    exec (.includeStr dt src string) s = .next ((s.begin dt).replied src 0x41 .notAllowed 0 []).quietEnd := by
  refine exec_refused (r := .includeStr string) rfl rfl hs ?_
  rw [State.act_include, State.withStr_present hi (by rw [State.heldFor_present, hp]), if_neg]
  rw [State.inState, beq_iff_eq, State.heldFor_control, State.heldFor_reading]
  exact fun k => h.elim (· k.1) (· k.2)

theorem include_taken (hs : s.takesFrom src) (hi : string.toNat = i.val) (hp : (s.cfg i).present = true)
    (ho : (s.control i).state = .out) (hl : (s.reading i).lastPosition = some .bus) :
    ∃ ns, exec (.includeStr dt src string) s = .next ((((s.begin dt).heldFor src).toBus i).modRing fun x =>
      { x with replies := s.ring.replies ++ ⟨src, s.ring.ownAddress, 0x31, [0x41, 0]⟩ :: ns }).settle := by
  refine exec_accepted (r := .includeStr string) (dt := dt) (wet := false) (com := false) rfl rfl hs ?_ (evolves_toBus (.refl _) i)
  rw [State.act_include, State.withStr_present hi (by rw [State.heldFor_present, hp]), if_pos]
  rw [State.inState, beq_iff_eq, State.heldFor_control, State.heldFor_reading]
  exact ⟨ho, hl⟩

end

/-- Settles O42: the refusals by their conditions, the two changes by what the hand-offs of a change into or out of ON_BUS
leave. -/
theorem stringsLeaveAndRejoin : Obligations.StringsLeaveAndRejoin := by
  intro s dt src string hs
  refine ⟨exclude_include_badArg hs, fun i hi hp => ⟨fun hst hwt => ?_, fun h1 h2 => ?_, fun h1 h2 => ?_, fun ho hl => ?_,
    include_notAllowed hs hi hp⟩⟩
  · obtain ⟨ns, e⟩ := exclude_taken (dt := dt) hs hi hp hst hwt
    obtain ⟨hc, hm, him⟩ := State.heldFor_evolves (evolves_excludeStr (.refl ((s.begin dt).heldFor src)) i)
    have hctl := State.heldFor_control s dt src
    have hq : ((s.begin dt).heldFor src).queue = s.queue := State.begin_queue s dt
    have hd : ((s.begin dt).heldFor src).discharge = s.discharge := State.begin_discharge s dt
    have hpr := State.heldFor_present s dt src
    have hw := State.heldFor_water s dt src
    generalize (s.begin dt).heldFor src = b at e hc hm him hctl hq hd hpr hw
    have k := handed_excludeStr b i
    obtain ⟨oq, ow, -, osc⟩ := offBus_fixed b i
    refine ⟨_, ns, e, excludeStr_state b i, ?_, ?_, k.scan osc, fun h => ?_, fun h => ?_, rfl, hc, ?_, hm, him⟩
    · exact (k.slotOf i).trans (by rw [offBus_control, hctl])
    · intro x hx
      have := k.queue rfl x hx
      rw [oq, takenOut_queue, hq, List.mem_filter] at this
      exact ⟨this.1, by simpa using this.2⟩
    · rw [← hq]
      exact excludeStr_queue (s := b) (by rw [hd]; exact h)
    · obtain ⟨h1, h2⟩ := excludeStr_offBus (s := b) (i := i) (by rw [hctl]; exact h)
      refine ⟨h1, fun v hv => ?_⟩
      obtain ⟨j, hj, hpj, hsj, htj⟩ := h2 v hv
      exact ⟨j, hj, by rw [← hpr]; exact hpj, hsj, htj⟩
    · exact k.water.trans (ow.trans hw)
  · exact exclude_notAllowed hs hi hp fun ⟨k, _⟩ => k.elim h1 fun ⟨k1, k2⟩ => h2.elim (· k1) (· k2)
  · exact exclude_notAllowed hs hi hp fun ⟨_, k⟩ => k.elim h1 (· h2)
  · obtain ⟨ns, e⟩ := include_taken (dt := dt) hs hi hp ho hl
    obtain ⟨hc, hm, him⟩ := State.heldFor_evolves (evolves_toBus (.refl ((s.begin dt).heldFor src)) i)
    have hctl := State.heldFor_control s dt src i
    have hpr := State.heldFor_present s dt src i
    have hw := State.heldFor_water s dt src
    have hch : ((s.begin dt).heldFor src).charge i = s.charge i := State.begin_charge s dt i
    have htv : (s.begin dt).terminalV i = ((s.begin dt).heldFor src).terminalV i := rfl
    rw [htv]
    generalize (s.begin dt).heldFor src = b at e hc hm him hctl hpr hw hch
    have hne : (b.control i).state ≠ .onBus := by rw [hctl]; dsimp only; rw [ho]; decide
    have k := handed_toBus hne false
    have hkept : ((b.toBus i).charge i).kept = (s.charge i).kept :=
      (k.charge i).trans (congrArg Charge.kept ((putOnBus_charge b i i).trans hch))
    refine ⟨_, ns, e, ?_, k.scan rfl, fun v hv => toBus_voltage hne (hpr.trans hp) hv, ?_, ?_, rfl, hc, k.water.trans hw, hm, him⟩
    · exact (StringState.moves_onBus (k.control i).2).mpr (congrArg Control.state (putOnBus_control b i))
    · exact Charge.qBal_of_kept hkept
    · exact Charge.assumed_of_kept hkept

end Sys2Proof.Machine

/-! ## The slots' part in a hand-off -/

namespace Sys2Proof.Machine

section
variable {ends joins : Bool} {s t u : State}

theorem handed_followSite (h : State.Handed ends joins s t) : State.Handed ends joins s t.followSite := by
  unfold State.followSite State.followLamp State.followMeasuring State.followDuty State.followActivity
  exact handed_modSite (handed_modSite (handed_modSite (handed_modSite h _) _) _) _

theorem handed_genRequest (h : State.Handed ends joins s t) : State.Handed ends joins s t.genRequest := by
  have k := handed_modSite h fun x => { x with genWidth := t.lim.genreqWidth }
  unfold State.genRequest State.genPulse
  exact handed_ite (handed_ite (handed_modSite k _) (handed_modSite k _)) h

theorem handed_slotOrder (h : State.Handed ends joins s t) (sl : SlotId) (o : RectOrder) :
    State.Handed ends joins s (t.slotOrder sl o) := by
  unfold State.slotOrder State.handRect
  exact handed_ite h (handed_handOrder (handed_modSlot h sl _) _)

theorem handed_slotEnds (h : State.Handed true joins s t) (sl : SlotId) (cause : EndReason) (hh : cause.setsHoldoff = false)
    (hc : cause ≠ .complete) : State.Handed true joins s (t.slotEnds sl cause) := by
  unfold State.slotEnds
  split
  · exact handed_endCause h _ cause hh hc
  · exact h

theorem handed_judgeReasons (h : State.Handed ends joins s t) (sl : SlotId) : State.Handed ends joins s (t.judgeReasons sl) := by
  unfold State.judgeReasons
  exact handed_ite (handed_genRequest (handed_modSlot h sl _)) (handed_modSlot h sl _)

theorem handed_judgeCriterion (h : State.Handed ends joins s t) (sl : SlotId) :
    State.Handed ends joins s (t.judgeCriterion sl) := by
  unfold State.judgeCriterion
  split
  · split
    · exact handed_ite (handed_modSlot h sl _) (handed_modSlot h sl _)
    · exact h
  · exact h

theorem handed_suspend (h : State.Handed true joins s t) (sl : SlotId) (back : ResumeState) (o : RectOrder) :
    State.Handed true joins s (t.suspend sl back o) := by
  have k := handed_slotOrder (handed_modSlot h sl fun r =>
    { r with entryState := some .suspended, resumeState := some back, pendingOrder := some o }) sl .off
  unfold State.suspend
  exact handed_ite (handed_slotEnds k sl _ rfl (by decide)) k

theorem handed_resume (h : State.Handed ends joins s t) (sl : SlotId) : State.Handed ends joins s (t.resume sl) := by
  unfold State.resume
  split
  · exact h
  · exact handed_followSite (handed_judgeCriterion (handed_slotOrder (handed_modSlot h sl _) sl _) sl)

theorem handed_actOnReasons (h : State.Handed true joins s t) (sl : SlotId) :
    State.Handed true joins s (t.actOnReasons sl) := by
  unfold State.actOnReasons
  split
  · exact handed_ite (handed_suspend h ..) h
  · exact handed_ite (handed_suspend h ..) h
  · exact handed_ite h (handed_resume h sl)
  · exact h

theorem handed_reviewReasons (h : State.Handed true joins s t) (sl : SlotId) :
    State.Handed true joins s (t.reviewReasons sl) :=
  handed_ite (handed_actOnReasons (handed_judgeReasons h sl) sl) h

theorem handed_temperatureArrives (h : State.Handed true joins s t) (sl : SlotId) (ts : Option Int) :
    State.Handed true joins s (t.temperatureArrives sl ts) := by
  cases ts with
  | none => exact h
  | some x =>
    have k := handed_modSlot h sl fun r => { r with tc := some x }
    unfold State.temperatureArrives
    dsimp only
    refine handed_reviewReasons ?_ sl
    split
    · exact handed_slotOrder k ..
    · exact handed_slotOrder k ..
    · exact handed_modSlot k ..
    · exact k

theorem handed_handDerived (h : State.Handed true joins s t) (i : Str) (old : Reading) :
    State.Handed true joins s (t.handDerived i old) := by
  have k1 := handed_ite (c := (t.reading i).freshCells = old.freshCells) h
    (handed_onSlotOf (handed_markScan h) i (fun sl s => s.reviewReasons sl) fun sl u k => handed_reviewReasons k sl)
  unfold State.handDerived
  dsimp only
  have k2 := handed_ite (c := (t.reading i).ts = old.ts) k1
    (handed_onSlotOf (handed_markScan k1) i (fun sl s => s.temperatureArrives sl (t.reading i).ts)
      fun sl u k => handed_temperatureArrives k sl _)
  exact handed_ite k2
    (handed_onSlotOf (handed_judgeSpreadTimer k2 i) i (fun sl s => s.judgeCriterion sl) fun sl u k => handed_judgeCriterion k sl)

theorem handed_enqueue (h : State.Handed true true s t) (e : Entry) : State.Handed true true s (t.enqueue e) := by
  refine h.trans ?_
  unfold State.enqueue
  split <;> exact ⟨rfl, rfl, rfl, rfl, fun _ => rfl, fun _ => rfl, fun _ => ⟨rfl, .inl rfl⟩, (by intro d; cases d),
    (by intro d; cases d), fun _ => rfl⟩

theorem handed_judgeWaterDue (h : State.Handed true true s t) (i : Str) : State.Handed true true s (t.judgeWaterDue i) := by
  unfold State.judgeWaterDue
  exact handed_ite (handed_enqueue h _) h

theorem handed_handDry (h : State.Handed true true s t) (i : Str) (old : Reading) :
    State.Handed true true s (t.handDry i old) := by
  unfold State.handDry
  exact handed_ite h (handed_ite (handed_judgeWaterDue (handed_markScan h) i) (handed_markScan h))

end

end Sys2Proof.Machine

/-! ## Values that become stale (R12) -/

namespace Sys2Proof.Machine

/-- An event whose condition holds takes place. -/
theorem eventIf_due {s : State} {dt : Nat} {cond : State → Bool} (h : cond (s.begin dt) = true) (eff : State → State) :
    eventIf dt cond eff s = .next (eff (s.begin dt)).settle :=
  if_pos h

/-- A timer of the state is reached once its time has passed. -/
theorem State.begin_reached {s : State} {dt e : Nat} {x : Option Nat} (hx : x = some e) (he : e ≤ s.now + dt) :
    (s.begin dt).reached x = true :=
  (State.reached_iff _ _).mpr ⟨e, hx, by rwa [State.begin_now]⟩

/-- The judged values of a string depend on its cells, the configuration and the time base. -/
theorem State.judged_congr {s t : State} (hc : t.cells = s.cells) (hi : t.images = s.images) (hn : t.now = s.now) (i : Str) :
    t.judgeFreshCells i = s.judgeFreshCells i ∧ t.judgeTs i = s.judgeTs i ∧ t.judgeSpread i = s.judgeSpread i
      ∧ t.judgeDry i = s.judgeDry i := by
  have hcell : t.cellAt i = s.cellAt i := by
    funext p
    unfold State.cellAt State.cell
    rw [hc]
  have hpos : t.positions i = s.positions i := by
    unfold State.positions State.cfg
    rw [hi]
  have hfresh : t.fresh = s.fresh := by
    funext x
    unfold State.fresh
    rw [hn]
  unfold State.judgeFreshCells State.judgeTs State.judgeSpread State.judgeDry State.freshTemps State.freshVoltages
    State.cellFresh
  rw [hcell, hpos, hfresh]
  exact ⟨rfl, rfl, rfl, rfl⟩

theorem recompute_reading (s : State) (i : Str) : (s.recompute i).reading i
    = { s.reading i with
        freshCells := s.judgeFreshCells i, ts := s.judgeTs i, spread := s.judgeSpread i, dry := s.judgeDry i } := by
  unfold State.recompute
  rw [State.modReading_reading]

/-- The derived values of a string, once recomputed and handed on, are those of its cells. -/
theorem handed_recompute_judged {s t : State} {ends joins : Bool} {i : Str} (h : State.Handed ends joins (s.recompute i) t)
    (hc : t.cells = s.cells) : (t.reading i).freshCells = t.judgeFreshCells i ∧ (t.reading i).ts = t.judgeTs i
      ∧ (t.reading i).spread = t.judgeSpread i ∧ (t.reading i).dry = t.judgeDry i := by
  obtain ⟨h1, h2, h3, h4⟩ := State.judged_congr hc h.images h.now i
  rw [h.reading, recompute_reading, h1, h2, h3, h4]
  exact ⟨rfl, rfl, rfl, rfl⟩

/-- A cell value becomes stale: the record keeps the value, and the derived values of its string are recomputed (R12). -/
theorem staleCell {s : State} {i : CellIx} {f : Cell → Cell} {t : State} (ht : t =
      ((((s.modCell i f).recompute (cellStr i)).handDerived (cellStr i) (s.reading (cellStr i))).handDry (cellStr i)
        (s.reading (cellStr i)))) :
    t.cell i = f (s.cell i) ∧ (∀ j, j ≠ i → t.cell j = s.cell j)
      ∧ (t.reading (cellStr i)).freshCells = t.judgeFreshCells (cellStr i)
      ∧ (t.reading (cellStr i)).ts = t.judgeTs (cellStr i) ∧ (t.reading (cellStr i)).spread = t.judgeSpread (cellStr i)
      ∧ t.water = s.water ∧ t.mgmt = s.mgmt ∧ t.images = s.images := by
  subst ht
  have h := handed_handDry (handed_handDerived (.refl ((s.modCell i f).recompute (cellStr i))) (cellStr i)
    (s.reading (cellStr i))) (cellStr i) (s.reading (cellStr i))
  have e := evolves_handDry (wet := false) (com := false) (evolves_handDerived (.refl ((s.modCell i f).recompute (cellStr i)))
    (cellStr i) (s.reading (cellStr i))) (cellStr i) (s.reading (cellStr i))
  revert h e
  generalize (((s.modCell i f).recompute (cellStr i)).handDerived (cellStr i) (s.reading (cellStr i))).handDry (cellStr i)
    (s.reading (cellStr i)) = t
  intro h e
  have hcells : t.cells = (s.modCell i f).cells := e.dry rfl
  have hcell : ∀ j, t.cell j = (s.modCell i f).cell j := fun j => by unfold State.cell; rw [hcells]
  obtain ⟨himg, hm, -⟩ := e.images rfl
  obtain ⟨h1, h2, h3, -⟩ := handed_recompute_judged h hcells
  exact ⟨by rw [hcell, State.modCell_cell], fun j hj => by rw [hcell, State.modCell_cell_ne s (Ne.symm hj)], h1, h2, h3,
    h.water, hm, himg⟩

/-- A terminal voltage becomes stale: it stays stored, and for a string in ON_BUS the bus voltage is recomputed (R12, R17). -/
theorem staleTerminal (s : State) (i : Str) :
    ((s.becomeStale (.terminal i)).reading i = { s.reading i with tvExpiry := none })
      ∧ (∀ j, j ≠ i → (s.becomeStale (.terminal i)).reading j = s.reading j)
      ∧ (s.becomeStale (.terminal i)).busVoltage
        = (if (s.control i).state = .onBus then (s.becomeStale (.terminal i)).judgeBusVoltage else s.busVoltage)
      ∧ (s.becomeStale (.terminal i)).water = s.water := by
  have hst : (s.modReading i fun r => { r with tvExpiry := none }).inState i .onBus = s.inState i .onBus := by
    unfold State.inState
    rw [State.modReading_control]
  have key : ∀ {b : Option Nat} {t : State}, State.Handed true true
      { (s.modReading i fun r => { r with tvExpiry := none }) with busVoltage := b } t →
      t.reading i = { s.reading i with tvExpiry := none } ∧ (∀ j, j ≠ i → t.reading j = s.reading j) ∧ t.water = s.water := by
    intro b t h
    refine ⟨(h.reading i).trans (State.modReading_reading s i fun r => { r with tvExpiry := none }), fun j hj => (h.reading j).trans ?_, h.water⟩
    exact State.modReading_reading_ne s (Ne.symm hj) fun r => { r with tvExpiry := none }
  unfold State.becomeStale
  dsimp only
  rw [hst, State.inState]
  by_cases h : (s.control i).state = .onBus
  · rw [if_pos (by simpa using h), if_pos h]
    have k := handed_recomputeBus (ends := true) (joins := true) (s.modReading i fun r => { r with tvExpiry := none })
    obtain ⟨k1, k2, k3⟩ := key k
    exact ⟨k1, k2, k.busVoltage.trans k.judgeBusVoltage.symm, k3⟩
  · rw [if_neg (by simpa using h), if_neg h]
    obtain ⟨k1, k2, k3⟩ := key (b := s.busVoltage) (.refl _)
    exact ⟨k1, k2, rfl, k3⟩

theorem becomeStale_terminal_evolves (s : State) (i : Str) : (s.becomeStale (.terminal i)).images = s.images
    ∧ (s.becomeStale (.terminal i)).mgmt = s.mgmt ∧ (s.becomeStale (.terminal i)).cells = s.cells := by
  have k := evolves_modReading (wet := false) (com := false) (.refl s) i fun r => { r with tvExpiry := none }
  have h : State.Evolves false false s (s.becomeStale (.terminal i)) := evolves_ite (evolves_recomputeBus k) k
  obtain ⟨h1, h2, -⟩ := h.images rfl
  exact ⟨h1, h2, h.dry rfl⟩

/-- An expiry that has been reached makes the value stale (R12). -/
theorem exec_expiry_due {s : State} {dt : Nat} {m : Measured} (h : (s.begin dt).reached ((s.begin dt).expiryOf m) = true) :
    exec (.freshnessExpiry dt m) s = .next ((s.begin dt).becomeStale m).settle := by
  simp only [exec, execFreshnessExpiry]
  exact eventIf_due h _

/-- Settles O45: the expiries by what the hand-offs leave, the judged values by their definitions. -/
theorem freshnessAndHoldoffExpire : Obligations.FreshnessAndHoldoffExpire := by
  intro s dt
  refine ⟨fun i e hx he => ?_, fun i e hx he => ?_, fun i e hx he => ?_, fun e hx he => ?_, fun i => ⟨?_, ?_, ?_, ?_, ?_⟩,
    s.judgeBusVoltage_eq_some, s.judgeBusVoltage_eq_none⟩
  · refine ⟨(s.begin dt).becomeStale (.cellVoltage i), exec_expiry_due (State.begin_reached ?_ he), ?_⟩
    · exact (congrArg Cell.vExpiry (s.begin_cell dt i)).trans hx
    · obtain ⟨h1, h2, h3, h4, h5, h6, h7, h8⟩ := staleCell (s := s.begin dt) (i := i) (f := fun c => { c with vExpiry := none }) rfl
      simp only [State.begin_cell, State.begin_water, State.begin_mgmt, State.begin_images] at h1 h2 h6 h7 h8
      exact ⟨h1, h2, h3, h4, h5, h6, h7, h8⟩
  · refine ⟨(s.begin dt).becomeStale (.cellTemp i), exec_expiry_due (State.begin_reached ?_ he), ?_⟩
    · exact (congrArg Cell.tExpiry (s.begin_cell dt i)).trans hx
    · obtain ⟨h1, h2, -, h4, -, h6, h7, h8⟩ := staleCell (s := s.begin dt) (i := i) (f := fun c => { c with tExpiry := none }) rfl
      simp only [State.begin_cell, State.begin_water, State.begin_mgmt, State.begin_images] at h1 h2 h6 h7 h8
      exact ⟨h1, h2, h4, h6, h7, h8⟩
  · refine ⟨(s.begin dt).becomeStale (.terminal i), exec_expiry_due (State.begin_reached ?_ he), ?_⟩
    · exact (congrArg Reading.tvExpiry (s.begin_reading dt i)).trans hx
    · obtain ⟨h1, h2, h3, h4⟩ := staleTerminal (s.begin dt) i
      obtain ⟨himg, hm, hc⟩ := becomeStale_terminal_evolves (s.begin dt) i
      obtain ⟨hst, -⟩ := s.begin_control_kept dt i
      simp only [State.begin_reading, State.begin_busVoltage, State.begin_water, State.begin_mgmt, State.begin_images,
        State.begin_cells, hst] at h1 h2 h3 h4 hm himg hc
      refine ⟨h1, h2, ?_, h3, hc, h4, hm, himg⟩
      unfold State.terminalV
      rw [h1]
      rfl
  · simp only [exec, execDischargeHoldoffEnd]
    exact eventIf_due (State.begin_reached ((s.begin_holdoffEnd dt).trans hx) he) _
  · exact s.judgeFreshCells_eq i
  · exact s.judgeTs_eq_some i
  · exact s.judgeTs_eq_none i
  · exact State.judgeSpread_none
  · exact fun p q v u hne hp hq => State.judgeSpread_some hne hp hq

end Sys2Proof.Machine

/-! ## Readings at the ring input (R157 to R159) -/

namespace Sys2Proof.Machine

/-! ### The reception of a good frame -/

/-- A number of 16 bits is its two bytes. -/
theorem bytesBE_two {x : Nat} {hi lo : Byte} (h : bytesBE 2 x = [hi, lo]) (hx : x < 65536) :
    hi.toNat * 256 + lo.toNat = x := by
  simp only [bytesBE, List.cons.injEq, and_true] at h
  obtain ⟨h1, h2⟩ := h
  rw [← h1, ← h2]
  simp only [BitVec.toNat_ofNat]
  omega

theorem Frame.length_checked (f : Frame) : f.checked.length = 4 + f.payload.length := by
  simp [Frame.checked]
  omega

/-- The received bytes of `f` give its length. -/
theorem rxLen_checked {f : Frame} (h : f.payload.length ≤ 48) (rest : List Byte) :
    rxLen (f.checked ++ rest) = f.payload.length := by
  simp only [rxLen, u8, Frame.checked, List.cons_append, List.getD_cons_succ, List.getD_cons_zero, BitVec.toNat_ofNat]
  omega

theorem completes_checked {f : Frame} (h : f.payload.length ≤ 48) (hi : Byte) : completes (f.checked ++ [hi]) = true := by
  unfold completes
  rw [rxLen_checked h, List.length_append, f.length_checked]
  simp
  omega

/-- The bytes of a frame are the frame. -/
theorem frameOf_checked {f : Frame} (h : f.payload.length ≤ 48) (rest : List Byte) : frameOf (f.checked ++ rest) = f := by
  unfold frameOf
  rw [rxLen_checked h]
  simp [Frame.checked]

theorem checkAgrees_checked {f : Frame} {hi b : Byte} (h : f.payload.length ≤ 48)
    (hc : bytesBE 2 (crc16 f.checked).toNat = [hi, b]) : checkAgrees (f.checked ++ [hi, b]) = true := by
  have hl := f.length_checked
  unfold checkAgrees
  rw [rxLen_checked h, ← hl, List.take_left', beq_iff_eq, ← bytesBE_two hc (by omega)]
  · simp [field, u8]
  · rfl

/-- The last byte of a good frame: the frame is classified with the silence restarted (R157, R158). -/
theorem exec_lastByte {s : State} {dt : Nat} {b : Byte} {f : Frame} (h : s.lastByteOf f b) (hs : s.ring.sight = .seeing) :
    exec (.frameReceived dt b) s = .next ((s.begin dt).heard.classify f).settle := by
  obtain ⟨hl, hi, hrx, hc⟩ := h
  have hring : (s.begin dt).ring = s.ring := s.begin_ring dt
  have haw : (s.begin dt).awaitsCheck = true := by
    unfold State.awaitsCheck
    rw [hring, hrx]
    exact completes_checked hl hi
  have htake : (s.begin dt).takeCheck b = (s.begin dt).heard.classify f := by
    have hgot : (f.checked ++ [hi]) ++ [b] = f.checked ++ [hi, b] := by simp
    unfold State.takeCheck
    rw [hring, hrx]
    dsimp only
    unfold State.frameComplete
    rw [hgot, if_pos (checkAgrees_checked hl hc), frameOf_checked hl]
    unfold State.goodFrame
    dsimp only
    rw [if_pos (by rw [← hs, ← hring]; rfl)]
    rfl
  simp only [exec, execFrameReceived]
  rw [eventIf_due haw, htake]

/-! ### What classification does to a reading -/

/-- The frame is a reading: CELL, SHUNT or POSITION (11.2). -/
def Frame.isReading (f : Frame) : Prop :=
  f.kind = kindCell ∨ f.kind = kindShunt ∨ f.kind = kindPosition

theorem Frame.isReading.kinds {f : Frame} (h : f.isReading) :
    f.kind ≠ kindRequest ∧ f.kind ≠ kindRect ∧ f.kind ≠ kindContactor ∧ f.kind ≠ kindValve := by
  rcases h with h | h | h <;> rw [h] <;> decide

/-- The state but for what forwarding moves: the forward buffer, the counts and the thinning counters. -/
structure State.Passed (s t : State) : Prop where
  eq : t = { s with ring := t.ring }
  orders : t.ring.orders = s.ring.orders
  replies : t.ring.replies = s.ring.replies

theorem State.Passed.trans {s t u : State} (h : s.Passed t) (k : t.Passed u) : s.Passed u := by
  obtain ⟨e, h2, h3⟩ := h
  obtain ⟨e', k2, k3⟩ := k
  refine ⟨?_, k2.trans h2, k3.trans h3⟩
  rw [e', e]

theorem State.Passed.refl (s : State) : s.Passed s := ⟨rfl, rfl, rfl⟩

theorem passed_forwardFrame (s : State) (f : Frame) : s.Passed (s.forwardFrame f) := by
  refine ⟨rfl, ?_, ?_⟩
  all_goals
    unfold State.forwardFrame State.modRing
    dsimp only
    split <;> rfl

theorem passed_setThin (s : State) (e : Fin 16) (n : Nat) : s.Passed (s.setThin e n) := ⟨rfl, rfl, rfl⟩

theorem passed_passOn (s : State) (f : Frame) : s.Passed (s.passOn f) := by
  unfold State.passOn
  split
  · exact passed_forwardFrame ..
  · split
    · exact passed_forwardFrame ..
    · exact .refl s
    · unfold State.thinFrame
      split
      · exact (passed_setThin ..).trans (passed_forwardFrame ..)
      · exact passed_setThin ..

/-- A reading that is not addressed to the part is absorbed, and nothing but the forwarding acts on it besides (R159). -/
theorem classify_reading {s : State} {f : Frame} (hk : f.isReading) (hd : f.dst ≠ s.ring.ownAddress) :
    (s.absorb f).Passed (s.classify f) := by
  obtain ⟨h1, h2, h3, h4⟩ := hk.kinds
  have hp : s.police f = .free := by
    unfold State.police
    rw [if_neg h2, if_neg h3, if_neg h4, ite_self]
  have hc : s.classify f = s.absorbAndPass f := by
    unfold State.classify
    rw [if_neg hd, if_neg fun h => h1 h.2]
    unfold State.classifyOther
    rw [hp, ite_self]
  rw [hc, State.absorbAndPass]
  split
  · exact passed_passOn ..
  · exact passed_forwardFrame ..

/-- A reading at the ring input reaches the Record Store (R3, R158, R159). -/
theorem exec_reading {s : State} {dt : Nat} {b : Byte} {f : Frame} (h : s.lastByteOf f b) (hs : s.ring.sight = .seeing)
    (hd : f.dst ≠ s.ring.ownAddress) (hk : f.isReading) :
    ∃ w : State, exec (.frameReceived dt b) s = .next w.settle ∧ ((s.begin dt).heard.absorb f).Passed w := by
  have ho : (s.begin dt).ring.ownAddress = s.ring.ownAddress := by rw [s.begin_ring]
  exact ⟨_, exec_lastByte h hs, classify_reading hk fun e => hd (e.trans ho)⟩

end Sys2Proof.Machine

/-! ## What the hand-offs leave of a slot -/

namespace Sys2Proof.Machine

/-- The items of a slot that judging its reasons, its criterion and its order does not move (R90 to R95). -/
def SlotRec.standing (r : SlotRec) : SlotRec :=
  { r with
    entryState := none, resumeState := none, pendingOrder := none, reasons := {}, sourceWaitStart := none, critStart := none,
    lastOrder := none, lastOrderTime := none, tc := none }

theorem SlotRec.fields_of_standing {r q : SlotRec} (h : r.standing = q.standing) :
    r.limit = q.limit ∧ r.settleEnd = q.settleEnd ∧ r.cut = q.cut ∧ r.index = q.index ∧ r.directI = q.directI
      ∧ r.suspendedTotal = q.suspendedTotal := by
  simp only [SlotRec.standing, SlotRec.mk.injEq] at h
  tauto

/-- The slot stands, but for its reasons, its criterion and its order. -/
structure State.SlotStands (sl : SlotId) (s t : State) : Prop where
  slot : (t.slot sl).standing = (s.slot sl).standing
  images : t.images = s.images

section
variable {sl : SlotId} {s t u : State}

theorem State.SlotStands.refl (sl : SlotId) (s : State) : s.SlotStands sl s := ⟨rfl, rfl⟩

theorem State.SlotStands.trans (h : s.SlotStands sl t) (k : t.SlotStands sl u) : s.SlotStands sl u :=
  ⟨k.slot.trans h.slot, k.images.trans h.images⟩

/-- A state with the same slot. -/
theorem State.SlotStands.same (h : s.SlotStands sl t) (hs : u.slot sl = t.slot sl) (hi : u.images = t.images) :
    s.SlotStands sl u :=
  h.trans ⟨by rw [hs], hi⟩

theorem stands_ite {c : Prop} [Decidable c] (h : s.SlotStands sl t) (k : s.SlotStands sl u) :
    s.SlotStands sl (if c then t else u) := by split <;> assumption

/-- The suspended time is below its limit (R96). -/
def State.maySuspend (s : State) (sl : SlotId) : Prop :=
  (s.slot sl).suspendedTotal < s.suspendMs

theorem State.SlotStands.maySuspend (h : s.SlotStands sl t) (k : s.maySuspend sl) : t.maySuspend sl := by
  obtain ⟨-, -, -, -, -, he⟩ := SlotRec.fields_of_standing h.slot
  unfold State.maySuspend State.suspendMs State.lim at k ⊢
  rwa [he, h.images]

theorem stands_modSlot (h : s.SlotStands sl t) (f : SlotRec → SlotRec) (hf : ∀ r, (f r).standing = r.standing) :
    s.SlotStands sl (t.modSlot sl f) :=
  h.trans ⟨by rw [State.modSlot_slot]; exact hf _, by simp⟩

theorem stands_handOrder (h : s.SlotStands sl t) (f : Frame) : s.SlotStands sl (t.handOrder f) :=
  h.same (handOrder_slot ..) rfl

theorem stands_modSite (h : s.SlotStands sl t) (f : Site → Site) : s.SlotStands sl (t.modSite f) :=
  h.same (by cases sl <;> rfl) rfl

theorem stands_markScan (h : s.SlotStands sl t) : s.SlotStands sl t.markScan :=
  h.same (markScan_slot ..) rfl

theorem stands_slotOrder (h : s.SlotStands sl t) (o : RectOrder) : s.SlotStands sl (t.slotOrder sl o) := by
  unfold State.slotOrder
  refine stands_ite h (stands_handOrder (stands_modSlot h _ ?_) _)
  exact fun _ => rfl

theorem stands_followSite (h : s.SlotStands sl t) : s.SlotStands sl t.followSite := by
  unfold State.followSite State.followLamp State.followMeasuring State.followDuty State.followActivity
  exact stands_modSite (stands_modSite (stands_modSite (stands_modSite h _) _) _) _

theorem stands_genRequest (h : s.SlotStands sl t) : s.SlotStands sl t.genRequest := by
  have k := stands_modSite h fun x => { x with genWidth := t.lim.genreqWidth }
  unfold State.genRequest State.genPulse
  exact stands_ite (stands_ite (stands_modSite k _) (stands_modSite k _)) h

theorem stands_judgeReasons (h : s.SlotStands sl t) : s.SlotStands sl (t.judgeReasons sl) := by
  unfold State.judgeReasons
  exact stands_ite (stands_genRequest (stands_modSlot h _ fun _ => rfl)) (stands_modSlot h _ fun _ => rfl)

theorem stands_judgeCriterion (h : s.SlotStands sl t) : s.SlotStands sl (t.judgeCriterion sl) := by
  unfold State.judgeCriterion
  split
  · split
    · exact stands_ite (stands_modSlot h _ fun _ => rfl) (stands_modSlot h _ fun _ => rfl)
    · exact h
  · exact h

/-- A suspension below the limit of the suspended time leaves the round (R95, R96). -/
theorem stands_suspend (h : s.SlotStands sl t) (k : t.maySuspend sl) (back : ResumeState) (o : RectOrder) :
    s.SlotStands sl (t.suspend sl back o) := by
  have h1 : t.SlotStands sl ((t.modSlot sl fun r =>
      { r with entryState := some .suspended, resumeState := some back, pendingOrder := some o }).slotOrder sl .off) := by
    refine stands_slotOrder (stands_modSlot (.refl sl t) _ ?_) _
    exact fun _ => rfl
  have hlt := h1.maySuspend k
  unfold State.suspend
  dsimp only
  rw [if_neg (Nat.not_le.mpr hlt)]
  exact h.trans h1

theorem stands_resume (h : s.SlotStands sl t) : s.SlotStands sl (t.resume sl) := by
  unfold State.resume
  split
  · exact h
  · refine stands_followSite (stands_judgeCriterion (stands_slotOrder (stands_modSlot h _ ?_) _))
    exact fun _ => rfl

theorem stands_actOnReasons (h : s.SlotStands sl t) (k : t.maySuspend sl) : s.SlotStands sl (t.actOnReasons sl) := by
  unfold State.actOnReasons
  split
  · exact stands_ite (stands_suspend h k ..) h
  · exact stands_ite (stands_suspend h k ..) h
  · exact stands_ite h (stands_resume h)
  · exact h

theorem stands_reviewReasons (h : s.SlotStands sl t) (k : t.maySuspend sl) : s.SlotStands sl (t.reviewReasons sl) := by
  have h1 := stands_judgeReasons (.refl sl t)
  exact stands_ite (h.trans (h1.trans (stands_actOnReasons (.refl ..) (h1.maySuspend k)))) h

theorem stands_temperatureArrives (h : s.SlotStands sl t) (k : t.maySuspend sl) (ts : Option Int) :
    s.SlotStands sl (t.temperatureArrives sl ts) := by
  cases ts with
  | none => exact h
  | some x =>
    have h1 := stands_modSlot (.refl sl t) (fun r => { r with tc := some x }) fun _ => rfl
    refine h.trans ?_
    unfold State.temperatureArrives
    dsimp only
    split
    · have h2 := stands_slotOrder h1 ((t.modSlot sl fun r => { r with tc := some x }).entryOrder sl)
      exact stands_reviewReasons h2 (h2.maySuspend k)
    · have h2 := stands_slotOrder h1 ((t.modSlot sl fun r => { r with tc := some x }).entryOrder sl)
      exact stands_reviewReasons h2 (h2.maySuspend k)
    · have h2 := stands_modSlot h1 (fun r =>
        { r with pendingOrder := some ((t.modSlot sl fun r => { r with tc := some x }).entryOrder sl) }) fun _ => rfl
      exact stands_reviewReasons h2 (h2.maySuspend k)
    · exact stands_reviewReasons h1 (h1.maySuspend k)

theorem stands_judgeSpreadTimer (h : s.SlotStands sl t) (i : Str) : s.SlotStands sl (t.judgeSpreadTimer i) := by
  unfold State.judgeSpreadTimer
  exact stands_ite (h.same (State.modCharge_slot ..) rfl) (h.same (State.modCharge_slot ..) rfl)

/-- An operation on the slot of a string whose slot is `sl`. -/
theorem onSlotOf_slot {s : State} {i : Str} (h : (s.control i).slot = some sl) (f : SlotId → State → State) :
    s.onSlotOf i f = f sl s := by
  unfold State.onSlotOf
  rw [h]

/-- The first hand-off of R18: a change of fresh_cells. -/
def State.handFreshCells (s : State) (i : Str) (old new : Reading) : State :=
  if new.freshCells = old.freshCells then s else (s.markScan).onSlotOf i fun sl s => s.reviewReasons sl

/-- The second hand-off of R18: a change of T_s. -/
def State.handTs (s : State) (i : Str) (old new : Reading) : State :=
  if new.ts = old.ts then s else (s.markScan).onSlotOf i fun sl s => s.temperatureArrives sl new.ts

/-- The third hand-off of R18: a change of the spread. -/
def State.handSpread (s : State) (i : Str) (old new : Reading) : State :=
  if new.spread = old.spread then s else (s.judgeSpreadTimer i).onSlotOf i fun sl s => s.judgeCriterion sl

theorem handDerived_eq (s : State) (i : Str) (old : Reading) : s.handDerived i old
    = ((s.handFreshCells i old (s.reading i)).handTs i old (s.reading i)).handSpread i old (s.reading i) := rfl

theorem handed_handFreshCells (s : State) (i : Str) (old new : Reading) :
    State.Handed true true s (s.handFreshCells i old new) :=
  handed_ite (.refl s) (handed_onSlotOf (handed_markScan (.refl s)) i _ fun sl _ k => handed_reviewReasons k sl)

theorem handed_handTs (s : State) (i : Str) (old new : Reading) : State.Handed true true s (s.handTs i old new) :=
  handed_ite (.refl s) (handed_onSlotOf (handed_markScan (.refl s)) i _ fun sl _ k => handed_temperatureArrives k sl _)

theorem stands_handFreshCells {i : Str} (hc : (s.control i).slot = some sl) (k : s.maySuspend sl) (old new : Reading) :
    s.SlotStands sl (s.handFreshCells i old new) := by
  have h := stands_markScan (.refl sl s)
  unfold State.handFreshCells
  rw [onSlotOf_slot (s := s.markScan) hc]
  exact stands_ite (.refl sl s) (stands_reviewReasons h (h.maySuspend k))

theorem stands_handTs {i : Str} (hc : (s.control i).slot = some sl) (k : s.maySuspend sl) (old new : Reading) :
    s.SlotStands sl (s.handTs i old new) := by
  have h := stands_markScan (.refl sl s)
  unfold State.handTs
  rw [onSlotOf_slot (s := s.markScan) hc]
  exact stands_ite (.refl sl s) (stands_temperatureArrives h (h.maySuspend k) _)

theorem judgeSpreadTimer_control (s : State) (i j : Str) : (s.judgeSpreadTimer i).control j = s.control j := by
  unfold State.judgeSpreadTimer
  split <;> exact State.modCharge_control ..

theorem stands_handSpread {i : Str} (hc : (s.control i).slot = some sl) (old new : Reading) :
    s.SlotStands sl (s.handSpread i old new) := by
  unfold State.handSpread
  rw [onSlotOf_slot (by rw [judgeSpreadTimer_control]; exact hc)]
  exact stands_ite (.refl sl s) (stands_judgeCriterion (stands_judgeSpreadTimer (.refl sl s) i))

/-- The derived values handed to a string leave what stands of its slot (R18). -/
theorem stands_handDerived {i : Str} (hc : (s.control i).slot = some sl) (k : s.maySuspend sl) (old : Reading) :
    s.SlotStands sl (s.handDerived i old) := by
  have h1 := stands_handFreshCells hc k old (s.reading i)
  have c1 := ((handed_handFreshCells s i old (s.reading i)).slotOf i).trans hc
  have h2 := h1.trans (stands_handTs c1 (h1.maySuspend k) old (s.reading i))
  have c2 := ((handed_handTs (s.handFreshCells i old (s.reading i)) i old (s.reading i)).slotOf i).trans c1
  rw [handDerived_eq]
  exact h2.trans (stands_handSpread c2 old _)

end

/-! ### Steps of a round: the cut flag stands and the index never falls -/

/-- The cut flag of the slot stands, and its index has not fallen. -/
structure State.SlotOnward (sl : SlotId) (s t : State) : Prop where
  cut : (t.slot sl).cut = (s.slot sl).cut
  index : (s.slot sl).index ≤ (t.slot sl).index

section
variable {sl : SlotId} {s t u : State}

theorem State.SlotOnward.trans (h : s.SlotOnward sl t) (k : t.SlotOnward sl u) : s.SlotOnward sl u :=
  ⟨k.cut.trans h.cut, h.index.trans k.index⟩

theorem State.SlotOnward.of_slot (h : t.slot sl = s.slot sl) : s.SlotOnward sl t := by
  constructor <;> rw [h]

theorem State.SlotStands.onward (h : s.SlotStands sl t) : s.SlotOnward sl t := by
  obtain ⟨-, -, hc, hi, -, -⟩ := SlotRec.fields_of_standing h.slot
  exact ⟨hc, hi.ge⟩

theorem onward_ite {c : Prop} [Decidable c] (h : s.SlotOnward sl t) (k : s.SlotOnward sl u) :
    s.SlotOnward sl (if c then t else u) := by split <;> assumption

theorem onward_modSlot (s : State) (sl : SlotId) (f : SlotRec → SlotRec)
    (hf : ∀ r, (f r).cut = r.cut ∧ r.index ≤ (f r).index) : s.SlotOnward sl (s.modSlot sl f) := by
  constructor <;> rw [State.modSlot_slot]
  · exact (hf _).1
  · exact (hf _).2

/-- An end cause leaves a slot or tells it to stop (R67, R100). -/
theorem endCause_slot (s : State) (i : Str) (c : EndReason) (sl : SlotId) :
    (s.endCause i c).slot sl = s.slot sl ∨ (s.endCause i c).slot sl = (s.slot sl).stopped := by
  have hend : (s.endRound i c).slot sl = s.slot sl ∨ (s.endRound i c).slot sl = (s.slot sl).stopped := by
    by_cases h : (s.control i).slot = some sl
    · exact .inr (endRound_slot h c)
    · exact .inl ((frame_endRound s i c).slot sl h)
  unfold State.endCause
  split
  · exact hend
  · exact hend
  · exact .inl ((frame_causeInReturn s i none c).slot sl (by simp))
  · exact .inl rfl

theorem onward_endCause (s : State) (i : Str) (c : EndReason) (sl : SlotId) : s.SlotOnward sl (s.endCause i c) := by
  rcases endCause_slot s i c sl with h | h
  · exact .of_slot h
  · constructor <;> rw [h]
    · rfl
    · exact le_refl _

theorem onward_slotEnds (s : State) (sl : SlotId) (c : EndReason) : s.SlotOnward sl (s.slotEnds sl c) := by
  unfold State.slotEnds
  split
  · exact onward_endCause ..
  · exact .of_slot rfl

theorem onward_suspend (s : State) (sl : SlotId) (back : ResumeState) (o : RectOrder) :
    s.SlotOnward sl (s.suspend sl back o) := by
  have h : s.SlotStands sl ((s.modSlot sl fun r =>
      { r with entryState := some .suspended, resumeState := some back, pendingOrder := some o }).slotOrder sl .off) := by
    refine stands_slotOrder (stands_modSlot (.refl sl s) _ ?_) _
    exact fun _ => rfl
  unfold State.suspend
  exact onward_ite (h.onward.trans (onward_slotEnds ..)) h.onward

theorem onward_actOnReasons (s : State) (sl : SlotId) : s.SlotOnward sl (s.actOnReasons sl) := by
  have hs : s.SlotOnward sl s := .of_slot rfl
  unfold State.actOnReasons
  split
  · exact onward_ite (onward_suspend ..) hs
  · exact onward_ite (onward_suspend ..) hs
  · exact onward_ite hs (stands_resume (.refl sl s)).onward
  · exact hs

theorem onward_reviewReasons (s : State) (sl : SlotId) : s.SlotOnward sl (s.reviewReasons sl) :=
  onward_ite ((stands_judgeReasons (.refl sl s)).onward.trans (onward_actOnReasons ..)) (.of_slot rfl)

theorem onward_temperatureArrives (s : State) (sl : SlotId) (ts : Option Int) :
    s.SlotOnward sl (s.temperatureArrives sl ts) := by
  cases ts with
  | none => exact .of_slot rfl
  | some x =>
    have h1 := stands_modSlot (.refl sl s) (fun r => { r with tc := some x }) fun _ => rfl
    unfold State.temperatureArrives
    dsimp only
    refine State.SlotOnward.trans ?_ (onward_reviewReasons _ sl)
    split
    · exact (stands_slotOrder h1 _).onward
    · exact (stands_slotOrder h1 _).onward
    · refine (stands_modSlot h1 _ ?_).onward
      exact fun _ => rfl
    · exact h1.onward

theorem onward_handDerived {i : Str} (hc : (s.control i).slot = some sl) (old : Reading) :
    s.SlotOnward sl (s.handDerived i old) := by
  have h1 : s.SlotOnward sl (s.handFreshCells i old (s.reading i)) := by
    unfold State.handFreshCells
    rw [onSlotOf_slot (s := s.markScan) hc]
    exact onward_ite (.of_slot rfl) ((stands_markScan (.refl sl s)).onward.trans (onward_reviewReasons ..))
  have c1 := ((handed_handFreshCells s i old (s.reading i)).slotOf i).trans hc
  rw [handDerived_eq]
  refine h1.trans ?_
  generalize s.handFreshCells i old (s.reading i) = t at c1
  have h2 : t.SlotOnward sl (t.handTs i old (s.reading i)) := by
    unfold State.handTs
    rw [onSlotOf_slot (s := t.markScan) c1]
    exact onward_ite (.of_slot rfl) ((stands_markScan (.refl sl t)).onward.trans (onward_temperatureArrives ..))
  have c2 := ((handed_handTs t i old (s.reading i)).slotOf i).trans c1
  exact h2.trans (stands_handSpread c2 old _).onward

theorem onward_beginStretch (s : State) (sl : SlotId) (back : ResumeState) : s.SlotOnward sl (s.beginStretch sl back) := by
  have h := stands_judgeReasons (.refl sl s)
  unfold State.beginStretch
  dsimp only
  refine h.onward.trans ?_
  split
  · exact onward_slotEnds ..
  · refine onward_ite (onward_suspend ..) ?_
    refine (stands_judgeCriterion (stands_slotOrder (stands_modSlot (.refl ..) _ ?_) _)).onward
    exact fun _ => rfl

theorem enqueue_slot (s : State) (e : Entry) (k : SlotId) : (s.enqueue e).slot k = s.slot k := by
  unfold State.enqueue
  split
  · exact markScan_slot ..
  · exact markScan_slot ..

theorem onward_startWater (s : State) (sl : SlotId) (i : Str) : s.SlotOnward sl (s.startWater sl i) := by
  have h := (stands_judgeReasons (.refl sl s)).onward
  have hq : s.SlotOnward sl (if (s.judgeReasons sl).watering i = true then s.judgeReasons sl
      else (s.judgeReasons sl).enqueue ⟨i, .water, 0, .waterPoint, .urgent, .recipe, (s.judgeReasons sl).mgmt.clock⟩) :=
    onward_ite h (h.trans (.of_slot (enqueue_slot ..)))
  unfold State.startWater
  dsimp only
  refine hq.trans ((onward_modSlot _ sl _ ?_).trans (stands_slotOrder (.refl ..) _).onward)
  exact fun _ => ⟨rfl, le_refl _⟩

theorem onward_startWait (s : State) (sl : SlotId) (m : Nat) : s.SlotOnward sl (s.startWait sl m) := by
  unfold State.startWait
  dsimp only
  refine (stands_judgeReasons (.refl sl s)).onward.trans
    ((onward_modSlot _ sl _ ?_).trans (stands_slotOrder (.refl ..) _).onward)
  exact fun _ => ⟨rfl, le_refl _⟩

theorem onward_startPhase (s : State) (sl : SlotId) (id : Nat) : s.SlotOnward sl (s.startPhase sl id) := by
  unfold State.startPhase
  dsimp only
  refine (onward_modSlot s sl _ ?_).trans (onward_beginStretch ..)
  exact fun _ => ⟨rfl, le_refl _⟩

theorem onward_startDirect (s : State) (sl : SlotId) : s.SlotOnward sl (s.startDirect sl) := by
  unfold State.startDirect
  refine (onward_modSlot s sl _ ?_).trans (onward_beginStretch ..)
  exact fun _ => ⟨rfl, le_refl _⟩

theorem onward_startEntry (sl : SlotId) (n : Nat) : ∀ s : State, s.SlotOnward sl (s.startEntry sl n) := by
  induction n with
  | zero => exact fun s => .of_slot rfl
  | succ n ih =>
    intro s
    have h := onward_modSlot s sl SlotRec.entryReset fun _ => ⟨rfl, le_refl _⟩
    rw [State.startEntry]
    refine h.trans ?_
    split
    · exact onward_startDirect ..
    · split
      · exact onward_startPhase ..
      · exact onward_startWait ..
      · exact onward_slotEnds ..
      · split
        · split
          · exact onward_startWater ..
          · refine (onward_modSlot _ sl _ ?_).trans (ih _)
            exact fun _ => ⟨rfl, Nat.le_succ _⟩
        · exact .of_slot rfl

/-- The next entry of a round has a higher index (R83). -/
theorem onward_nextEntry (s : State) (sl : SlotId) : ((s.nextEntry sl).slot sl).cut = (s.slot sl).cut
    ∧ (s.slot sl).index < ((s.nextEntry sl).slot sl).index := by
  have h := (onward_startEntry sl 13 (s.modSlot sl fun r => { r with index := r.index + 1 })).trans
    (stands_followSite (.refl ..)).onward
  obtain ⟨hc, hi⟩ := h
  rw [State.modSlot_slot] at hc hi
  exact ⟨hc, hi⟩

end

end Sys2Proof.Machine

/-! ## Voltages (R54 to R56) -/

namespace Sys2Proof.Machine

theorem adjustment_eq (l : Limits) (t : Int) :
    adjustment l t = ((l.compK : Int) * (l.tRef - max (-400) (min 850 t))).tdiv 100 := by
  have h : clampInt t (-400) 850 = max (-400) (min 850 t) := by
    unfold clampInt
    omega
  rw [adjustment, h]

theorem phaseMv_of_cap_lt {l : Limits} {p : PhaseRec} (h : min p.vMax l.cellCeilingMv < p.vMin) (t : Int) :
    phaseMv l p t = min p.vMax l.cellCeilingMv :=
  if_pos h

theorem phaseMv_of_le_cap {l : Limits} {p : PhaseRec} (h : p.vMin ≤ min p.vMax l.cellCeilingMv) (t : Int) :
    (phaseMv l p t : Int)
      = max (p.vMin : Int) (min ((min p.vMax l.cellCeilingMv : Nat) : Int) (p.vSet + adjustment l t)) := by
  unfold phaseMv clampInt
  dsimp only
  rw [if_neg (Nat.not_lt.mpr h)]
  omega

theorem waterMv_eq {l : Limits} (t : Int) (h : 2000 ≤ l.cellCeilingMv) :
    (waterMv l t : Int) = max 2000 (min (l.cellCeilingMv : Int) (l.floatMv + adjustment l t)) := by
  unfold waterMv clampInt
  omega

theorem directMv_eq {l : Limits} (v : Nat) (h : 2000 ≤ l.cellCeilingMv) :
    directMv l v = max 2000 (min l.cellCeilingMv v) := by
  unfold directMv clampNat
  split
  · omega
  · split <;> omega

/-- A warmer string is adjusted no higher (R54). -/
theorem adjustment_antitone (l : Limits) {t u : Int} (h : t ≤ u) : adjustment l u ≤ adjustment l t := by
  rw [adjustment_eq, adjustment_eq]
  refine Int.tdiv_le_tdiv (by decide) (mul_le_mul_of_nonneg_left ?_ (Int.natCast_nonneg _))
  omega

theorem phaseMv_antitone (l : Limits) (p : PhaseRec) {t u : Int} (h : t ≤ u) : phaseMv l p u ≤ phaseMv l p t := by
  have ha := adjustment_antitone l h
  by_cases hc : min p.vMax l.cellCeilingMv < p.vMin
  · rw [phaseMv_of_cap_lt hc, phaseMv_of_cap_lt hc]
  · have h1 := phaseMv_of_le_cap (Nat.not_lt.mp hc) t
    have h2 := phaseMv_of_le_cap (Nat.not_lt.mp hc) u
    omega

theorem waterMv_antitone {l : Limits} (hl : 2000 ≤ l.cellCeilingMv) {t u : Int} (h : t ≤ u) : waterMv l u ≤ waterMv l t := by
  have ha := adjustment_antitone l h
  have h1 := waterMv_eq t hl
  have h2 := waterMv_eq u hl
  omega

theorem phaseMv_le_ceiling (l : Limits) (p : PhaseRec) (t : Int) : phaseMv l p t ≤ l.cellCeilingMv := by
  by_cases hc : min p.vMax l.cellCeilingMv < p.vMin
  · rw [phaseMv_of_cap_lt hc]
    exact min_le_right ..
  · have h1 := phaseMv_of_le_cap (Nat.not_lt.mp hc) t
    omega

/-- A per-cell voltage under the cell ceiling gives an order under the order ceiling (R55). -/
theorem orderVolts_le {mv ceiling : Nat} (h : mv ≤ ceiling) (cells : Nat) : orderVolts mv cells ≤ ceiling * cells / 10 :=
  Nat.div_le_div_right (Nat.mul_le_mul_right cells h)

theorem adjustment_tRef {l : Limits} (h1 : -400 ≤ l.tRef) (h2 : l.tRef ≤ 850) : adjustment l l.tRef = 0 := by
  rw [adjustment_eq, show l.tRef - max (-400) (min 850 l.tRef) = 0 by omega, mul_zero]
  rfl

theorem backOffLimit_eq_none (floor limit : Nat) : backOffLimit floor limit = none ↔ limit ≤ floor := by
  unfold backOffLimit
  split
  · simpa
  · split <;> simp <;> omega

/-- A back-off step goes to three quarters of the limit, but not below the floor (R93). -/
theorem backOffLimit_eq_some {floor limit : Nat} (h : floor < limit) :
    backOffLimit floor limit = some (max floor (limit * 3 / 4)) := by
  unfold backOffLimit
  rw [if_neg (Nat.not_le.mpr h)]
  split
  · rw [max_eq_left (by omega)]
  · rw [max_eq_right (by omega)]

end Sys2Proof.Machine

/-! ## Levels at the Watering Unit (R133, R138) -/

namespace Sys2Proof.Machine

/-- What a cell record shows of its readings (R1, R5 to R7). -/
def Cell.shown (c : Cell) : (Option Nat × Option Nat × Option Nat) × (Option Int × Option Nat × Option Nat) × Level :=
  ((c.voltage, c.lastV, c.vExpiry), (c.temp, c.lastT, c.tExpiry), c.level)

/-- The Watering Unit has acted on its round for the cell `k` (R130 to R133, R138): besides that cell's dose and confirmation it
moves its own items and orders alone. -/
structure State.Dosed (k : CellIx) (s t : State) : Prop where
  eq : t = { s with cells := t.cells, water := t.water, ring := t.ring }
  other : ∀ j, j ≠ k → t.cell j = s.cell j
  shown : (t.cell k).shown = (s.cell k).shown
  deficit : (t.cell k).deficit ≤ (s.cell k).deficit
  confirm : (s.cell k).confirmDeadline = none → (t.cell k).confirmDeadline = none

section
variable {k : CellIx} {s t u : State}

theorem State.Dosed.refl (k : CellIx) (s : State) : s.Dosed k s :=
  ⟨rfl, fun _ _ => rfl, rfl, le_refl _, id⟩

theorem State.Dosed.trans (h : s.Dosed k t) (g : t.Dosed k u) : s.Dosed k u := by
  refine ⟨?_, fun j hj => (g.other j hj).trans (h.other j hj), g.shown.trans h.shown, g.deficit.trans h.deficit,
    fun e => g.confirm (h.confirm e)⟩
  rw [g.eq, h.eq]

theorem State.Dosed.slot (h : s.Dosed k t) (sl : SlotId) : t.slot sl = s.slot sl := by
  rw [h.eq]
  cases sl <;> rfl

theorem State.Dosed.str (h : s.Dosed k t) (i : Str) : t.str i = s.str i := by
  rw [h.eq]
  rfl

theorem dosed_modWater (s : State) (f : Water → Water) : s.Dosed k (s.modWater f) :=
  ⟨rfl, fun _ _ => rfl, rfl, le_refl _, id⟩

theorem dosed_handOrder (s : State) (f : Frame) : s.Dosed k (s.handOrder f) :=
  ⟨rfl, fun _ _ => rfl, rfl, le_refl _, id⟩

theorem dosed_modCell (s : State) (k : CellIx) (f : Cell → Cell) (hf : ∀ c, (f c).shown = c.shown ∧ (f c).deficit ≤ c.deficit
    ∧ (c.confirmDeadline = none → (f c).confirmDeadline = none)) : s.Dosed k (s.modCell k f) := by
  obtain ⟨h1, h2, h3⟩ := hf (s.cell k)
  refine ⟨rfl, fun j hj => State.modCell_cell_ne s (Ne.symm hj) f, ?_, ?_, ?_⟩ <;> rw [State.modCell_cell]
  · exact h1
  · exact h2
  · exact h3

theorem dosed_handValve (s : State) (i : Str) (a : List Alter) : s.Dosed k (s.handValve i a) := by
  unfold State.handValve
  exact (dosed_handOrder ..).trans (dosed_modWater ..)

/-- A close by overfill cut (R133). -/
theorem afterClose_overfill (ml : Nat) (probe : Bool) (deadline : Nat) (c : Cell) :
    (c.afterClose ml probe true deadline).shown = c.shown ∧ (c.afterClose ml probe true deadline).deficit ≤ c.deficit
      ∧ (c.confirmDeadline = none → (c.afterClose ml probe true deadline).confirmDeadline = none) :=
  ⟨rfl, Nat.sub_le _ _, id⟩

theorem dosed_closeValve (s : State) (i : Str) (p : Pos) (ml : Nat) :
    s.Dosed (cellIx i p) (s.closeValve i p ml true) := by
  have h : ∀ u : State, u.Dosed (cellIx i p) (u.accountClose i p ml true) := by
    intro u
    unfold State.accountClose
    refine ((dosed_modWater ..).trans (dosed_modCell _ _ _ ?_)).trans (dosed_modWater ..)
    exact fun c => afterClose_overfill ..
  have hc := ((dosed_handValve s i (closings [p])).trans (dosed_modWater _ fun w =>
    { w with openSet := w.openSet.filter (· != p) })).trans (h _)
  unfold State.closeValve
  dsimp only
  split
  · exact hc.trans (dosed_modWater ..)
  · exact hc

theorem dosed_highArrives (s : State) (i : Str) (p : Pos) : s.Dosed (cellIx i p) (s.highArrives i p) := by
  unfold State.highArrives
  split
  · split
    · split
      · exact (dosed_modWater ..).trans (dosed_closeValve ..)
      · exact .refl ..
    · exact dosed_modWater ..
  · exact .refl ..

theorem Cell.confirmed_kept (c : Cell) : c.confirmed.shown = c.shown ∧ c.confirmed.deficit ≤ c.deficit
    ∧ (c.confirmDeadline = none → c.confirmed.confirmDeadline = none) := by
  unfold Cell.confirmed
  split
  · exact ⟨rfl, le_refl _, fun _ => rfl⟩
  · exact ⟨rfl, le_refl _, id⟩

theorem Cell.confirmed_deadline (c : Cell) : c.confirmed.confirmDeadline = none := by
  unfold Cell.confirmed
  by_cases h : c.confirmDeadline.isSome
  · rw [if_pos h]
  · rw [if_neg h]
    simpa using h

theorem dosed_levelArrives (s : State) (i : Str) (p : Pos) (lv : Level) : s.Dosed (cellIx i p) (s.levelArrives i p lv) := by
  have h1 : s.Dosed (cellIx i p) (if lv = .high then s.highArrives i p else s) := by
    split
    · exact dosed_highArrives ..
    · exact .refl ..
  unfold State.levelArrives
  dsimp only
  refine h1.trans ?_
  generalize (if lv = .high then s.highArrives i p else s) = u
  split
  · exact dosed_modCell _ _ _ Cell.confirmed_kept
  · exact .refl ..

/-- A NORMAL or HIGH level leaves no confirmation awaited (R138). -/
theorem levelArrives_confirmed (s : State) (i : Str) (p : Pos) {lv : Level} (h : lv = .normal ∨ lv = .high) :
    ((s.levelArrives i p lv).cell (cellIx i p)).confirmDeadline = none := by
  unfold State.levelArrives
  dsimp only
  rw [if_pos h, State.modCell_cell]
  exact Cell.confirmed_deadline _

end

end Sys2Proof.Machine

/-! ## An absorbed CELL reading (R4 to R9, R18) -/

namespace Sys2Proof.Machine

/-! ### The payload -/

theorem toNat_append_byte (a b : Byte) : (a ++ b).toNat = a.toNat * 256 + b.toNat := by
  rw [BitVec.toNat_append, Nat.shiftLeft_eq, ← Nat.shiftLeft_eq, ← Nat.shiftLeft_add_eq_or_of_lt b.isLt, Nat.shiftLeft_eq]

theorem toNat_eq_iff_eq {x : BitVec 16} {n : Nat} (h : n < 65536) : x.toNat = n ↔ x = BitVec.ofNat 16 n := by
  rw [← BitVec.toNat_inj, BitVec.toNat_ofNat, Nat.mod_eq_of_lt h]

theorem signedOf_append (a b : Byte) : signedOf 2 (a.toNat * 256 + b.toNat) = (a ++ b).toInt := by
  rw [BitVec.toInt_eq_toNat_cond, toNat_append_byte, signedOf]
  have ha := a.isLt
  have hb := b.isLt
  split <;> split <;> omega

theorem bit_zero (b : Byte) : bit b.toNat 0 = b.getLsbD 0 := by
  rw [bit, BitVec.getLsbD, Nat.testBit_zero, pow_zero, Nat.div_one]
  exact Bool.beq_eq_decide_eq ..

/-- The fields of a CELL payload (11.2). -/
theorem readCell_bytes (v1 v0 t1 t0 lv st : Byte) (rest : List Byte) : readCell (v1 :: v0 :: t1 :: t0 :: lv :: st :: rest)
    = some ⟨if v1 ++ v0 = (0xFFFF : BitVec 16) then none else some (v1 ++ v0).toNat,
        if t1 ++ t0 = (0x7FFF : BitVec 16) then none else some (t1 ++ t0).toInt, lv.toNat, st.getLsbD 0⟩ := by
  rw [readCell, if_neg (by simp)]
  simp only [field, u8, sfield, List.getD_cons_succ, List.getD_cons_zero, Nat.zero_mul, Nat.zero_add, Nat.add_zero]
  rw [bit_zero, signedOf_append, ← toNat_append_byte, ← toNat_append_byte]
  simp only [toNat_eq_iff_eq (show 65535 < 65536 by decide), toNat_eq_iff_eq (show 32767 < 65536 by decide)]
  rfl

/-! ### The parts of the absorption -/

/-- The level class that a CELL reading brings to a position with a probe (R6). -/
def State.cellLevel (s : State) (i : Str) (p : Pos) (r : CellReading) : Option Level :=
  if (s.cfg i).hasProbe p then levelOf r.levelCode else none

/-- The reading stands in its record, the derived values are recomputed, and a cell that becomes DRY is told (R5 to R9). -/
def State.cellTaken (s : State) (i : Str) (p : Pos) (r : CellReading) : State :=
  let t := (s.modCell (cellIx i p) (Cell.take s.now s.staleMs r (s.cellLevel i p r))).recompute i
  if s.cellLevel i p r = some .dry ∧ (s.cellAt i p).level ≠ .dry then t.noticeCell i p .dry else t

/-- A measured voltage is handed to the slot of its string (R93). -/
def State.handVoltage (s : State) (i : Str) (v : Option Nat) : State :=
  match v with
  | some mv => s.onSlotOf i fun sl s => s.cellVoltageArrives sl mv
  | none => s

/-- A level class is handed to the Watering Unit (R133, R138). -/
def State.handLevel (s : State) (i : Str) (p : Pos) (lv : Option Level) : State :=
  match lv with
  | some l => s.levelArrives i p l
  | none => s

theorem absorbCell_eq {r : CellReading} (h : r.sensorFault = false) (s : State) (i : Str) (p : Pos) : s.absorbCell i p r
    = ((((s.cellTaken i p r).handVoltage i r.voltage).handDerived i (s.reading i)).handLevel i p
        (s.cellLevel i p r)).handDry i (s.reading i) := by
  unfold State.absorbCell
  rw [if_neg (by rw [h]; exact Bool.false_ne_true)]
  rfl

/-- A CELL frame whose source has the role of a cell reaches its record (R3). -/
theorem absorb_cell {s : State} {f : Frame} {i : Str} {p : Pos} {v1 v0 t1 t0 lv st : Byte} {rest : List Byte}
    (hr : s.roleOf f.src = some (.cell i p)) (hk : f.kind = kindCell) (hp : f.payload = v1 :: v0 :: t1 :: t0 :: lv :: st :: rest) :
    s.absorb f = s.absorbCell i p ⟨if v1 ++ v0 = (0xFFFF : BitVec 16) then none else some (v1 ++ v0).toNat,
        if t1 ++ t0 = (0x7FFF : BitVec 16) then none else some (t1 ++ t0).toInt, lv.toNat, st.getLsbD 0⟩ := by
  unfold State.absorb
  rw [hr]
  dsimp only
  rw [if_pos hk, hp, readCell_bytes]

/-! ### What the parts leave -/

/-- A notice moves the Ring Port alone. -/
theorem notice_eq (s : State) (m : List Byte) : s.notice m = { s with ring := (s.notice m).ring } := by
  unfold State.notice
  split
  · split <;> rfl
  · rfl

theorem recompute_slot (s : State) (i : Str) (sl : SlotId) : (s.recompute i).slot sl = s.slot sl := by
  cases sl <;> rfl

theorem cellTaken_fixed (s : State) (i : Str) (p : Pos) (r : CellReading) (sl : SlotId) :
    (s.cellTaken i p r).slot sl = s.slot sl ∧ (s.cellTaken i p r).images = s.images
      ∧ (s.cellTaken i p r).now = s.now ∧ (∀ j, (s.cellTaken i p r).control j = s.control j)
      ∧ (s.cellTaken i p r).cells = (s.modCell (cellIx i p) (Cell.take s.now s.staleMs r (s.cellLevel i p r))).cells
      ∧ (∀ j, (s.cellTaken i p r).reading j
        = ((s.modCell (cellIx i p) (Cell.take s.now s.staleMs r (s.cellLevel i p r))).recompute i).reading j) := by
  unfold State.cellTaken
  dsimp only
  generalize hu : (s.modCell (cellIx i p) (Cell.take s.now s.staleMs r (s.cellLevel i p r))).recompute i = u
  have hk : u.slot sl = s.slot sl ∧ u.images = s.images ∧ u.now = s.now ∧ (∀ j, u.control j = s.control j)
      ∧ u.cells = (s.modCell (cellIx i p) (Cell.take s.now s.staleMs r (s.cellLevel i p r))).cells := by
    subst hu
    exact ⟨by cases sl <;> rfl, rfl, rfl, fun j => State.modReading_control .., rfl⟩
  obtain ⟨h1, h2, h3, h4, h5⟩ := hk
  split
  · unfold State.noticeCell
    rw [notice_eq]
    exact ⟨Eq.trans (by cases sl <;> rfl) h1, h2, h3, h4, h5, fun _ => rfl⟩
  · exact ⟨h1, h2, h3, h4, h5, fun _ => rfl⟩

theorem handLevel_slot (s : State) (i : Str) (p : Pos) (lv : Option Level) (sl : SlotId) :
    (s.handLevel i p lv).slot sl = s.slot sl := by
  cases lv with
  | none => rfl
  | some l => exact (dosed_levelArrives s i p l).slot sl

theorem handLevel_str (s : State) (i : Str) (p : Pos) (lv : Option Level) (j : Str) :
    (s.handLevel i p lv).str j = s.str j := by
  cases lv with
  | none => rfl
  | some l => exact (dosed_levelArrives s i p l).str j

theorem handDry_slot (s : State) (i : Str) (old : Reading) (sl : SlotId) : (s.handDry i old).slot sl = s.slot sl := by
  unfold State.handDry State.judgeWaterDue
  dsimp only
  split
  · rfl
  · split
    · split
      · exact (enqueue_slot ..).trans (markScan_slot ..)
      · exact markScan_slot ..
    · exact markScan_slot ..

end Sys2Proof.Machine

/-! ## A cell voltage at the slot (R93, R102) -/

namespace Sys2Proof.Machine

/-! ### Starting an entry keeps the bindings -/

section
variable {s t : State}

theorem handed_beginStretch (h : State.Handed true true s t) (sl : SlotId) (back : ResumeState) :
    State.Handed true true s (t.beginStretch sl back) := by
  have k := handed_judgeReasons h sl
  unfold State.beginStretch
  dsimp only
  split
  · rename_i cause hb
    refine handed_slotEnds k sl cause ?_ ?_ <;>
    · revert hb
      unfold State.stretchBarred
      split
      · rintro ⟨⟩; decide
      · split <;> rintro ⟨⟩; decide
  · exact handed_ite (handed_suspend k ..) (handed_judgeCriterion (handed_slotOrder (handed_modSlot k ..) ..) sl)

/-- The slot and the readings of every string stand. -/
def State.BindingKept (s t : State) : Prop :=
  ∀ j, (t.control j).slot = (s.control j).slot ∧ t.reading j = s.reading j

theorem State.BindingKept.trans {s t u : State} (h : s.BindingKept t) (k : t.BindingKept u) : s.BindingKept u :=
  fun j => ⟨(k j).1.trans (h j).1, (k j).2.trans (h j).2⟩

theorem State.Handed.binding {ends joins : Bool} {s t : State} (h : State.Handed ends joins s t) : s.BindingKept t :=
  fun j => ⟨h.slotOf j, h.reading j⟩

theorem endCause_binding (s : State) (i : Str) (c : EndReason) : s.BindingKept (s.endCause i c) := by
  have hend : s.BindingKept (s.endRound i c) := by
    have hf := frame_endRound s i c
    intro j
    by_cases h : j = i
    · rw [h]
      exact ⟨(endRound_ended s i c).slot, hf.reading⟩
    · unfold State.control State.reading
      rw [hf.str j h]
      exact ⟨rfl, rfl⟩
  unfold State.endCause
  split
  · exact hend
  · exact hend
  · exact (handed_causeInReturn (ends := true) (joins := true) (.refl s) i c).binding
  · exact fun _ => ⟨rfl, rfl⟩

theorem slotEnds_binding (s : State) (sl : SlotId) (c : EndReason) : s.BindingKept (s.slotEnds sl c) := by
  unfold State.slotEnds
  split
  · exact endCause_binding s _ c
  · exact fun _ => ⟨rfl, rfl⟩

theorem handed_startWater (h : State.Handed true true s t) (sl : SlotId) (i : Str) :
    State.Handed true true s (t.startWater sl i) := by
  have k := handed_judgeReasons h sl
  unfold State.startWater
  dsimp only
  exact handed_slotOrder (handed_modSlot (handed_ite k (handed_enqueue k _)) sl _) sl _

/-- Every start of an entry but an END hands changes on alone. -/
theorem startEntry_binding (sl : SlotId) (n : Nat) : ∀ s : State, s.BindingKept (s.startEntry sl n) := by
  induction n with
  | zero => exact fun _ _ => ⟨rfl, rfl⟩
  | succ n ih =>
    intro s
    have h : State.Handed true true s (s.modSlot sl SlotRec.entryReset) := handed_modSlot (.refl s) ..
    rw [State.startEntry]
    generalize s.modSlot sl SlotRec.entryReset = t at h
    split
    · exact (handed_beginStretch (handed_modSlot h ..) sl .direct).binding
    · split
      · exact (handed_beginStretch (handed_modSlot h ..) sl .run).binding
      · exact (handed_slotOrder (handed_modSlot (handed_judgeReasons h sl) ..) sl .off).binding
      · exact h.binding.trans (slotEnds_binding t sl .complete)
      · split
        · split
          · exact (handed_startWater h sl _).binding
          · exact (handed_modSlot h sl fun r => { r with index := r.index + 1 }).binding.trans (ih _)
        · exact h.binding

theorem startAt_binding (s : State) (sl : SlotId) : s.BindingKept (s.startAt sl) := by
  unfold State.startAt
  exact (startEntry_binding sl 13 s).trans (handed_followSite (ends := true) (joins := true) (.refl _)).binding

theorem nextEntry_slotOf (s : State) (sl : SlotId) (i : Str) :
    ((s.nextEntry sl).control i).slot = (s.control i).slot := by
  have h : State.Handed true true s (s.modSlot sl fun r => { r with index := r.index + 1 }) := handed_modSlot (.refl s) ..
  exact ((h.binding.trans (startAt_binding _ sl)) i).1

end

/-! ### The voltage at the slot -/

/-- The back-off condition (R93). -/
def State.backsOff (s : State) (sl : SlotId) (mv : Nat) : Prop :=
  (s.slot sl).active = true ∧ ((s.slot sl).lastOrder.map RectOrder.isOn) = some true ∧ s.lim.cellCutMv ≤ mv
    ∧ ((s.slot sl).settleEnd = none ∨ s.reached (s.slot sl).settleEnd = true)

/-- Below cell_cut_mv, while the last step settles, or without an order that is ON, a voltage does nothing (R93). -/
theorem cellVoltageArrives_idle {s : State} {sl : SlotId} {mv : Nat} (h : ¬ s.backsOff sl mv) :
    s.cellVoltageArrives sl mv = s :=
  if_neg h

theorem cellVoltageArrives_backOff {s : State} {sl : SlotId} {mv : Nat} (h : s.backsOff sl mv) :
    s.cellVoltageArrives sl mv = s.backOffStep sl :=
  if_pos h

/-- The order handed is the last order. -/
theorem slotOrder_lastOrder (s : State) (sl : SlotId) (o : RectOrder) : ((s.slotOrder sl o).slot sl).lastOrder = some o := by
  unfold State.slotOrder
  split
  · assumption
  · rw [handRect_slot, State.modSlot_slot]

/-- The state after a back-off step to the limit `l` (R93). -/
def State.steppedTo (s : State) (sl : SlotId) (l : Nat) : State :=
  let t := s.modSlot sl fun r => { r with limit := l }
  (t.slotOrder sl (t.entryOrder sl)).modSlot sl fun r =>
    { r with settleEnd := some (t.now + t.lim.backoffSettleS * 1000) }

theorem backOffStep_step {s : State} {sl : SlotId} (h : s.lim.iFloor < (s.slot sl).limit) :
    s.backOffStep sl = s.steppedTo sl (max s.lim.iFloor ((s.slot sl).limit * 3 / 4)) := by
  unfold State.backOffStep
  rw [backOffLimit_eq_some h]
  rfl

theorem handed_steppedTo (s : State) (sl : SlotId) (l : Nat) : State.Handed true true s (s.steppedTo sl l) := by
  unfold State.steppedTo
  exact handed_modSlot (handed_slotOrder (handed_modSlot (.refl s) ..) ..) ..

/-- What a back-off step makes of the slot (R93). -/
theorem steppedTo_slot (s : State) (sl : SlotId) (l : Nat) :
    ((s.steppedTo sl l).slot sl).limit = l
      ∧ ((s.steppedTo sl l).slot sl).settleEnd = some (s.now + s.lim.backoffSettleS * 1000)
      ∧ ((s.steppedTo sl l).slot sl).cut = (s.slot sl).cut ∧ ((s.steppedTo sl l).slot sl).index = (s.slot sl).index
      ∧ ((s.steppedTo sl l).slot sl).suspendedTotal = (s.slot sl).suspendedTotal
      ∧ ((s.steppedTo sl l).slot sl).lastOrder = some ((s.modSlot sl fun r => { r with limit := l }).entryOrder sl) := by
  unfold State.steppedTo
  dsimp only
  have ho := slotOrder_lastOrder (s.modSlot sl fun r => { r with limit := l }) sl
    ((s.modSlot sl fun r => { r with limit := l }).entryOrder sl)
  have hs := stands_slotOrder (.refl sl (s.modSlot sl fun r => { r with limit := l }))
    ((s.modSlot sl fun r => { r with limit := l }).entryOrder sl)
  obtain ⟨h1, -, h3, h4, -, h6⟩ := SlotRec.fields_of_standing hs.slot
  rw [State.modSlot_slot] at h1 h3 h4 h6
  generalize (s.modSlot sl fun r => { r with limit := l }).slotOrder sl
    ((s.modSlot sl fun r => { r with limit := l }).entryOrder sl) = t at ho h1 h3 h4 h6
  rw [State.modSlot_slot]
  refine ⟨h1, ?_, h3, h4, h6, ho⟩
  simp [State.lim]

/-- A limit at the floor is a CUT: a phase goes to the next entry, a DIRECT round goes on at 0 (R93, R102). -/
theorem backOffStep_cut {s : State} {sl : SlotId} (h : (s.slot sl).limit ≤ s.lim.iFloor) : s.backOffStep sl
    = if (s.slot sl).entryState = some .direct then s.cutDirect sl
      else (s.modSlot sl fun r => { r with cut := true }).nextEntry sl := by
  unfold State.backOffStep
  rw [(backOffLimit_eq_none ..).mpr h]

/-- A phase that is cut goes on at a later entry. -/
theorem cutPhase_slot (s : State) (sl : SlotId) :
    ((((s.modSlot sl fun r => { r with cut := true }).nextEntry sl).slot sl).cut = true)
      ∧ (s.slot sl).index < (((s.modSlot sl fun r => { r with cut := true }).nextEntry sl).slot sl).index := by
  obtain ⟨h1, h2⟩ := onward_nextEntry (s.modSlot sl fun r => { r with cut := true }) sl
  rw [State.modSlot_slot] at h1 h2
  exact ⟨h1, h2⟩

theorem cutPhase_slotOf (s : State) (sl : SlotId) (i : Str) :
    (((s.modSlot sl fun r => { r with cut := true }).nextEntry sl).control i).slot = (s.control i).slot :=
  (nextEntry_slotOf ..).trans (by rw [State.modSlot_control])

/-- A DIRECT round that is cut goes on at 0 (R102). -/
theorem cutDirect_slot {s : State} {sl : SlotId} (k : s.maySuspend sl) :
    ((s.cutDirect sl).slot sl).cut = true ∧ ((s.cutDirect sl).slot sl).directI = 0 ∧ ((s.cutDirect sl).slot sl).limit = 0
      ∧ ((s.cutDirect sl).slot sl).index = (s.slot sl).index ∧ (s.cutDirect sl).maySuspend sl := by
  have h0 : (s.modSlot sl fun r => { r with directI := 0, limit := 0, cut := true }).maySuspend sl := by
    unfold State.maySuspend State.suspendMs State.lim at k ⊢
    simpa [State.modSlot_slot] using k
  have h1 := stands_slotOrder (.refl sl (s.modSlot sl fun r => { r with directI := 0, limit := 0, cut := true })) .off
  have h2 := stands_reviewReasons h1 (h1.maySuspend h0)
  rw [show (((s.modSlot sl fun r => { r with directI := 0, limit := 0, cut := true }).slotOrder sl .off).reviewReasons sl)
    = s.cutDirect sl from rfl] at h2
  obtain ⟨hl, -, hc, hi, hd, -⟩ := SlotRec.fields_of_standing h2.slot
  rw [State.modSlot_slot] at hl hc hi hd
  exact ⟨hc, hd, hl, hi, h2.maySuspend h0⟩

theorem handed_cutDirect (s : State) (sl : SlotId) : State.Handed true true s (s.cutDirect sl) := by
  unfold State.cutDirect
  exact handed_reviewReasons (handed_slotOrder (handed_modSlot (.refl s) ..) ..) sl

/-! ### What the reading finds -/

theorem SlotRec.elapse_running {r : SlotRec} (dt : Nat) (h : r.entryState = some .run ∨ r.entryState = some .direct) :
    r.elapse dt = { r with runElapsed := r.runElapsed + dt } := by
  unfold SlotRec.elapse
  rcases h with h | h <;> rw [h]

section
variable (s : State) (dt : Nat)

theorem State.heard_slot (sl : SlotId) : (s.begin dt).heard.slot sl = (s.slot sl).elapse dt := by
  rw [← State.begin_slot]
  cases sl <;> rfl

theorem State.heard_images : (s.begin dt).heard.images = s.images := s.begin_images dt

theorem State.heard_now : (s.begin dt).heard.now = s.now + dt := s.begin_now dt

theorem State.heard_control (i : Str) : (s.begin dt).heard.control i
    = { s.control i with confirmLeft := ((s.begin dt).control i).confirmLeft } := s.begin_control_eq dt i

theorem State.heard_reading (i : Str) : (s.begin dt).heard.reading i = s.reading i := s.begin_reading dt i

theorem State.roleOf_congr {s t : State} (h : t.images = s.images) (a : Byte) : t.roleOf a = s.roleOf a := by
  unfold State.roleOf State.roleFor State.present State.cfg
  rw [h]

end

/-- What the running entry asks follows the working limit alone, where a back-off step may lower it (R59, R93). -/
theorem entryOrder_stepped {s t : State} {sl : SlotId} {l : Nat} (hi : t.images = s.images)
    (hs : ((t.slot sl).string, (t.slot sl).recipe, (t.slot sl).index, (t.slot sl).tc, (t.slot sl).directV, (t.slot sl).directI)
      = ((s.slot sl).string, (s.slot sl).recipe, (s.slot sl).index, (s.slot sl).tc, (s.slot sl).directV, (s.slot sl).directI))
    (hl : (t.slot sl).limit = l) (h : (s.slot sl).recipe = 0 ∨ ∃ id, s.slotEntry sl = .phase id) :
    t.entryOrder sl = match s.entryOrder sl with | .on u _ => .on u l | .off => .off := by
  simp only [Prod.mk.injEq] at hs
  obtain ⟨h1, h2, h3, h4, h5, h6⟩ := hs
  have he : t.slotEntry sl = s.slotEntry sl := by
    unfold State.slotEntry
    rw [h2, h3, hi]
  have hc : t.slotCells sl = s.slotCells sl := by
    unfold State.slotCells State.cfg
    rw [h1, hi]
  have hlim : t.lim = s.lim := by
    unfold State.lim
    rw [hi]
  have hp : t.phase = s.phase := by
    funext id
    unfold State.phase
    rw [hi]
  unfold State.entryOrder SlotRec.tcOr
  dsimp only
  rw [h2, h4, h5, h6, he, hc, hlim, hp, hl]
  by_cases hr : (s.slot sl).recipe = 0
  · simp only [if_pos hr]
    split <;> rfl
  · obtain ⟨id, hid⟩ := h.resolve_left hr
    simp only [if_neg hr, hid]
    split <;> rfl

/-- A reading that carries a voltage: what the slot of its string comes to (R18, R93). -/
theorem absorbCell_slot {s : State} {i : Str} {p : Pos} {r : CellReading} {sl : SlotId} {mv : Nat} (hf : r.sensorFault = false)
    (hv : r.voltage = some mv) (hc : (s.control i).slot = some sl) :
    (s.absorbCell i p r).slot sl = (((s.cellTaken i p r).cellVoltageArrives sl mv).handDerived i (s.reading i)).slot sl
      ∧ (s.absorbCell i p r).reading i = ((s.cellTaken i p r).cellVoltageArrives sl mv).reading i := by
  have hx : (s.cellTaken i p r).handVoltage i r.voltage = (s.cellTaken i p r).cellVoltageArrives sl mv := by
    rw [hv]
    obtain ⟨-, -, -, hk, -⟩ := cellTaken_fixed s i p r sl
    exact onSlotOf_slot (by rw [hk]; exact hc) fun sl s => s.cellVoltageArrives sl mv
  rw [absorbCell_eq hf, hx, handDry_slot, handLevel_slot]
  refine ⟨rfl, ?_⟩
  rw [(handed_handDry (.refl _) i (s.reading i)).reading, State.reading, handLevel_str]
  exact (handed_handDerived (joins := true) (.refl _) i (s.reading i)).reading i

theorem judgeCriterion_lastOrder (s : State) (sl : SlotId) : ((s.judgeCriterion sl).slot sl).lastOrder = (s.slot sl).lastOrder := by
  unfold State.judgeCriterion
  split
  · split
    · split <;> rw [State.modSlot_slot]
    · rfl
  · rfl

/-- Without a change of fresh_cells or T_s the derived values leave the order of the slot (R18, R91, R95). -/
theorem handDerived_lastOrder {s : State} {i : Str} {sl : SlotId} {old : Reading} (hc : (s.control i).slot = some sl)
    (hf : (s.reading i).freshCells = old.freshCells) (ht : (s.reading i).ts = old.ts) :
    ((s.handDerived i old).slot sl).lastOrder = (s.slot sl).lastOrder := by
  rw [handDerived_eq, State.handFreshCells, if_pos hf, State.handTs, if_pos ht, State.handSpread]
  split
  · rfl
  · rw [onSlotOf_slot (by rw [judgeSpreadTimer_control]; exact hc), judgeCriterion_lastOrder]
    unfold State.judgeSpreadTimer
    split <;> rw [State.modCharge_slot]

/-- What a cell voltage at the slot of its string comes to (R93): `t` is the state that has stored the reading. -/
theorem voltage_at_slot {s t w : State} {dt mv : Nat} {i : Str} {sl : SlotId} {old : Reading}
    (hslot : t.slot sl = (s.slot sl).elapse dt) (himg : t.images = s.images) (hnow : t.now = s.now + dt)
    (hc : (t.control i).slot = some sl) (hrun : (s.slot sl).entryState = some .run ∨ (s.slot sl).entryState = some .direct)
    (hsus : (s.slot sl).suspendedTotal < s.lim.suspendMaxMin * 60000)
    (hw : w.slot sl = ((t.cellVoltageArrives sl mv).handDerived i old).slot sl)
    (hr : w.reading i = (t.cellVoltageArrives sl mv).reading i) (ho : old = s.reading i) :
    (mv < s.lim.cellCutMv ∨ (∃ e, (s.slot sl).settleEnd = some e ∧ s.now + dt < e)
          ∨ (s.slot sl).lastOrder = some .off ∨ (s.slot sl).lastOrder = none →
        (w.slot sl).limit = (s.slot sl).limit ∧ (w.slot sl).settleEnd = (s.slot sl).settleEnd
          ∧ (w.slot sl).cut = (s.slot sl).cut ∧ (w.slot sl).index = (s.slot sl).index)
      ∧ (∀ volts amps, s.lim.cellCutMv ≤ mv → (∀ e, (s.slot sl).settleEnd = some e → e ≤ s.now + dt) →
        (s.slot sl).lastOrder = some (.on volts amps) →
        (s.lim.iFloor < (s.slot sl).limit →
          (w.slot sl).limit = max s.lim.iFloor ((s.slot sl).limit * 3 / 4)
            ∧ (w.slot sl).settleEnd = some (s.now + dt + s.lim.backoffSettleS * 1000)
            ∧ (w.slot sl).cut = (s.slot sl).cut ∧ (w.slot sl).index = (s.slot sl).index
            ∧ (((s.slot sl).recipe = 0 ∨ ∃ id, s.slotEntry sl = .phase id) →
              (w.reading i).freshCells = (s.reading i).freshCells → (w.reading i).ts = (s.reading i).ts →
              (w.slot sl).lastOrder = some (match s.entryOrder sl with
                | .on u _ => .on u (max s.lim.iFloor ((s.slot sl).limit * 3 / 4))
                | .off => .off)))
        ∧ ((s.slot sl).limit ≤ s.lim.iFloor → (s.slot sl).entryState = some .run → (s.slot sl).recipe ≠ 0 →
          (w.slot sl).cut = true ∧ (s.slot sl).index < (w.slot sl).index)
        ∧ ((s.slot sl).limit ≤ s.lim.iFloor → (s.slot sl).entryState = some .direct →
          (w.slot sl).cut = true ∧ (w.slot sl).directI = 0 ∧ (w.slot sl).limit = 0
            ∧ (w.slot sl).index = (s.slot sl).index)) := by
  have hlim : t.lim = s.lim := by unfold State.lim; rw [himg]
  rw [SlotRec.elapse_running dt hrun] at hslot
  have hmay : t.maySuspend sl := by
    unfold State.maySuspend State.suspendMs
    rw [hslot, hlim]
    exact hsus
  have hreach : ∀ x, t.reached x = true ↔ ∃ e, x = some e ∧ e ≤ s.now + dt := by
    intro x
    rw [State.reached_iff, State.past, hnow]
  refine ⟨fun h => ?_, fun volts amps hmv hse hlo => ?_⟩
  · have hb : ¬ t.backsOff sl mv := by
      rintro ⟨-, h2, h3, h4⟩
      rw [hlim] at h3
      rw [hreach] at h4
      rw [hslot] at h2 h4
      dsimp only at h2 h4
      rcases h with h | ⟨e, h, he⟩ | h | h
      · omega
      · rcases h4 with h4 | ⟨e', h4, he'⟩
        · rw [h] at h4; cases h4
        · rw [h] at h4; cases h4; omega
      · rw [h] at h2; cases h2
      · rw [h] at h2; cases h2
    rw [cellVoltageArrives_idle hb] at hw
    obtain ⟨h1, h2, h3, h4, -, -⟩ := SlotRec.fields_of_standing (stands_handDerived hc hmay old).slot
    rw [hw, h1, h2, h3, h4, hslot]
    exact ⟨rfl, rfl, rfl, rfl⟩
  · have hb : t.backsOff sl mv := by
      refine ⟨?_, ?_, by rw [hlim]; exact hmv, ?_⟩
      · rw [hslot]
        unfold SlotRec.active
        rcases hrun with h | h <;> rw [h] <;> rfl
      · rw [hslot]
        dsimp only
        rw [hlo]
        rfl
      · rw [hreach, hslot]
        dsimp only
        cases h : (s.slot sl).settleEnd with
        | none => exact .inl rfl
        | some e => exact .inr ⟨e, rfl, hse e h⟩
    rw [cellVoltageArrives_backOff hb] at hw hr
    refine ⟨fun hl => ?_, fun hl hst hrec => ?_, fun hl hst => ?_⟩
    · rw [backOffStep_step (by rw [hlim, hslot]; exact hl)] at hw hr
      rw [hlim, hslot] at hw hr
      dsimp only at hw hr
      set l := max s.lim.iFloor ((s.slot sl).limit * 3 / 4) with hldef
      obtain ⟨k1, k2, k3, k4, k5, k6⟩ := steppedTo_slot t sl l
      have hh := handed_steppedTo t sl l
      have hc' := (hh.slotOf i).trans hc
      have hmay' : (t.steppedTo sl l).maySuspend sl := by
        unfold State.maySuspend State.suspendMs State.lim at hmay ⊢
        rw [k5, hh.images]
        exact hmay
      obtain ⟨h1, h2, h3, h4, -, -⟩ := SlotRec.fields_of_standing (stands_handDerived hc' hmay' old).slot
      rw [hw, h1, h2, h3, h4, k1, k2, k3, k4, hslot, hnow, hlim]
      refine ⟨rfl, rfl, rfl, rfl, fun he hfr hts => ?_⟩
      rw [handDerived_lastOrder hc' (by rw [← hr, ho]; exact hfr) (by rw [← hr, ho]; exact hts), k6]
      refine congrArg some (entryOrder_stepped (by simpa using himg) ?_ ?_ he) <;> rw [State.modSlot_slot, hslot]
    · rw [backOffStep_cut (by rw [hlim, hslot]; exact hl), hslot, if_neg (by dsimp only; rw [hst]; decide)] at hw
      obtain ⟨k1, k2⟩ := cutPhase_slot t sl
      obtain ⟨h1, h2⟩ := onward_handDerived ((cutPhase_slotOf t sl i).trans hc) old
      rw [hslot] at k2
      rw [hw]
      exact ⟨h1.trans k1, k2.trans_le h2⟩
    · rw [backOffStep_cut (by rw [hlim, hslot]; exact hl), hslot, if_pos hst] at hw
      obtain ⟨k1, k2, k3, k4, k5⟩ := cutDirect_slot hmay
      obtain ⟨h1, -, h3, h4, h5, -⟩ :=
        SlotRec.fields_of_standing (stands_handDerived (((handed_cutDirect t sl).slotOf i).trans hc) k5 old).slot
      rw [hw, h1, h3, h4, h5, k1, k2, k3, k4, hslot]
      exact ⟨rfl, rfl, rfl, rfl⟩

theorem State.Passed.slot {s t : State} (h : s.Passed t) (sl : SlotId) : t.slot sl = s.slot sl := by
  rw [h.eq]
  cases sl <;> rfl

theorem State.Passed.reading {s t : State} (h : s.Passed t) (i : Str) : t.reading i = s.reading i := by
  rw [h.eq]
  rfl

/-- Settles O57: the voltages by their formulas, the back-off by what the reading finds and what the hand-offs leave. -/
theorem voltagesStayUnderTheCeiling : Obligations.VoltagesStayUnderTheCeiling := by
  refine ⟨adjustment_eq, fun l p t cap hcap => ?_, fun l t v hl => ⟨waterMv_eq t hl, directMv_eq v hl⟩, fun _ _ => rfl,
    fun l p t u h => ⟨phaseMv_antitone l p h, fun hl => waterMv_antitone hl h⟩,
    fun l p t cells => ⟨orderVolts_le (phaseMv_le_ceiling l p t) cells, fun hl => ⟨orderVolts_le ?_ cells, fun v =>
      orderVolts_le ?_ cells⟩⟩, fun l h1 h2 => adjustment_tRef h1 h2,
    fun floor limit => ⟨backOffLimit_eq_none .., fun next h => ?_⟩, ?_⟩
  · subst hcap
    exact ⟨fun h => phaseMv_of_cap_lt h t, fun h => phaseMv_of_le_cap h t⟩
  · have := waterMv_eq t hl
    omega
  · rw [directMv_eq v hl]
    omega
  · have hlt : floor < limit := by
      by_contra hn
      rw [(backOffLimit_eq_none ..).mpr (Nat.not_lt.mp hn)] at h
      cases h
    rw [backOffLimit_eq_some hlt, Option.some.injEq] at h
    omega
  · intro s dt b f i p sl v1 v0 t1 t0 lv st rest hlast hsee hdst hrole hkind hpay hst hv hhold hrun hsus
    obtain ⟨w, hex, hpass⟩ := exec_reading (dt := dt) hlast hsee hdst (.inl hkind)
    refine ⟨w, hex, ?_⟩
    have himg := s.heard_images dt
    have hcu : ((s.begin dt).heard.control i).slot = some sl := by rw [s.heard_control dt i]; exact hhold.2
    rw [absorb_cell ((State.roleOf_congr himg _).trans hrole) hkind hpay] at hpass
    have hslot := s.heard_slot dt sl
    have hnow := s.heard_now dt
    have hrd := s.heard_reading dt i
    generalize (s.begin dt).heard = u at hpass himg hcu hslot hnow hrd
    rw [if_neg hv] at hpass
    generalize hr : (CellReading.mk (some (v1 ++ v0).toNat) (if t1 ++ t0 = (0x7FFF : BitVec 16) then none
      else some (t1 ++ t0).toInt) lv.toNat (st.getLsbD 0)) = r at hpass
    obtain ⟨c1, c2, c3, c4, -⟩ := cellTaken_fixed u i p r sl
    obtain ⟨a1, a2⟩ := absorbCell_slot (s := u) (i := i) (p := p) (r := r) (sl := sl) (mv := (v1 ++ v0).toNat)
      (by rw [← hr]; exact hst) (by rw [← hr]) hcu
    exact voltage_at_slot (c1.trans hslot) (c2.trans himg) (c3.trans hnow) (by rw [c4]; exact hcu) hrun hsus
      ((hpass.slot sl).trans a1) ((hpass.reading i).trans a2) hrd

end Sys2Proof.Machine

/-! ## A settlement that reaches no string (R113, R181) -/

namespace Sys2Proof.Machine

/-- In TRANSPARENT mode a scan admits nothing (R114, R117). -/
theorem scanEntry_transparent {c : ScanState} (h : c.state.engaged = false) (edge : Bool) (k : Str × RoundKind) :
    scanEntry edge c k = c := by
  have he : c.state.equaliseSite edge = false := by unfold State.equaliseSite; rw [h]; rfl
  have hw : ∀ e, c.state.waterAdmissible e = false := fun e => by unfold State.waterAdmissible; rw [h]; rfl
  unfold scanEntry
  split
  · rfl
  · split
    · rw [he]
      split <;> rfl
    · rw [hw, Bool.and_false]
      rfl

theorem scanOnce_transparent {s : State} (h : s.engaged = false) (edge : Bool) : s.scanOnce edge = s := by
  have key : ∀ l : List (Str × RoundKind), l.foldl (scanEntry edge) ⟨s, false⟩ = ⟨s, false⟩ := by
    intro l
    induction l with
    | nil => rfl
    | cons k l ih => rw [List.foldl_cons, scanEntry_transparent h, ih]
  unfold State.scanOnce
  rw [key]

theorem runScans_transparent (n : Nat) : ∀ s : State, s.engaged = false → (s.runScans n).strings = s.strings := by
  induction n with
  | zero => exact fun _ _ => rfl
  | succ n ih =>
    intro s h
    unfold State.runScans
    split
    · have h' : ({ s with marks := { s.marks with scan := false, gate := false } } : State).engaged = false := h
      rw [scanOnce_transparent h']
      exact ih _ h'
    · rfl

/-- The tables of an applied image are no longer all absent (R181). -/
theorem applyImage_loaded (s : State) (t : TableId) (b : List Byte) : (s.applyImage t b).mgmt.loaded = s.mgmt.loaded.add t := by
  unfold State.applyImage
  extract_lets old stale s1 s2 s3 s4
  have h3 : s3.mgmt.loaded = s.mgmt.loaded.add t := by
    show s2.mgmt.loaded = _
    rw [(s1.blocksAct_images t old stale).2]
    rfl
  clear_value s3
  show s4.mgmt.loaded = _
  simp only [s4]
  split <;> exact h3

theorem Loaded.add_ne (l : Loaded) (t : TableId) : l.add t ≠ {} := by
  intro h
  rw [Loaded.mk.injEq] at h
  obtain ⟨h1, h2, h3, h4, h5⟩ := h
  cases t <;> contradiction

/-- While no table is loaded no image has been applied (R181). -/
theorem applyPending_unloaded {s : State} (h : s.applyPending.mgmt.loaded = {}) : s.applyPending = s := by
  unfold State.applyPending at h ⊢
  split
  · rename_i t h1 h2
    rw [h1, h2, applyImage_loaded] at h
    exact absurd h (Loaded.add_ne _ t)
  · rfl

theorem deferredCommit_unloaded {s : State} (h : s.deferredCommit.mgmt.loaded = {}) :
    s.deferredCommit.strings = s.strings := by
  unfold State.deferredCommit at h ⊢
  dsimp only at h ⊢
  split
  · rename_i hc
    rw [if_pos hc] at h
    exact (congrArg State.strings (applyPending_unloaded h)).trans rfl
  · rfl

theorem State.settle_eq (w : State) :
    w.settle = { (w.followSite.deferredCommit.followSite.scan.followSite.arbitrate) with marks := {} } := rfl

theorem followSite_strings (s : State) : s.followSite.strings = s.strings := rfl

theorem arbitrate_strings (s : State) : ({ s.arbitrate with marks := {} } : State).strings = s.strings := rfl

/-- With no table loaded and the mode TRANSPARENT the end of an event reaches no string. -/
theorem settle_strings {w : State} (hl : w.settle.mgmt.loaded = {}) (hm : w.settle.mgmt.mode = .transparent) :
    w.settle.strings = w.strings := by
  rw [w.settle_images.2] at hl hm
  have he : w.followSite.deferredCommit.followSite.engaged = false := by
    show (w.followSite.deferredCommit.mgmt.mode == .engaged) = false
    rw [hm]
    rfl
  have hscan := runScans_transparent scanFuel w.followSite.deferredCommit.followSite he
  rw [State.settle_eq, arbitrate_strings, followSite_strings, State.scan, hscan, followSite_strings,
    deferredCommit_unloaded hl, followSite_strings]

end Sys2Proof.Machine

/-! ## A slot that counts in CALLED (R65, R96) -/

namespace Sys2Proof.Machine

/-- S0, present with one cell at no fresh value, CALLED in slot A for a DIRECT round; the slot holds an entry in SUSPENDED, which
no run leaves to a string in CALLED. suspend_max_min is 1; the receiver has taken all of `f` but its last check byte. -/
def strayCall (f : Frame) : State :=
  let s : State :=
    { images := { limits := List.replicate 46 0 ++ [1], string := [0x7D, 1, 0x20, 0x40, 0x60, 0xFF], phase := [], recipe := []
                  pass := [] } }
  ((s.modControl 0 fun c => { c with state := .called, slot := some .A }).modSlot .A fun r =>
    { r with string := some 0, entryState := some .suspended }).modRing fun r =>
      { r with rx := .receiving (f.checked ++ (bytesBE 2 (crc16 f.checked).toNat).take 1) }

/-- The EQ position of S0. -/
def eqPosition : Frame := ⟨0x01, 0x60, 0x12, [2, 0]⟩

/-- The second check byte of `eqPosition`. -/
def eqPositionLast : Byte := (bytesBE 2 (crc16 eqPosition.checked).toNat).getLastD 0

/-- The state that the last byte of `eqPosition` leads to, a minute later. -/
def strayResult : State :=
  match exec (.frameReceived 60000 eqPositionLast) (strayCall eqPosition) with
  | .next t => t
  | _ => {}

theorem strayCall_returns : (strayResult.control 0).state = .returning ∧ strayResult.mgmt.loaded = {}
    ∧ strayResult.mgmt.mode = .transparent := by decide +kernel

/-- Refutes O54: the minute that passes with the frame counts in the stray SUSPENDED entry and reaches suspend_max_min, so that
the round which the EQ position starts suspends for its stale cell, ends with SUSPEND_LIMIT in the same event (R96), and leaves
the string in RETURNING; the statement bounds the suspended time before the event alone. -/
theorem not_readingsReachTheRecords : ¬ Obligations.ReadingsReachTheRecords := by
  unfold Obligations.ReadingsReachTheRecords
  intro h
  obtain ⟨-, -, hpos⟩ := h (strayCall eqPosition) 60000 eqPositionLast eqPosition ⟨by decide, _, rfl, rfl⟩ (by decide +kernel)
    (by decide +kernel)
  obtain ⟨w, hex, -, -, hok⟩ := hpos 0 2 0 [] (by decide +kernel) rfl rfl
  obtain ⟨-, -, -, -, -, -, hcalled, -⟩ := hok (by decide) .eq (by decide)
  obtain ⟨-, hdirect⟩ := hcalled .A rfl (by decide +kernel) ⟨by decide +kernel, by decide +kernel⟩ (by decide +kernel)
  obtain ⟨hst, -⟩ := hdirect (by decide +kernel) (.inr (by decide +kernel))
  have hr : strayResult = w.settle := by
    unfold strayResult
    rw [hex]
  obtain ⟨h1, h2, h3⟩ := strayCall_returns
  rw [hr] at h1 h2 h3
  have hs : w.settle.control 0 = w.control 0 := by
    unfold State.control State.str
    rw [settle_strings h2 h3]
  rw [hs, hst] at h1
  cases h1

end Sys2Proof.Machine

/-! ## Notices and removals at a commit (R112, R166) -/

namespace Sys2Proof.Machine

/-- The frame of a DROPPED notice (11.2). -/
def State.droppedFrame (s : State) (e : Entry) : Frame :=
  ⟨s.lim.controllerAddr, s.ring.ownAddress, 0x32, [0x06, 1, BitVec.ofNat 8 e.string.val, BitVec.ofNat 8 e.kind.code]⟩

/-- The DROPPED notices of a list of entries, in its order. -/
def State.noticeAll (s : State) (l : List Entry) : State :=
  l.foldl (fun s e => s.noticeDropped e.string e.kind) s

theorem removeAtCommit_eq (s : State) (gone dropped : Entry → Bool) : s.removeAtCommit gone dropped
    = ({ s with queue := s.queue.filter fun e => !(gone e || dropped e) } : State).noticeAll
        (s.queue.filter fun e => !gone e && dropped e) := rfl

/-- The notices reach the Ring Port alone. -/
theorem noticeAll_eq (l : List Entry) : ∀ s : State, s.noticeAll l = { s with ring := (s.noticeAll l).ring } := by
  induction l with
  | nil => exact fun _ => rfl
  | cons e l ih =>
    intro s
    have h : s.noticeDropped e.string e.kind = { s with ring := (s.noticeDropped e.string e.kind).ring } := notice_eq ..
    have k := ih (s.noticeDropped e.string e.kind)
    change (s.noticeDropped e.string e.kind).noticeAll l = { s with ring := ((s.noticeDropped e.string e.kind).noticeAll l).ring }
    generalize (s.noticeDropped e.string e.kind).noticeAll l = u at k
    generalize s.noticeDropped e.string e.kind = v at h k
    rw [k, h]

/-- In TRANSPARENT mode no notice is sent (R166). -/
theorem noticeAll_transparent (l : List Entry) : ∀ s : State, s.mgmt.mode = .transparent → s.noticeAll l = s := by
  induction l with
  | nil => exact fun _ _ => rfl
  | cons e l ih =>
    intro s h
    have k : s.noticeDropped e.string e.kind = s := by
      unfold State.noticeDropped State.notice State.engaged
      rw [h]
      rfl
    change (s.noticeDropped e.string e.kind).noticeAll l = s
    rw [k]
    exact ih s h

/-- A frame joins the reply queue. -/
def State.addReply (s : State) (f : Frame) : State :=
  s.modRing fun r => { r with replies := r.replies ++ [f] }

/-- A notice finds the reply queue full. -/
def State.loseNotice (s : State) : State :=
  s.modRing fun r => { r with noticeLost := true }

theorem noticeDropped_engaged {s : State} (h : s.mgmt.mode = .engaged) (e : Entry) : s.noticeDropped e.string e.kind
    = if s.ring.replies.length < 8 then s.addReply (s.droppedFrame e) else s.loseNotice := by
  unfold State.noticeDropped State.notice State.engaged
  rw [h]
  rfl

theorem addReply_ring (s : State) (f : Frame) : (s.addReply f).ring.replies = s.ring.replies ++ [f]
    ∧ (s.addReply f).ring.noticeLost = s.ring.noticeLost ∧ (s.addReply f).droppedFrame = s.droppedFrame := ⟨rfl, rfl, rfl⟩

theorem loseNotice_ring (s : State) : s.loseNotice.ring.replies = s.ring.replies ∧ s.loseNotice.ring.noticeLost = true
    ∧ s.loseNotice.droppedFrame = s.droppedFrame := ⟨rfl, rfl, rfl⟩

/-- In ENGAGED mode the notices join the reply queue while it has room; one that finds none is lost (R166). -/
theorem noticeAll_engaged (l : List Entry) : ∀ s : State, s.mgmt.mode = .engaged →
    (s.noticeAll l).ring.replies = s.ring.replies ++ (l.map s.droppedFrame).take (8 - s.ring.replies.length)
      ∧ (s.noticeAll l).ring.noticeLost = (s.ring.noticeLost || decide (8 - s.ring.replies.length < l.length)) := by
  induction l with
  | nil => intro s h; simp [State.noticeAll]
  | cons e l ih =>
    intro s h
    change ((s.noticeDropped e.string e.kind).noticeAll l).ring.replies = _
      ∧ ((s.noticeDropped e.string e.kind).noticeAll l).ring.noticeLost = _
    rw [noticeDropped_engaged h]
    split
    · obtain ⟨h1, h2⟩ := ih (s.addReply (s.droppedFrame e)) h
      obtain ⟨k1, k2, k3⟩ := addReply_ring s (s.droppedFrame e)
      obtain ⟨n, hn⟩ : ∃ n, 8 - s.ring.replies.length = n + 1 := ⟨7 - s.ring.replies.length, by omega⟩
      rw [h1, h2, k1, k2, k3, List.length_append, List.length_singleton, show 8 - (s.ring.replies.length + 1) = n by omega, hn]
      simp
    · obtain ⟨h1, h2⟩ := ih s.loseNotice h
      obtain ⟨k1, k2, k3⟩ := loseNotice_ring s
      rw [h1, h2, k1, k2, k3, show 8 - s.ring.replies.length = 0 by omega]
      simp

/-! ## Empty recipes (R45, R49) -/

theorem field_eq_zero (b : List Byte) (off n : Nat) : field b off n = 0 ↔ ∀ k, k < n → b.getD (off + k) 0 = 0 := by
  induction n with
  | zero => simp [field]
  | succ n ih =>
    rw [field, Nat.add_eq_zero_iff, Nat.mul_eq_zero, or_iff_left (by decide), ih, u8]
    constructor
    · rintro ⟨h1, h2⟩ k hk
      rcases Nat.lt_succ_iff_lt_or_eq.mp hk with h | rfl
      · exact h1 k h
      · exact BitVec.eq_of_toNat_eq h2
    · intro h
      exact ⟨fun k hk => h k (by omega), by rw [h n (by omega)]; rfl⟩

/-- An unused phase is 12 bytes of 0 (R45). -/
theorem phaseUnused_iff (b : List Byte) (id : Nat) :
    phaseUnused b id = true ↔ ((List.range 12).all fun k => (b.getD (12 * (id - 1) + k) 0) == 0) = true := by
  rw [phaseUnused, phaseUnusedAt, phaseOffset, beq_iff_eq, field_eq_zero]
  simp

/-- The entries before the first END (R47). -/
theorem mem_entriesFrom (b : List Byte) (r : Nat) (e : RecipeEntry) (n : Nat) : ∀ i, e ∈ entriesFrom b r i n
    ↔ ∃ k, k < n ∧ (∀ j ≤ k, recipeEntry b r (i + j) ≠ .finish) ∧ recipeEntry b r (i + k) = e := by
  induction n with
  | zero => intro i; simp [entriesFrom]
  | succ n ih =>
    intro i
    rw [entriesFrom]
    split
    · rename_i hf
      simp only [List.not_mem_nil, false_iff, not_exists, not_and]
      exact fun k _ h => absurd hf (h 0 (Nat.zero_le k))
    · rename_i hf
      rw [List.mem_cons, ih]
      constructor
      · rintro (rfl | ⟨k, hk, hj, rfl⟩)
        · exact ⟨0, by omega, fun j h => by rw [Nat.le_zero.mp h]; exact hf, rfl⟩
        · refine ⟨k + 1, by omega, fun j h => ?_, congrArg _ (by omega)⟩
          cases j with
          | zero => exact hf
          | succ j =>
            have := hj j (by omega)
            rwa [show i + 1 + j = i + (j + 1) by omega] at this
      · rintro ⟨k, hk, hj, rfl⟩
        cases k with
        | zero => exact .inl rfl
        | succ k => exact .inr ⟨k, by omega, fun j h => by
            rw [show i + 1 + j = i + (j + 1) by omega]
            exact hj (j + 1) (by omega),
            congrArg _ (by omega)⟩

theorem recipeEntries_isEmpty (b : List Byte) (r : Nat) :
    (recipeEntries b r).isEmpty = true ↔ recipeEntry b r 0 = .finish := by
  rw [recipeEntries, entriesFrom]
  split
  · rename_i h
    simpa using h
  · rename_i h
    simpa using h

/-- An empty recipe (R49): it begins with an END, or an entry before its first END names an unused phase. -/
theorem recipeIsEmpty_iff (s : State) (r : Nat) : s.recipeIsEmpty r = true ↔ r ≠ 0 ∧ ∃ k, k < 12
    ∧ (∀ j < k, recipeEntry s.images.recipe r j ≠ .finish)
    ∧ ((k = 0 ∧ recipeEntry s.images.recipe r k = .finish) ∨ ∃ id, recipeEntry s.images.recipe r k = .phase id
      ∧ ((List.range 12).all fun b => (s.images.phase.getD (12 * (id - 1) + b) 0) == 0) = true) := by
  rw [State.recipeIsEmpty, recipeEmpty, Bool.and_eq_true, bne_iff_ne, Bool.or_eq_true, recipeEntries_isEmpty, List.any_eq_true]
  refine and_congr_right fun _ => ⟨?_, ?_⟩
  · rintro (h | ⟨e, he, hu⟩)
    · exact ⟨0, by omega, fun j h => absurd h (Nat.not_lt_zero j), .inl ⟨rfl, h⟩⟩
    · obtain ⟨k, hk, hj, rfl⟩ := (mem_entriesFrom _ _ _ 12 0).mp he
      simp only [Nat.zero_add] at hj hu
      refine ⟨k, hk, fun j h => hj j h.le, .inr ?_⟩
      split at hu
      · rename_i id hid
        exact ⟨id, hid, (phaseUnused_iff ..).mp hu⟩
      · cases hu
  · rintro ⟨k, hk, hj, ⟨rfl, h⟩ | ⟨id, hid, hu⟩⟩
    · exact .inl h
    · refine .inr ⟨.phase id, (mem_entriesFrom _ _ _ 12 0).mpr ⟨k, hk, fun j h => ?_, by rw [Nat.zero_add, hid]⟩,
        (phaseUnused_iff ..).mpr hu⟩
      rw [Nat.zero_add]
      rcases Nat.lt_or_eq_of_le h with h | rfl
      · exact hj j h
      · rw [hid]
        exact fun k => by cases k

end Sys2Proof.Machine

/-! ## Derived values of strings that hold no slot (R13, R20) -/

namespace Sys2Proof.Machine

/-! ### The queue keeps the entries it has -/

theorem mem_joinQueue (e n : Entry) (q : List Entry) : e ∈ joinQueue n q ↔ e = n ∨ e ∈ q := by
  unfold joinQueue
  split
  · simp [or_comm]
  · rw [List.mem_append, List.mem_cons]
    have h : e ∈ q ↔ e ∈ q.takeWhile (fun x => x.priority == .urgent) ∨ e ∈ q.dropWhile fun x => x.priority == .urgent := by
      rw [← List.mem_append, List.takeWhile_append_dropWhile]
    rw [h]
    tauto

/-- Some entry of the string and kind waits. -/
def State.waits (s : State) (i : Str) (k : RoundKind) : Prop :=
  ∃ e ∈ s.queue, e.string = i ∧ e.kind = k

theorem Entry.named_iff (e : Entry) (i : Str) (k : RoundKind) : e.named i k = true ↔ e.string = i ∧ e.kind = k := by
  simp [Entry.named]

/-- An enqueue takes no entry away (R107, R109). -/
theorem enqueue_waits {s : State} {i : Str} {k : RoundKind} (h : s.waits i k) (n : Entry) : (s.enqueue n).waits i k := by
  obtain ⟨e, he, hn⟩ := h
  unfold State.enqueue State.waits
  split
  · rename_i old ho
    change ∃ x ∈ mergeQueue old n s.queue, _
    have hold := List.find?_some ho
    unfold mergeQueue
    split
    · by_cases hk : e.named n.string n.kind = true
      · refine ⟨old.merge n, (mem_joinQueue ..).mpr (.inl rfl), ?_⟩
        rw [← Entry.named_iff, Entry.merge_named, Entry.named_iff]
        rw [Entry.named_iff] at hold hk
        exact ⟨hold.1.trans (hk.1.symm.trans hn.1), hold.2.trans (hk.2.symm.trans hn.2)⟩
      · exact ⟨e, (mem_joinQueue ..).mpr (.inr (List.mem_filter.mpr ⟨he, by simpa using hk⟩)), hn⟩
    · refine ⟨_, List.mem_map_of_mem he, ?_⟩
      split
      · rw [← Entry.named_iff, Entry.merge_named, Entry.named_iff]
        exact hn
      · exact hn
  · exact ⟨e, (mem_joinQueue ..).mpr (.inr he), hn⟩

/-! ### Hand-offs of a string that holds no slot -/

theorem onSlotOf_unbound {s : State} {i : Str} (h : (s.control i).slot = none) (f : SlotId → State → State) :
    s.onSlotOf i f = s := by
  unfold State.onSlotOf
  rw [h]

/-- The hand-offs of a string that holds no slot: its DUE_SPREAD period, the marks and entries that join the queue. -/
structure State.Noted (i : Str) (s t : State) : Prop where
  eq : t = { s with strings := t.strings, queue := t.queue, marks := t.marks }
  control : ∀ j, t.control j = s.control j
  reading : ∀ j, t.reading j = s.reading j
  other : ∀ j, j ≠ i → t.charge j = s.charge j
  charge : (t.charge i).kept = (s.charge i).kept
  blank : s.charge i = {} → (s.reading i).spread = none → t.charge i = {}
  waits : ∀ j k, s.waits j k → t.waits j k

section
variable {i : Str} {s t u : State}

theorem State.Noted.refl (i : Str) (s : State) : s.Noted i s :=
  ⟨rfl, fun _ => rfl, fun _ => rfl, fun _ _ => rfl, rfl, fun h _ => h, fun _ _ h => h⟩

theorem State.Noted.trans (h : s.Noted i t) (k : t.Noted i u) : s.Noted i u where
  eq := by
    have h' := h.eq
    have k' := k.eq
    rw [h'] at k'
    exact k'
  control j := (k.control j).trans (h.control j)
  reading j := (k.reading j).trans (h.reading j)
  other j hj := (k.other j hj).trans (h.other j hj)
  charge := k.charge.trans h.charge
  blank hc hs := k.blank (h.blank hc hs) (by rw [h.reading]; exact hs)
  waits j x hx := k.waits j x (h.waits j x hx)

theorem noted_markScan (h : s.Noted i t) : s.Noted i t.markScan :=
  h.trans ⟨rfl, fun _ => rfl, fun _ => rfl, fun _ _ => rfl, rfl, fun h _ => h, fun _ _ h => h⟩

theorem noted_ite {c : Prop} [Decidable c] (h : s.Noted i t) (k : s.Noted i u) : s.Noted i (if c then t else u) := by
  split <;> assumption

theorem noted_judgeSpreadTimer (h : s.Noted i t) : s.Noted i (t.judgeSpreadTimer i) := by
  refine h.trans ?_
  have key : ∀ f : Charge → Charge, (∀ c, (f c).kept = c.kept) →
      (t.charge i = {} → (t.reading i).spread = none → f (t.charge i) = {}) → t.Noted i (t.modCharge i f) := fun f hf hb =>
    ⟨rfl, fun j => State.modCharge_control t i j f, fun j => State.modCharge_reading t i j f,
      fun j hj => State.modCharge_charge_ne t (Ne.symm hj) f, by rw [State.modCharge_charge]; exact hf _,
      fun hc hs => by rw [State.modCharge_charge]; exact hb hc hs, fun _ _ h => h⟩
  unfold State.judgeSpreadTimer
  split
  · rename_i hr
    refine key _ (fun _ => rfl) fun _ hs => ?_
    unfold State.spreadRuns at hr
    rw [hs] at hr
    simp at hr
  · exact key _ (fun _ => rfl) fun hc _ => by rw [hc]

theorem noted_enqueue (h : s.Noted i t) (e : Entry) : s.Noted i (t.enqueue e) := by
  refine h.trans ?_
  have hq : t.enqueue e = { t with queue := (t.enqueue e).queue, marks := (t.enqueue e).marks } := by
    unfold State.enqueue
    split <;> rfl
  have hs : (t.enqueue e).strings = t.strings := by rw [hq]
  have hstr : ∀ j, (t.enqueue e).str j = t.str j := fun j => by unfold State.str; rw [hs]
  refine ⟨?_, fun j => ?_, fun j => ?_, fun j _ => ?_, ?_, fun hc _ => ?_, fun j k h => enqueue_waits h e⟩
  · rw [hs]
    exact hq
  · unfold State.control; rw [hstr]
  · unfold State.reading; rw [hstr]
  · unfold State.charge; rw [hstr]
  · unfold State.charge; rw [hstr]
  · unfold State.charge at hc ⊢; rw [hstr]; exact hc

theorem noted_handDerived (hc : (s.control i).slot = none) (old : Reading) : s.Noted i (s.handDerived i old) := by
  have h1 : s.Noted i (s.handFreshCells i old (s.reading i)) := by
    unfold State.handFreshCells
    rw [onSlotOf_unbound (s := s.markScan) hc]
    exact noted_ite (.refl ..) (noted_markScan (.refl ..))
  have c1 : ((s.handFreshCells i old (s.reading i)).control i).slot = none := by rw [h1.control]; exact hc
  rw [handDerived_eq]
  generalize s.handFreshCells i old (s.reading i) = t at h1 c1
  have h2 : s.Noted i (t.handTs i old (s.reading i)) := by
    unfold State.handTs
    rw [onSlotOf_unbound (s := t.markScan) c1]
    exact noted_ite h1 (noted_markScan h1)
  have c2 : ((t.handTs i old (s.reading i)).control i).slot = none := by rw [h2.control]; exact hc
  generalize t.handTs i old (s.reading i) = u at h2 c2
  unfold State.handSpread
  rw [onSlotOf_unbound (by rw [judgeSpreadTimer_control]; exact c2)]
  exact noted_ite h2 (noted_judgeSpreadTimer h2)

theorem noted_handDry (h : s.Noted i t) (j : Str) (old : Reading) : s.Noted i (t.handDry j old) := by
  unfold State.handDry State.judgeWaterDue
  exact noted_ite h (noted_ite (noted_ite (noted_enqueue (noted_markScan h) _) (noted_markScan h)) (noted_markScan h))

end

/-! ### All strings -/

/-- The reading half with its derived values judged (R9, R14 to R16). -/
def State.derived (s : State) (i : Str) : Reading :=
  { s.reading i with
    freshCells := s.judgeFreshCells i, ts := s.judgeTs i, spread := s.judgeSpread i, dry := s.judgeDry i }

/-- The derived values of the strings in `done` are judged and handed on; no string holds a slot. -/
structure State.Rederived (done : Str → Prop) (s t : State) : Prop where
  eq : t = { s with strings := t.strings, queue := t.queue, marks := t.marks }
  control : ∀ j, t.control j = s.control j
  reading : ∀ j, (done j → t.reading j = s.derived j) ∧ (¬ done j → t.reading j = s.reading j)
  charge : ∀ j, (t.charge j).kept = (s.charge j).kept
  blank : ∀ j, s.charge j = {} → s.present j = false ∨ s.judgeSpread j = none → t.charge j = {}
  waits : ∀ j k, s.waits j k → t.waits j k

theorem State.Rederived.fixed {done : Str → Prop} {s t : State} (h : s.Rederived done t) :
    t.cells = s.cells ∧ t.images = s.images ∧ t.now = s.now := by
  have h' := h.eq
  rw [h']
  exact ⟨rfl, rfl, rfl⟩

/-- A string is judged and hands its values on (R13). -/
def State.rederiveOne (i : Str) (s : State) : State :=
  if s.present i then ((s.recompute i).handDerived i (s.reading i)).handDry i (s.reading i) else s

theorem recomputeAll_eq (s : State) : s.recomputeAll = (s.eachStr State.rederiveOne).recomputeBus := rfl

theorem rederived_one {done : Str → Prop} {s t : State} (hs : ∀ j, (s.control j).slot = none) (h : s.Rederived done t)
    (i : Str) : s.Rederived (fun j => done j ∨ (j = i ∧ s.present i = true)) (State.rederiveOne i t) := by
  obtain ⟨hc, hi, hn⟩ := h.fixed
  have hp : t.present i = s.present i := by unfold State.present State.cfg; rw [hi]
  unfold State.rederiveOne
  by_cases hpr : s.present i = true
  · rw [if_pos (hp.trans hpr)]
    have hcr : ∀ j, (t.recompute i).control j = t.control j := fun j => by unfold State.recompute; rw [State.modReading_control]
    have hchr : ∀ j, (t.recompute i).charge j = t.charge j := fun j => by unfold State.recompute; rw [State.modReading_charge]
    have hrd : (t.recompute i).reading i = s.derived i := by
      obtain ⟨j1, j2, j3, j4⟩ := State.judged_congr hc hi hn i
      rw [recompute_reading, j1, j2, j3, j4]
      by_cases hd : done i
      · rw [(h.reading i).1 hd]
        rfl
      · rw [(h.reading i).2 hd]
        rfl
    have k : (t.recompute i).Noted i (((t.recompute i).handDerived i (t.reading i)).handDry i (t.reading i)) :=
      noted_handDry (noted_handDerived (by rw [hcr, h.control]; exact hs i) _) ..
    have heq : t.recompute i = { s with strings := (t.recompute i).strings, queue := t.queue, marks := t.marks } := by
      have h' := h.eq
      rw [h']
      rfl
    refine ⟨?_, fun j => ?_, fun j => ⟨?_, fun hd => ?_⟩, fun j => ?_, fun j hb hsp => ?_, fun j x hx => k.waits j x (h.waits j x hx)⟩
    · have k' := k.eq
      rw [k', heq]
    · rw [k.control, hcr, h.control]
    · rintro (hd | ⟨rfl, -⟩)
      · rw [k.reading]
        by_cases hj : j = i
        · rw [hj, hrd]
        · unfold State.recompute
          rw [State.modReading_reading_ne t (Ne.symm hj), (h.reading j).1 hd]
      · rw [k.reading, hrd]
    · have hj : j ≠ i := fun e => hd (.inr ⟨e, hpr⟩)
      rw [k.reading]
      unfold State.recompute
      rw [State.modReading_reading_ne t (Ne.symm hj), (h.reading j).2 fun e => hd (.inl e)]
    · by_cases hj : j = i
      · rw [hj, k.charge, hchr, h.charge]
      · rw [k.other j hj, hchr, h.charge]
    · by_cases hj : j = i
      · rw [hj] at hb hsp ⊢
        have hsp' : s.judgeSpread i = none := hsp.resolve_left (by rw [hpr]; decide)
        exact k.blank ((hchr i).trans (h.blank i hb hsp)) (by rw [hrd]; exact hsp')
      · rw [k.other j hj, hchr, h.blank j hb hsp]
  · rw [if_neg (by rw [hp]; exact hpr)]
    exact ⟨h.eq, h.control, fun j => ⟨fun d => (h.reading j).1 (d.resolve_right fun e => hpr e.2), fun d => (h.reading j).2 fun e => d (.inl e)⟩,
      h.charge, h.blank, h.waits⟩

/-- Every present string is judged and hands its values on. -/
theorem rederived_each {s : State} (hs : ∀ j, (s.control j).slot = none) :
    s.Rederived (fun j => s.present j = true) (s.eachStr State.rederiveOne) := by
  have key : ∀ (l : List Str) (done : Str → Prop) (t : State), s.Rederived done t →
      s.Rederived (fun j => done j ∨ (j ∈ l ∧ s.present j = true)) (l.foldl (fun s i => State.rederiveOne i s) t) := by
    intro l
    induction l with
    | nil =>
      intro done t h
      have hiff : (fun j => done j ∨ (j ∈ ([] : List Str) ∧ s.present j = true)) = done := by funext j; simp
      rw [hiff]
      exact h
    | cons i l ih =>
      intro done t h
      have k := ih _ _ (rederived_one hs h i)
      have hiff : (fun j => (done j ∨ (j = i ∧ s.present i = true)) ∨ (j ∈ l ∧ s.present j = true))
          = fun j => done j ∨ (j ∈ i :: l ∧ s.present j = true) := by
        funext j
        rw [List.mem_cons]
        by_cases hj : j = i
        · rw [hj]; simp; tauto
        · simp [hj]
      rw [hiff] at k
      exact k
  have h := key allStrs (fun _ => False) s
    ⟨rfl, fun _ => rfl, fun _ => ⟨fun h => h.elim, fun _ => rfl⟩, fun _ => rfl, fun _ h _ => h, fun _ _ h => h⟩
  have hiff : (fun j => False ∨ (j ∈ allStrs ∧ s.present j = true)) = fun j => s.present j = true := by
    funext j; simp [mem_allStrs]
  rw [hiff] at h
  exact h

/-- Along the strings. -/
theorem eachStr_preserves {P : State → Prop} {f : Str → State → State} (hf : ∀ i s, P s → P (f i s)) {s : State} (h : P s) :
    P (s.eachStr f) := by
  have key : ∀ (l : List Str) (u : State), P u → P (l.foldl (fun s i => f i s) u) := by
    intro l
    induction l with
    | nil => exact fun u k => k
    | cons i l ih => exact fun u k => ih _ (hf i u k)
  exact key _ _ h

/-! ### Charges through a change of the bus voltage and of DISCHARGE -/

theorem State.RoundFrame.charges {i : Str} {m : Option SlotId} {s t : State} (h : State.RoundFrame i m s t)
    (hi : t.charge i = s.charge i) (j : Str) : t.charge j = s.charge j := by
  by_cases e : j = i
  · rw [e, hi]
  · unfold State.charge
    rw [h.str j e]

theorem changeVariant_charge (s : State) (i : Str) (v : Variant) : (s.changeVariant i v).charge i = s.charge i := by
  unfold State.changeVariant State.offAndConfirm
  dsimp only
  split
  · rw [toConfirm_charge, stringRect_charge, State.modControl_charge]
  · rw [stringRect_charge, State.modControl_charge]

theorem matchTakesBus_charge (s : State) (i j : Str) : (s.matchTakesBus i).charge j = s.charge j := by
  refine (frame_matchTakesBus s i none).charges ?_ j
  unfold State.matchTakesBus
  split
  · split
    · exact changeVariant_charge ..
    · rw [judgeWindow_charge]
      split
      · exact stringRect_charge ..
      · rfl
  · rfl

theorem causeInReturn_charge (s : State) (i : Str) (c : EndReason) : (s.causeInReturn i c).charge i = s.charge i := by
  unfold State.causeInReturn
  dsimp only
  split
  · split
    · exact changeVariant_charge ..
    · split
      · rfl
      · exact stringRect_charge ..
  · split
    · exact changeVariant_charge ..
    · rfl
  · split
    · unfold State.offAndConfirm
      rw [toConfirm_charge, stringRect_charge]
    · rfl
  · rfl

theorem endCause_charge {c : EndReason} (h : c ≠ .complete) (s : State) (i j : Str) : (s.endCause i c).charge j = s.charge j := by
  refine (frame_endCause s i c).charges ?_ j
  unfold State.endCause
  split
  · rw [endRound_charge, if_neg h]
  · rw [endRound_charge, if_neg h]
  · exact causeInReturn_charge ..
  · rfl

theorem recomputeBus_charge (s : State) (j : Str) : s.recomputeBus.charge j = s.charge j := by
  unfold State.recomputeBus State.handBus
  dsimp only
  split
  · rfl
  · exact eachStr_preserves (P := fun t => t.charge j = s.charge j) (fun i t k => (matchTakesBus_charge t i j).trans k) rfl

theorem notice_strings (s : State) (p : List Byte) : (s.notice p).strings = s.strings := by
  rw [notice_eq]

theorem charge_of_strings {s t : State} (h : t.strings = s.strings) (j : Str) : t.charge j = s.charge j := by
  unfold State.charge State.str
  rw [h]

theorem dischargeBegins_charge (s : State) (j : Str) : s.dischargeBegins.charge j = s.charge j := by
  have h0 : ({ s with discharge := true, holdoffEnd := none } : State).charge j = s.charge j := charge_of_strings rfl j
  unfold State.dischargeBegins State.noticeAlarm
  rw [charge_of_strings (notice_strings _ _) j, ← h0]
  generalize ({ s with discharge := true, holdoffEnd := none } : State) = u
  exact eachStr_preserves (P := fun t => t.charge j = u.charge j)
    (fun i t k => (endCause_charge (by decide) t i j).trans k) rfl

theorem rejudgeDischarge_charge (s : State) (j : Str) : s.rejudgeDischarge.charge j = s.charge j := by
  unfold State.rejudgeDischarge State.dischargeEnds
  split
  · rfl
  · split
    · exact dischargeBegins_charge ..
    · split <;> exact charge_of_strings rfl j

end Sys2Proof.Machine

/-! ## The records of the strings after a STRING image (R20, R41, R80) -/

namespace Sys2Proof.Machine

/-! ### Hand-offs that leave the queue -/

theorem stringRect_queue (s : State) (i : Str) (o : RectOrder) : (s.stringRect i o).queue = s.queue := by
  unfold State.stringRect
  split <;> rfl

theorem toConfirm_queue (s : State) (i : Str) : (s.toConfirm i).queue = s.queue := rfl

theorem judgeWindow_queue (s : State) (i : Str) : (s.judgeWindow i).queue = s.queue := by
  unfold State.judgeWindow
  split
  · exact toConfirm_queue ..
  · rfl

theorem offAndConfirm_queue (s : State) (i : Str) : (s.offAndConfirm i).queue = s.queue := by
  unfold State.offAndConfirm
  rw [toConfirm_queue, stringRect_queue]

theorem changeVariant_queue (s : State) (i : Str) (v : Variant) : (s.changeVariant i v).queue = s.queue := by
  unfold State.changeVariant
  dsimp only
  split
  · rw [offAndConfirm_queue]; rfl
  · rw [stringRect_queue]; rfl

theorem startReturn_queue (s : State) (i : Str) (v : Variant) (b : Bool) : (s.startReturn i v b).queue = s.queue := by
  unfold State.startReturn
  dsimp only
  split
  · rw [offAndConfirm_queue]; rfl
  · split
    · rw [toConfirm_queue, stringRect_queue]; rfl
    · rw [judgeWindow_queue]
      exact (stringRect_queue ..).trans rfl

theorem causeInReturn_queue (s : State) (i : Str) (c : EndReason) : (s.causeInReturn i c).queue = s.queue := by
  unfold State.causeInReturn
  dsimp only
  split
  · split
    · exact changeVariant_queue ..
    · split
      · rfl
      · exact stringRect_queue ..
  · split
    · exact changeVariant_queue ..
    · rfl
  · split
    · exact offAndConfirm_queue ..
    · rfl
  · rfl

/-- An end cause of a string that holds no slot leaves the queue (R100). -/
theorem endCause_queue {s : State} {i : Str} (h : (s.control i).slot = none) (c : EndReason) :
    (s.endCause i c).queue = s.queue := by
  have hend : (s.endRound i c).queue = s.queue := by
    have hs : (s.setEnd i c).stopSlotOf i = s.setEnd i c := by
      unfold State.stopSlotOf State.setEnd
      rw [State.modControl_control]
      dsimp only
      rw [h]
    unfold State.endRound
    dsimp only
    rw [startReturn_queue, hs]
    split
    · unfold State.completeEqualise State.setHoldoff
      split <;> rfl
    · unfold State.setHoldoff
      split <;> rfl
  unfold State.endCause
  split
  · exact hend
  · exact hend
  · exact causeInReturn_queue ..
  · rfl

/-- While no string holds a slot a change of DISCHARGE leaves the queue (R32, R33). -/
theorem rejudgeDischarge_unbound {s : State} (h : ∀ i, (s.control i).slot = none) :
    s.rejudgeDischarge.queue = s.queue := by
  unfold State.rejudgeDischarge State.dischargeEnds
  split
  · rfl
  · split
    · unfold State.dischargeBegins State.noticeAlarm
      rw [notice_queue]
      have h0 : ∀ i, (({ s with discharge := true, holdoffEnd := none } : State).control i).slot = none := h
      have hq : ({ s with discharge := true, holdoffEnd := none } : State).queue = s.queue := rfl
      rw [← hq]
      generalize ({ s with discharge := true, holdoffEnd := none } : State) = u at h0
      have hk := eachStr_preserves (P := fun t => (∀ i, (t.control i).slot = none) ∧ t.queue = u.queue)
        (f := fun i s => s.endCause i .discharge)
        (fun i t k => ⟨fun j => ((endCause_binding t i _ j).1).trans (k.1 j), (endCause_queue (k.1 i) _).trans k.2⟩) ⟨h0, rfl⟩
      exact hk.2
    · split <;> rfl

/-! ### The records of one string -/

theorem cellIx_eq_iff (i j : Str) (p q : Pos) : cellIx i p = cellIx j q ↔ i = j ∧ p = q := by
  constructor
  · intro h
    have h' : i.val * 24 + p.val = j.val * 24 + q.val := congrArg Fin.val h
    exact ⟨Fin.ext (by omega), Fin.ext (by omega)⟩
  · rintro ⟨rfl, rfl⟩
    rfl

/-- Cell records of a string, position by position. -/
theorem foldl_modCell (i : Str) (F : Pos → Cell → Cell) (l : List Pos) (hl : l.Nodup) : ∀ s : State,
    (l.foldl (fun s p => s.modCell (cellIx i p) (F p)) s)
        = { s with cells := (l.foldl (fun s p => s.modCell (cellIx i p) (F p)) s).cells }
      ∧ ∀ j q, (l.foldl (fun s p => s.modCell (cellIx i p) (F p)) s).cellAt j q
        = if j = i ∧ q ∈ l then F q (s.cellAt j q) else s.cellAt j q := by
  induction l with
  | nil => exact fun s => ⟨rfl, fun j q => by simp⟩
  | cons p l ih =>
    intro s
    obtain ⟨hp, hl'⟩ := List.nodup_cons.mp hl
    obtain ⟨h1, h2⟩ := ih hl' (s.modCell (cellIx i p) (F p))
    refine ⟨h1, fun j q => ?_⟩
    rw [List.foldl_cons, h2]
    have hcell : (s.modCell (cellIx i p) (F p)).cellAt j q = if j = i ∧ q = p then F q (s.cellAt j q) else s.cellAt j q := by
      unfold State.cellAt
      split
      · rename_i h
        rw [h.1, h.2, State.modCell_cell]
      · rename_i h
        exact State.modCell_cell_ne s (fun e => h (by rw [cellIx_eq_iff] at e; exact ⟨e.1.symm, e.2.symm⟩)) _
    rw [hcell]
    by_cases hj : j = i
    · by_cases hq : q = p
      · rw [hq]
        simp [hj, hp]
      · simp [hj, hq]
    · simp [hj]

/-- The record of a string, committed (R20, R41, R80). -/
def StringRec.committed (o n : StringCfg) (r : StringRec) : StringRec :=
  ⟨commitReading o n r.reading, commitCharge o n r.charge, commitControl o n r.control⟩

/-- The records of one string after a STRING image. -/
theorem commitString_records (s : State) (old : List Byte) (i : Str) :
    s.commitString old i = { s with cells := (s.commitString old i).cells, strings := (s.commitString old i).strings }
      ∧ (∀ j, (s.commitString old i).str j
        = if j = i then (s.str j).committed (StringCfg.ofImage old i) (s.cfg i) else s.str j)
      ∧ ∀ j q, (s.commitString old i).cellAt j q
        = if j = i then commitCell (StringCfg.ofImage old i) (s.cfg i) q (s.cellAt j q) else s.cellAt j q := by
  obtain ⟨h1, h2⟩ := foldl_modCell i (fun p => commitCell (StringCfg.ofImage old i) (s.cfg i) p) allPos (by decide) s
  unfold State.commitString
  dsimp only
  generalize (allPos.foldl (fun s' p => s'.modCell (cellIx i p) (commitCell (StringCfg.ofImage old i) (s.cfg i) p)) s) = t at h1 h2
  have hstr : ∀ j, t.str j = s.str j := fun j => by rw [h1]; rfl
  refine ⟨by rw [h1]; rfl, fun j => ?_, fun j q => ?_⟩
  · by_cases hj : j = i
    · rw [hj, if_pos rfl, State.modStr_str, hstr]
      rfl
    · rw [if_neg hj, State.modStr_str_ne t (Ne.symm hj), hstr]
  · change t.cellAt j q = _
    rw [h2]
    simp [mem_allPos]

/-- The records of every string after a STRING image: each is committed once. -/
theorem commitAll_records (s : State) (old : List Byte) (t : State) (ht : t = s.eachStr fun i s => s.commitString old i) :
    t = { s with cells := t.cells, strings := t.strings }
      ∧ (∀ j, t.str j = (s.str j).committed (StringCfg.ofImage old j) (s.cfg j))
      ∧ ∀ j q, t.cellAt j q = commitCell (StringCfg.ofImage old j) (s.cfg j) q (s.cellAt j q) := by
  have key : ∀ (l : List Str), l.Nodup → ∀ u : State, u.images = s.images → ∀ v : State,
      v = l.foldl (fun s i => s.commitString old i) u →
      v = { u with cells := v.cells, strings := v.strings }
        ∧ (∀ j, v.str j = if j ∈ l then (u.str j).committed (StringCfg.ofImage old j) (s.cfg j) else u.str j)
        ∧ ∀ j q, v.cellAt j q
          = if j ∈ l then commitCell (StringCfg.ofImage old j) (s.cfg j) q (u.cellAt j q) else u.cellAt j q := by
    intro l
    induction l with
    | nil =>
      rintro - u - v rfl
      exact ⟨rfl, fun j => by simp, fun j q => by simp⟩
    | cons i l ih =>
      intro hl u hu v hv
      obtain ⟨hi, hl'⟩ := List.nodup_cons.mp hl
      obtain ⟨c1, c2, c3⟩ := commitString_records u old i
      have hcfg : u.cfg i = s.cfg i := by unfold State.cfg; rw [hu]
      rw [hcfg] at c2 c3
      rw [List.foldl_cons] at hv
      generalize u.commitString old i = x at c1 c2 c3 hv
      obtain ⟨k1, k2, k3⟩ := ih hl' x (by rw [c1]; exact hu) v hv
      refine ⟨by rw [k1, c1], fun j => ?_, fun j q => ?_⟩
      · rw [k2, c2]
        by_cases hj : j = i
        · simp [hj, hi]
        · simp [hj]
      · rw [k3, c3]
        by_cases hj : j = i
        · simp [hj, hi]
        · simp [hj]
  obtain ⟨k1, k2, k3⟩ := key allStrs (by decide) s rfl t ht
  exact ⟨k1, fun j => by rw [k2, if_pos (mem_allStrs j)], fun j q => by rw [k3, if_pos (mem_allStrs j)]⟩

/-! ### The recomputation over all strings -/

/-- What the recomputation of every string's values leaves, while no string holds a slot (R13, R20). -/
structure State.Recomputed (s t : State) : Prop where
  fixed : t.now = s.now ∧ t.images = s.images ∧ t.water = s.water ∧ t.cells = s.cells ∧ t.mgmt = s.mgmt
  busVoltage : t.busVoltage = t.judgeBusVoltage
  reading : ∀ j, (s.present j = true → t.reading j = s.derived j) ∧ (s.present j = false → t.reading j = s.reading j)
  charge : ∀ j, (t.charge j).kept = (s.charge j).kept
  blank : ∀ j, s.charge j = {} → s.present j = false ∨ s.judgeSpread j = none → t.charge j = {}
  control : ∀ j, (t.control j).kept = (s.control j).kept ∧ (s.control j).state.moves (t.control j).state
  waits : ∀ j k, s.waits j k → t.waits j k

/-- A hand-off on top of the recomputation. -/
theorem State.Recomputed.hand {s t u : State} (h : s.Recomputed t) (k : State.Handed true true t u) (hc : u.cells = t.cells)
    (hm : u.mgmt = t.mgmt)
    (hb : ∀ j, t.charge j = {} → s.present j = false ∨ (t.reading j).spread = none → u.charge j = {})
    (hw : u.queue = t.queue) : s.Recomputed u := by
  obtain ⟨h1, h2, h3, h4, h5⟩ := h.fixed
  refine ⟨⟨k.now.trans h1, k.images.trans h2, k.water.trans h3, hc.trans h4, hm.trans h5⟩, ?_, fun j => ⟨fun p => ?_, fun p => ?_⟩,
    fun j => (k.charge j).trans (h.charge j), fun j hj hs => hb j (h.blank j hj hs) ?_, fun j => ?_, fun j x hx => ?_⟩
  · rw [k.busVoltage, k.judgeBusVoltage, h.busVoltage]
  · rw [k.reading, (h.reading j).1 p]
  · rw [k.reading, (h.reading j).2 p]
  · cases hp : s.present j with
    | false => exact .inl rfl
    | true =>
      rw [(h.reading j).1 hp]
      exact .inr (hs.resolve_left (by rw [hp]; decide))
  · exact ⟨(k.control j).1.trans (h.control j).1, StringState.moves_trans (h.control j).2 (k.control j).2⟩
  · unfold State.waits
    rw [hw]
    exact h.waits j x hx

theorem recomputed_recomputeAll {s : State} (hs : ∀ j, (s.control j).slot = none) : s.Recomputed s.recomputeAll := by
  have h := rederived_each hs
  rw [recomputeAll_eq]
  generalize s.eachStr State.rederiveOne = t at h
  have heq := h.eq
  have k := handed_recomputeBus (ends := false) (joins := false) t
  obtain ⟨kq, -, kst⟩ := k.calm rfl
  have e := evolves_recomputeBus (wet := false) (com := false) (.refl t)
  obtain ⟨-, em, -⟩ := e.images rfl
  have hst : ∀ j, t.present j = s.present j := fun j => by rw [heq]; rfl
  refine ⟨⟨k.now.trans (by rw [heq]), k.images.trans (by rw [heq]), k.water.trans (by rw [heq]), (e.dry rfl).trans (by rw [heq]),
    em.trans (by rw [heq])⟩, k.busVoltage.trans k.judgeBusVoltage.symm, fun j => ⟨fun p => ?_, fun p => ?_⟩,
    fun j => ?_, fun j hj hp => ?_, fun j => ⟨?_, .inl ?_⟩, fun j x hx => ?_⟩
  · exact (k.reading j).trans ((h.reading j).1 p)
  · exact (k.reading j).trans ((h.reading j).2 (by rw [p]; decide))
  · rw [recomputeBus_charge, h.charge]
  · rw [recomputeBus_charge, h.blank j hj hp]
  · exact (k.control j).1.trans (congrArg Control.kept (h.control j))
  · exact (kst j).trans (congrArg Control.state (h.control j))
  · obtain ⟨y, hy, hn⟩ := h.waits j x hx
    refine ⟨y, ?_, hn⟩
    rw [kq]
    exact hy

/-- The DUE_SPREAD period of a string judged again. -/
theorem recomputed_spread {s t : State} (h : s.Recomputed t) (i : Str) :
    s.Recomputed (if t.present i = true then t.judgeSpreadTimer i else t) := by
  obtain ⟨-, h2, -, -, -⟩ := h.fixed
  split
  · rename_i hp
    have hpres : s.present i = true := by
      rw [← hp]
      unfold State.present State.cfg
      rw [h2]
    have hcells : (t.judgeSpreadTimer i).cells = t.cells ∧ (t.judgeSpreadTimer i).mgmt = t.mgmt
        ∧ (t.judgeSpreadTimer i).queue = t.queue := by
      unfold State.judgeSpreadTimer
      split <;> exact ⟨rfl, rfl, rfl⟩
    obtain ⟨c1, c2, c3⟩ := hcells
    refine h.hand (handed_judgeSpreadTimer (.refl t) i) c1 c2 (fun j hj hs => ?_) c3
    have k := noted_judgeSpreadTimer (.refl i t)
    by_cases hji : j = i
    · rw [hji] at hj hs ⊢
      exact k.blank hj (hs.resolve_left (by rw [hpres]; decide))
    · rw [k.other j hji, hj]
  · exact h

theorem State.Recomputed.unbound {s t : State} (h : s.Recomputed t) (hs : ∀ j, (s.control j).slot = none) (j : Str) :
    (t.control j).slot = none :=
  (congrArg (·.1) (h.control j).1).trans (hs j)

theorem recomputed_rejudge {s t : State} (h : s.Recomputed t) (hs : ∀ j, (s.control j).slot = none) :
    s.Recomputed t.rejudgeDischarge := by
  have e := evolves_rejudgeDischarge (wet := false) (com := false) (.refl t)
  obtain ⟨-, em, -⟩ := e.images rfl
  exact h.hand (handed_rejudgeDischarge (.refl t)) (e.dry rfl) em
    (fun j hj _ => (rejudgeDischarge_charge t j).trans hj) (rejudgeDischarge_unbound (h.unbound hs))

/-- The records of the strings before the removal of their entries at a STRING image (R20, R35, R41, R80). -/
def State.recommitted (s : State) (old : List Byte) : State :=
  ((s.eachStr fun i s => s.commitString old i).recomputeAll.eachStr fun i s =>
    if s.present i then s.judgeSpreadTimer i else s).rejudgeDischarge

theorem stringsApplied_eq (s : State) (old : List Byte) : s.stringsApplied old = (s.recommitted old).removeAtCommit
    (fun e => !(s.recommitted old).present e.string)
    (fun e => e.kind == .water && !((s.recommitted old).cfg e.string).hasManifold) := rfl

theorem recomputed_recommitted {s t : State} {old : List Byte} (ht : t = s.eachStr fun i s => s.commitString old i)
    (hs : ∀ j, (t.control j).slot = none) : t.Recomputed (s.recommitted old) := by
  unfold State.recommitted
  rw [← ht]
  refine recomputed_rejudge ?_ hs
  exact eachStr_preserves (P := fun u => t.Recomputed u) (fun i u h => recomputed_spread h i) (recomputed_recomputeAll hs)

end Sys2Proof.Machine

/-! ## The records after a LIMITS image (R13, R139, R148, R151, R168) -/

namespace Sys2Proof.Machine

/-! ### The silence reviewed -/

/-- The allowance stands, and window counts of 0 stay so. -/
def State.QuotaKept (s t : State) : Prop :=
  t.site.allowance = s.site.allowance ∧ (s.site.lowWindows = 0 → t.site.lowWindows = 0)
    ∧ (s.site.okWindows = 0 → t.site.okWindows = 0)

section
variable {s t u : State}

theorem State.QuotaKept.trans (h : s.QuotaKept t) (k : t.QuotaKept u) : s.QuotaKept u := by
  obtain ⟨h1, h2, h3⟩ := h
  obtain ⟨k1, k2, k3⟩ := k
  exact ⟨k1.trans h1, fun e => k2 (h2 e), fun e => k3 (h3 e)⟩

theorem quota_of_site (h : t.site = s.site) : s.QuotaKept t := by
  unfold State.QuotaKept
  rw [h]
  exact ⟨rfl, id, id⟩

theorem quota_ite {c : Prop} [Decidable c] (h : s.QuotaKept t) (k : s.QuotaKept u) : s.QuotaKept (if c then t else u) := by
  split <;> assumption

theorem quota_modSlot (s : State) (sl : SlotId) (f : SlotRec → SlotRec) : s.QuotaKept (s.modSlot sl f) :=
  quota_of_site (by simp)

theorem quota_followSite (s : State) : s.QuotaKept s.followSite := by
  refine ⟨rfl, fun h => ?_, fun h => ?_⟩
  · change (if _ then s.site.lowWindows else 0) = 0
    rw [h, ite_self]
  · change (if _ then s.site.okWindows else 0) = 0
    rw [h, ite_self]

theorem quota_genRequest (s : State) : s.QuotaKept s.genRequest := by
  unfold State.genRequest State.genPulse
  split
  · dsimp only
    split <;> exact ⟨rfl, id, id⟩
  · exact quota_of_site rfl

theorem quota_slotOrder (s : State) (sl : SlotId) (o : RectOrder) : s.QuotaKept (s.slotOrder sl o) := by
  unfold State.slotOrder
  exact quota_ite (quota_of_site rfl) (quota_modSlot s sl _)

theorem quota_endCause (s : State) (i : Str) (c : EndReason) : s.QuotaKept (s.endCause i c) :=
  quota_of_site (frame_endCause s i c).site

theorem quota_slotEnds (s : State) (sl : SlotId) (c : EndReason) : s.QuotaKept (s.slotEnds sl c) := by
  unfold State.slotEnds
  split
  · exact quota_endCause ..
  · exact quota_of_site rfl

theorem quota_judgeReasons (s : State) (sl : SlotId) : s.QuotaKept (s.judgeReasons sl) := by
  unfold State.judgeReasons
  exact quota_ite ((quota_modSlot s sl _).trans (quota_genRequest _)) (quota_modSlot s sl _)

theorem quota_judgeCriterion (s : State) (sl : SlotId) : s.QuotaKept (s.judgeCriterion sl) := by
  unfold State.judgeCriterion
  split
  · split
    · exact quota_ite (quota_modSlot s sl _) (quota_modSlot s sl _)
    · exact quota_of_site rfl
  · exact quota_of_site rfl

theorem quota_suspend (s : State) (sl : SlotId) (back : ResumeState) (o : RectOrder) : s.QuotaKept (s.suspend sl back o) := by
  have h := (quota_modSlot s sl fun r =>
    { r with entryState := some .suspended, resumeState := some back, pendingOrder := some o }).trans (quota_slotOrder _ sl .off)
  unfold State.suspend
  exact quota_ite (h.trans (quota_slotEnds ..)) h

theorem quota_resume (s : State) (sl : SlotId) : s.QuotaKept (s.resume sl) := by
  unfold State.resume
  split
  · exact quota_of_site rfl
  · exact (((quota_modSlot s sl _).trans (quota_slotOrder ..)).trans (quota_judgeCriterion ..)).trans (quota_followSite _)

theorem quota_reviewReasons (s : State) (sl : SlotId) : s.QuotaKept (s.reviewReasons sl) := by
  have hs : ∀ v : State, v.QuotaKept v := fun _ => quota_of_site rfl
  unfold State.reviewReasons
  refine quota_ite ((quota_judgeReasons s sl).trans ?_) (hs s)
  generalize s.judgeReasons sl = t
  unfold State.actOnReasons
  split
  · exact quota_ite (quota_suspend ..) (hs t)
  · exact quota_ite (quota_suspend ..) (hs t)
  · exact quota_ite (hs t) (quota_resume ..)
  · exact hs t

/-- What a review of the silence leaves while the Watering Unit is IDLE (R168 to R170). -/
structure State.Reviewed (s t : State) : Prop where
  handed : State.Handed true true s t
  cells : t.cells = s.cells
  mgmt : t.mgmt = s.mgmt
  quota : s.QuotaKept t

theorem State.Reviewed.trans (h : s.Reviewed t) (k : t.Reviewed u) : s.Reviewed u :=
  ⟨h.handed.trans k.handed, k.cells.trans h.cells, k.mgmt.trans h.mgmt, h.quota.trans k.quota⟩

theorem State.Reviewed.refl (s : State) : s.Reviewed s := ⟨.refl s, rfl, rfl, quota_of_site rfl⟩

theorem reviewed_ite {c : Prop} [Decidable c] (h : s.Reviewed t) (k : s.Reviewed u) : s.Reviewed (if c then t else u) := by
  split <;> assumption

theorem reviewed_modRing (s : State) (f : Ring → Ring) : s.Reviewed (s.modRing f) :=
  ⟨handed_modRing (.refl s) f, rfl, rfl, quota_of_site rfl⟩

theorem reviewed_endCause (s : State) (i : Str) : s.Reviewed (s.endCause i .blind) :=
  ⟨handed_endCause (.refl s) i .blind rfl (by decide), (frame_endCause s i .blind).cells, (frame_endCause s i .blind).mgmt,
    quota_endCause ..⟩

theorem reviewed_reviewReasons (s : State) (sl : SlotId) : s.Reviewed (s.reviewReasons sl) := by
  have e := evolves_reviewReasons (wet := false) (com := false) (.refl s) sl
  obtain ⟨-, em, -⟩ := e.images rfl
  exact ⟨handed_reviewReasons (.refl s) sl, e.dry rfl, em, quota_reviewReasons ..⟩

theorem reviewed_eachStr (s : State) {f : Str → State → State} (hf : ∀ i v, State.Reviewed v (f i v)) :
    s.Reviewed (s.eachStr f) :=
  eachStr_preserves (P := fun t => s.Reviewed t) (fun i t k => k.trans (hf i t)) (.refl s)

theorem reviewed_eachSlot (s : State) : s.Reviewed (s.eachSlot fun sl s => s.reviewReasons sl) :=
  (reviewed_reviewReasons s .A).trans (reviewed_reviewReasons _ .B)

theorem reviewed_notice (s : State) (p : List Byte) : s.Reviewed (s.notice p) := by
  refine ⟨handed_notice (.refl s) p, ?_, ?_, quota_of_site ?_⟩ <;> rw [notice_eq]

theorem reviewed_blindOrders (s : State) : s.Reviewed s.blindOrders := by
  have h : s.Reviewed s.safeOrders := by
    refine reviewed_eachStr s fun i v => ?_
    have ho : ∀ (x : State) (f : Frame), x.Reviewed (x.handOrder f) := fun x f =>
      ⟨handed_handOrder (.refl x) f, rfl, rfl, quota_of_site rfl⟩
    split
    · exact reviewed_ite ((ho v _).trans (ho _ _)) (.refl v)
    · exact .refl v
  exact h.trans (reviewed_modRing _ _)

theorem reviewed_goBlind (h : s.water.state = .idle) : s.Reviewed s.goBlind := by
  have h1 := (reviewed_modRing s fun r => { r with sight := .blind }).trans (reviewed_eachStr _ fun i v => reviewed_endCause v i)
  unfold State.goBlind
  dsimp only
  generalize (s.modRing fun r => { r with sight := .blind }).eachStr (fun i s => s.endCause i .blind) = t at h1
  have hw : t.endWateringEarly .blind = t := by
    unfold State.endWateringEarly
    rw [h1.handed.water, h]
    split <;> rfl
  rw [hw]
  have h2 : s.Reviewed (if s.ring.sight = .seeing then t.eachSlot fun sl s => s.reviewReasons sl else t) :=
    reviewed_ite (h1.trans (reviewed_eachSlot t)) h1
  generalize (if s.ring.sight = .seeing then t.eachSlot fun sl s => s.reviewReasons sl else t) = v at h2
  have h3 : s.Reviewed (v.noticeAlarm .blind) := h2.trans (reviewed_notice v _)
  exact reviewed_ite (h3.trans (reviewed_blindOrders _)) h3

theorem reviewed_reviewSilence (h : s.water.state = .idle) : s.Reviewed s.reviewSilence := by
  unfold State.reviewSilence
  exact reviewed_ite (reviewed_goBlind h)
    (reviewed_ite ((reviewed_modRing s _).trans (reviewed_eachSlot _)) (.refl s))

end

/-! ### New expiries (R13) -/

/-- The expiries moved to the stale_s of now. -/
def State.reExpired (s : State) : State :=
  { s with
    cells := mapVector (s.reExpireCell s.staleMs) s.cells
    strings := mapVector (fun (r : StringRec) =>
      { r with reading :=
          { r.reading with tvExpiry := s.reExpire s.staleMs r.reading.lastTV r.reading.tvExpiry } }) s.strings }

theorem staleChanged_eq (s : State) (before : Nat) :
    s.staleChanged before = if s.staleMs = before then s else s.reExpired.recomputeAll := rfl

theorem reExpired_records (s : State) : (∀ i, s.reExpired.cell i = s.reExpireCell s.staleMs (s.cell i))
    ∧ (∀ i, s.reExpired.reading i
      = { s.reading i with tvExpiry := s.reExpire s.staleMs (s.reading i).lastTV (s.reading i).tvExpiry })
    ∧ (∀ i, s.reExpired.control i = s.control i) ∧ s.reExpired.images = s.images ∧ s.reExpired.now = s.now
    ∧ s.reExpired.water = s.water ∧ s.reExpired.site = s.site ∧ s.reExpired.mgmt = s.mgmt := by
  have hstr : ∀ i, s.reExpired.str i = { s.str i with reading :=
      { s.reading i with tvExpiry := s.reExpire s.staleMs (s.reading i).lastTV (s.reading i).tvExpiry } } := fun i =>
    mapVector_get ..
  refine ⟨fun i => mapVector_get .., fun i => ?_, fun i => ?_, rfl, rfl, rfl, rfl, rfl⟩
  · unfold State.reading at hstr ⊢
    rw [hstr]
  · unfold State.control
    rw [hstr]

theorem recomputeAll_site {s : State} (hs : ∀ j, (s.control j).slot = none) : s.recomputeAll.site = s.site := by
  have h := (rederived_each hs).eq
  have hbus : ∀ u : State, u.recomputeBus.site = u.site := by
    intro u
    unfold State.recomputeBus State.handBus
    dsimp only
    split
    · rfl
    · exact eachStr_preserves (P := fun t => t.site = u.site) (fun i t k => (frame_matchTakesBus t i none).site.trans k) rfl
  rw [recomputeAll_eq, hbus, h]

/-- A moved stale_s (R13): nothing moves with the value of before; otherwise every value takes its new expiry. -/
theorem staleChanged_record {s : State} (hs : ∀ j, (s.control j).slot = none) (before : Nat) :
    (s.staleChanged before).images = s.images ∧ (s.staleChanged before).mgmt = s.mgmt
      ∧ (s.staleChanged before).water = s.water ∧ (s.staleChanged before).site = s.site
      ∧ (s.staleMs = before → s.staleChanged before = s)
      ∧ (s.staleMs ≠ before → s.reExpired.Recomputed (s.staleChanged before)) := by
  rw [staleChanged_eq]
  split
  · rename_i h
    exact ⟨rfl, rfl, rfl, rfl, fun _ => rfl, fun k => absurd h k⟩
  · rename_i h
    obtain ⟨-, -, h3, h4, -, h6, h7, h8⟩ := reExpired_records s
    have hu : ∀ j, (s.reExpired.control j).slot = none := fun j => by rw [h3]; exact hs j
    have k := recomputed_recomputeAll hu
    obtain ⟨-, k2, k3, -, k5⟩ := k.fixed
    exact ⟨k2.trans h4, k5.trans h8, k3.trans h6, (recomputeAll_site hu).trans h7, fun e => absurd e h, fun _ => k⟩

/-! ### The LIMITS image -/

/-- The state before the silence is reviewed. -/
def State.limitsSet (s : State) (before : Nat) : State :=
  let s := s.staleChanged before
  let s := s.setReservoir (s.reserveClamp (min s.water.reservoir s.lim.reservoirCapacityMl))
  s.modSite fun t =>
    { t with
      allowance := s.lim.allowanceMin, lowWindows := 0, okWindows := 0
      window := if t.measuring then some ⟨s.now, 0⟩ else none }

theorem limitsApplied_eq (s : State) (before : Nat) : s.limitsApplied before = (s.limitsSet before).reviewSilence := rfl

theorem setReservoir_eq (s : State) (ml : Nat) :
    s.setReservoir ml = { s with water := { s.water with reservoir := ml }, marks := (s.setReservoir ml).marks } := by
  unfold State.setReservoir
  dsimp only
  split <;> rfl

theorem limitsSet_eq (s : State) (before : Nat) : s.limitsSet before = { s.staleChanged before with
    water := { (s.staleChanged before).water with
      reservoir := ((s.staleChanged before).reserveClamp
        (min (s.staleChanged before).water.reservoir (s.staleChanged before).lim.reservoirCapacityMl)) }
    site := (s.limitsSet before).site, marks := (s.limitsSet before).marks } := by
  have h := setReservoir_eq (s.staleChanged before) ((s.staleChanged before).reserveClamp
      (min (s.staleChanged before).water.reservoir (s.staleChanged before).lim.reservoirCapacityMl))
  unfold State.limitsSet
  dsimp only
  rw [h]
  rfl

theorem limitsSet_site (s : State) (before : Nat) : (s.limitsSet before).site.allowance = (s.staleChanged before).lim.allowanceMin
    ∧ (s.limitsSet before).site.lowWindows = 0 ∧ (s.limitsSet before).site.okWindows = 0 := by
  refine ⟨?_, rfl, rfl⟩
  have h := setReservoir_eq (s.staleChanged before) ((s.staleChanged before).reserveClamp
      (min (s.staleChanged before).water.reservoir (s.staleChanged before).lim.reservoirCapacityMl))
  unfold State.limitsSet
  dsimp only
  rw [h]
  rfl

/-- What a LIMITS image leaves (R13, R139, R148, R151). -/
theorem limitsApplied_record {s : State} (hs : ∀ j, (s.control j).slot = none) (hw : s.water.state = .idle) (before : Nat) :
    (s.limitsApplied before).images = s.images
      ∧ ((s.limitsApplied before).site.allowance = s.lim.allowanceMin ∧ (s.limitsApplied before).site.lowWindows = 0
        ∧ (s.limitsApplied before).site.okWindows = 0)
      ∧ (s.limitsApplied before).water.reservoir = s.reserveClamp (min s.water.reservoir s.lim.reservoirCapacityMl)
      ∧ (s.limitsApplied before).cells = (s.staleChanged before).cells
      ∧ (∀ i, (s.limitsApplied before).reading i = (s.staleChanged before).reading i)
      ∧ (s.limitsApplied before).now = (s.staleChanged before).now
      ∧ ((s.staleChanged before).busVoltage = (s.staleChanged before).judgeBusVoltage →
        (s.limitsApplied before).busVoltage = (s.limitsApplied before).judgeBusVoltage) := by
  obtain ⟨himg, -, hwat, hsite, -⟩ := staleChanged_record hs before
  have heq := limitsSet_eq s before
  obtain ⟨a1, a2, a3⟩ := limitsSet_site s before
  rw [limitsApplied_eq]
  have hlim : (s.staleChanged before).lim = s.lim := by unfold State.lim; rw [himg]
  have hclamp : ∀ ml, (s.staleChanged before).reserveClamp ml = s.reserveClamp ml := fun ml => by
    unfold State.reserveClamp
    rw [hsite, hlim]
  rw [hlim] at a1 heq
  rw [hclamp, hwat] at heq
  generalize s.limitsSet before = c at heq a1 a2 a3
  generalize s.staleChanged before = a at heq himg
  have hcw : c.water = { s.water with reservoir := s.reserveClamp (min s.water.reservoir s.lim.reservoirCapacityMl) } := by
    rw [heq]
  have k := reviewed_reviewSilence (s := c) (by rw [hcw]; exact hw)
  obtain ⟨q1, q2, q3⟩ := k.quota
  have hread : ∀ i, c.reading i = a.reading i := fun i => by rw [heq]; rfl
  refine ⟨?_, ⟨q1.trans a1, q2 a2, q3 a3⟩, ?_, ?_, fun i => (k.handed.reading i).trans (hread i), ?_, fun hb => ?_⟩
  · rw [k.handed.images, heq, himg]
  · rw [k.handed.water, hcw]
  · rw [k.cells, heq]
  · rw [k.handed.now, heq]
  · rw [k.handed.busVoltage, k.handed.judgeBusVoltage]
    have : c.busVoltage = a.busVoltage ∧ c.judgeBusVoltage = a.judgeBusVoltage := by
      rw [heq]
      exact ⟨rfl, rfl⟩
    rw [this.1, this.2, hb]

end Sys2Proof.Machine

/-! ## The records that a STRING image leaves (R20, R41, R80, R112) -/

namespace Sys2Proof.Machine

/-! ### Derived values -/

theorem State.judgeDry_iff (s : State) (i : Str) :
    s.judgeDry i = true ↔ ∃ p : Pos, p.val < (s.cfg i).cells ∧ (s.cellAt i p).level = .dry := by
  simp [State.judgeDry, List.any_eq_true, State.mem_positions]

theorem derivedAt_congr {s t : State} {i : Str} (h : s.derivedAt i) (hr : t.reading i = s.reading i) (hc : t.cells = s.cells)
    (hi : t.images = s.images) (hn : t.now = s.now) : t.derivedAt i := by
  obtain ⟨h1, h2, h3, h4⟩ := h
  obtain ⟨j1, j2, j3, j4⟩ := State.judged_congr hc hi hn i
  unfold State.derivedAt
  rw [hr, j1, j2, j3, ← State.judgeDry_iff, j4, State.judgeDry_iff]
  exact ⟨h1, h2, h3, h4⟩

theorem State.Recomputed.derivedAt {s t : State} (h : s.Recomputed t) {i : Str} (hp : s.present i = true) : t.derivedAt i := by
  obtain ⟨h1, h2, -, h4, -⟩ := h.fixed
  obtain ⟨j1, j2, j3, j4⟩ := State.judged_congr h4 h2 h1 i
  unfold State.derivedAt
  rw [(h.reading i).1 hp, j1, j2, j3, ← State.judgeDry_iff, j4]
  exact ⟨rfl, rfl, rfl, Iff.rfl⟩

/-! ### The image in place -/

/-- The image stands in its table and the table is loaded (R181 step 1). -/
def State.imagePut (s : State) (t : TableId) (b : List Byte) : State :=
  { s with images := s.images.put t b }.modMgmt fun m => { m with loaded := m.loaded.add t }

/-- What the commit leaves of the strings: `s` before it, `z` with every string committed, its values judged (R20, R41, R80). -/
structure State.Restrung (s z : State) : Prop where
  committed : ∃ x : State, x.Recomputed z ∧ (∀ j, x.str j = (s.str j).committed (s.cfg j) (z.cfg j))
    ∧ (∀ j q, x.cellAt j q = commitCell (s.cfg j) (z.cfg j) q (s.cellAt j q)) ∧ x.queue = s.queue ∧ ∀ j, x.cfg j = z.cfg j
  lim : z.lim = s.lim
  ownAddress : z.ring.ownAddress = s.ring.ownAddress
  mode : z.mgmt.mode = s.mgmt.mode

theorem restrung_recommitted {s : State} (hs : ∀ j, (s.control j).slot = none) (b : List Byte) :
    s.Restrung ((s.imagePut .string b).recommitted s.images.string)
      ∧ ((s.imagePut .string b).recommitted s.images.string).images = s.images.put .string b := by
  generalize hx : (s.imagePut .string b).eachStr (fun i s' => s'.commitString s.images.string i) = x
  obtain ⟨c1, c2, c3⟩ := commitAll_records (s.imagePut .string b) s.images.string x hx.symm
  have hstr : ∀ j, x.str j = (s.str j).committed (s.cfg j) ((s.imagePut .string b).cfg j) := c2
  have hu : ∀ j, (x.control j).slot = none := by
    intro j
    unfold State.control
    rw [hstr]
    change (commitControl _ _ (s.control j)).slot = none
    unfold commitControl
    split
    · rfl
    · split
      · rfl
      · exact hs j
  have k := recomputed_recommitted hx.symm hu
  obtain ⟨-, k2, -, -, k5⟩ := k.fixed
  have hxi : x.images = s.images.put .string b := by rw [c1]; rfl
  have hzc : ∀ j, ((s.imagePut .string b).recommitted s.images.string).cfg j = (s.imagePut .string b).cfg j := fun j => by
    unfold State.cfg
    rw [k2, hxi]
    rfl
  have e : State.Evolves true false (s.imagePut .string b) ((s.imagePut .string b).recommitted s.images.string) := by
    refine evolves_rejudgeDischarge (evolves_eachStr (evolves_recomputeAll ?_) _ fun i u k => ?_)
    · exact evolves_eachStr (.refl _) _ fun i u k => evolves_commitString k _ i
    · exact evolves_ite (evolves_judgeSpreadTimer k i) k
  refine ⟨⟨⟨x, k, fun j => ?_, fun j q => ?_, by rw [c1]; rfl, fun j => ?_⟩, ?_, e.ownAddress, ?_⟩, k2.trans hxi⟩
  · rw [hstr, hzc]
  · rw [c3, hzc]
    rfl
  · rw [hzc]
    unfold State.cfg
    rw [hxi]
    rfl
  · unfold State.lim
    rw [k2, hxi]
    rfl
  · rw [k5, c1]
    rfl

/-! ### The fields of the records -/

theorem Charge.eq_of_kept {c d : Charge} (h : c.kept = d.kept) : c = { d with spreadTimer := c.spreadTimer } := by
  have := congrArg (fun x : Charge => { x with spreadTimer := c.spreadTimer }) h
  exact this

/-- The account of a string that stays (R41). -/
theorem commitCharge_stays {o n : StringCfg} (ho : o.present = true) (hn : n.present = true) (c : Charge) :
    commitCharge o n c = { c with
      tPrev := none, qBal := max (-((n.capacityAh * 3600 : Nat) : Int)) c.qBal
      floor := c.floor || decide (c.qBal < -((n.capacityAh * 3600 : Nat) : Int)) } := by
  unfold commitCharge StringCfg.capacityC
  rw [ho, hn]
  simp only [Bool.not_true, Bool.or_self, Bool.false_eq_true, if_false]
  split
  · rename_i h
    rw [max_eq_left h.le, decide_eq_true h, Bool.or_true]
  · rename_i h
    rw [max_eq_right (not_lt.mp h), decide_eq_false h, Bool.or_false]

/-- The cell record of a position of a present string (R20). -/
theorem commitCell_present {o n : StringCfg} (hn : n.present = true) (p : Pos) (c d : Cell) {moved : Bool}
    (hm : moved = (!o.present || o.cellBase != n.cellBase || o.cells != n.cells)) (hd : d = if moved = true then {} else c) :
    commitCell o n p c = if p.val < n.cells ∧ (moved = true ∨ o.probeMask ≠ n.probeMask) then
      { d with level := if n.hasProbe p = false then .noProbe else if d.level = .noProbe then .unknown else d.level } else d := by
  have hprobe : probeLevel (n.hasProbe p) d.level
      = if n.hasProbe p = false then .noProbe else if d.level = .noProbe then .unknown else d.level := by
    unfold probeLevel
    cases n.hasProbe p <;> rfl
  unfold commitCell
  rw [hn, ← hm, ← hprobe]
  simp only [Bool.not_true, Bool.false_eq_true, if_false]
  rw [← hd]
  by_cases hp : n.cells ≤ p.val
  · rw [if_pos hp, if_neg (by omega)]
  · rw [if_neg hp]
    by_cases hq : moved = true ∨ o.probeMask ≠ n.probeMask
    · rw [if_pos (by simpa using hq), if_pos ⟨by omega, hq⟩]
    · rw [if_neg (by simpa using hq), if_neg fun h => hq h.2]

/-- Cells of a string that is new hold no value (R20). -/
theorem commitCell_new {o n : StringCfg} (ho : o.present = false) (p : Pos) (c : Cell) : (commitCell o n p c).vExpiry = none := by
  unfold commitCell
  rw [ho]
  simp only [Bool.not_false, Bool.true_or, if_true]
  split
  · rfl
  · split <;> rfl

section
variable {s z : State}

theorem State.Restrung.absent (h : s.Restrung z) {i : Str} (hp : (z.cfg i).present = false) :
    (z.control i).state = .absent ∧ z.reading i = {} ∧ z.charge i = {} ∧ ∀ p, z.cellAt i p = {} := by
  obtain ⟨x, k, hstr, hcell, -, hcfg⟩ := h.committed
  have hx : x.present i = false := by unfold State.present; rw [hcfg, hp]
  have hr : x.reading i = {} := by
    unfold State.reading
    rw [hstr]
    change commitReading _ _ _ = _
    unfold commitReading
    rw [hp]
    rfl
  have hch : x.charge i = {} := by
    unfold State.charge
    rw [hstr]
    change commitCharge _ _ _ = _
    unfold commitCharge
    rw [hp]
    rfl
  have hco : (x.control i).state = .absent := by
    unfold State.control
    rw [hstr]
    change (commitControl _ _ _).state = _
    unfold commitControl
    rw [hp]
    rfl
  obtain ⟨-, -, -, k4, -⟩ := k.fixed
  refine ⟨?_, ((k.reading i).2 hx).trans hr, k.blank i hch (.inl hx), fun p => ?_⟩
  · rcases (k.control i).2 with e | ⟨e | e, -⟩
    · rw [e, hco]
    · rw [hco] at e; cases e
    · rw [hco] at e; cases e
  · have : z.cellAt i p = x.cellAt i p := by unfold State.cellAt State.cell; rw [k4]
    rw [this, hcell]
    unfold commitCell
    rw [hp]
    rfl

/-- A string that is new to the image (R41, R80). -/
theorem State.Restrung.new (h : s.Restrung z) {i : Str} (hp : (z.cfg i).present = true) (ho : (s.cfg i).present = false) :
    (z.control i).state = .onBus ∧ (z.control i).holdoffUntil = none ∧ z.charge i = {}
      ∧ (z.reading i).terminalV = none ∧ (z.reading i).lastPosition = none := by
  obtain ⟨x, k, hstr, hcell, -, hcfg⟩ := h.committed
  have hx : x.present i = true := by unfold State.present; rw [hcfg, hp]
  have hr : x.reading i = {} := by
    unfold State.reading
    rw [hstr]
    change commitReading _ _ _ = _
    unfold commitReading
    rw [ho, hp]
    rfl
  have hch : x.charge i = {} := by
    unfold State.charge
    rw [hstr]
    change commitCharge _ _ _ = _
    unfold commitCharge
    rw [ho, hp]
    rfl
  have hco : x.control i = { state := .onBus } := by
    unfold State.control
    rw [hstr]
    change commitControl _ _ _ = _
    unfold commitControl
    rw [ho, hp]
    rfl
  have hspread : x.judgeSpread i = none := by
    refine State.judgeSpread_none fun p q v u hm => ?_
    obtain ⟨-, -, e, he, -⟩ := hm
    rw [hcell, commitCell_new ho] at he
    cases he
  have hkept := (k.control i).1
  rw [hco] at hkept
  refine ⟨?_, congrArg (·.2.2.2.2.1) hkept, k.blank i hch (.inr hspread), ?_, ?_⟩
  · have := (k.control i).2
    rw [hco] at this
    exact (StringState.moves_onBus this).mpr rfl
  · rw [(k.reading i).1 hx]
    exact congrArg Reading.terminalV hr
  · rw [(k.reading i).1 hx]
    exact congrArg Reading.lastPosition hr

/-- A string that is in both images (R20, R41). -/
theorem State.Restrung.stays (h : s.Restrung z) {i : Str} (hp : (z.cfg i).present = true) (ho : (s.cfg i).present = true) :
    ((z.control i).holdoffUntil = (s.control i).holdoffUntil ∧ (z.control i).lastWaterOutcome = (s.control i).lastWaterOutcome)
      ∧ (z.reading i).lastPosition
        = (if (s.cfg i).contactorAddr = (z.cfg i).contactorAddr then (s.reading i).lastPosition else none)
      ∧ (if (s.cfg i).shuntAddr = (z.cfg i).shuntAddr then (z.reading i).terminalV = (s.reading i).terminalV
          ∧ (z.reading i).lastTV = (s.reading i).lastTV ∧ (z.reading i).tvExpiry = (s.reading i).tvExpiry
        else (z.reading i).terminalV = none ∧ (z.reading i).lastTV = none ∧ (z.reading i).tvExpiry = none)
      ∧ z.charge i = { s.charge i with
          tPrev := none, spreadTimer := (z.charge i).spreadTimer
          qBal := max (-(((z.cfg i).capacityAh * 3600 : Nat) : Int)) (s.charge i).qBal
          floor := (s.charge i).floor
            || decide ((s.charge i).qBal < -(((z.cfg i).capacityAh * 3600 : Nat) : Int)) } := by
  obtain ⟨x, k, hstr, -, -, hcfg⟩ := h.committed
  have hx : x.present i = true := by unfold State.present; rw [hcfg, hp]
  have hr : x.reading i = commitReading (s.cfg i) (z.cfg i) (s.reading i) := by
    unfold State.reading
    rw [hstr]
    rfl
  have hch : x.charge i = commitCharge (s.cfg i) (z.cfg i) (s.charge i) := by
    unfold State.charge
    rw [hstr]
    rfl
  have hco : x.control i = s.control i := by
    unfold State.control
    rw [hstr]
    change commitControl _ _ _ = _
    unfold commitControl
    rw [ho, hp]
    rfl
  have hkept := (k.control i).1
  rw [hco] at hkept
  have hz : z.reading i = x.derived i := (k.reading i).1 hx
  have hread : ((x.derived i).lastPosition, (x.derived i).terminalV, (x.derived i).lastTV, (x.derived i).tvExpiry)
      = ((x.reading i).lastPosition, (x.reading i).terminalV, (x.reading i).lastTV, (x.reading i).tvExpiry) := rfl
  simp only [Prod.mk.injEq] at hread
  obtain ⟨r1, r2, r3, r4⟩ := hread
  refine ⟨⟨congrArg (·.2.2.2.2.1) hkept, congrArg (·.2.2.2.2.2) hkept⟩, ?_, ?_, ?_⟩
  · rw [hz, r1, hr]
    unfold commitReading
    rw [ho, hp]
    simp only [Bool.not_true, Bool.or_self, Bool.false_eq_true, if_false]
    split <;> split <;> rfl
  · rw [hz, r2, r3, r4, hr]
    unfold commitReading
    rw [ho, hp]
    simp only [Bool.not_true, Bool.or_self, Bool.false_eq_true, if_false]
    split
    · split <;> exact ⟨rfl, rfl, rfl⟩
    · split <;> exact ⟨rfl, rfl, rfl⟩
  · have hc := Charge.eq_of_kept (k.charge i)
    rw [hch, commitCharge_stays ho hp] at hc
    exact hc

end

end Sys2Proof.Machine

/-! ## The applying of an image (R181) -/

namespace Sys2Proof.Machine

/-- The first holding of LIMITS and STRING makes the mode ENGAGED (R182). -/
def Mgmt.applied (m : Mgmt) (t : TableId) : Mgmt :=
  let m := Mgmt.emptied { m with loaded := m.loaded.add t }
  if !m.engagedOnce && m.loaded.limits && m.loaded.string then { m with mode := .engaged, engagedOnce := true } else m

/-- What the blocks make of the image (R181 step 2). -/
def State.imageActed (s : State) (t : TableId) (b : List Byte) : State :=
  (s.imagePut t b).blocksAct t (s.images.get t) s.staleMs

/-- An applied image: what the blocks made of it, staging empty, the mode and the scan (R181). -/
theorem applyImage_eq (s : State) (t : TableId) (b : List Byte) : ∃ k : Marks, k.scan = true
    ∧ s.applyImage t b = { s.imageActed t b with mgmt := s.mgmt.applied t, marks := k } := by
  have hm : (s.imageActed t b).mgmt = { s.mgmt with loaded := s.mgmt.loaded.add t } :=
    ((s.imagePut t b).blocksAct_images t _ _).2
  have h : ∀ y : State, y.mgmt = { s.mgmt with loaded := s.mgmt.loaded.add t } → ∃ k : Marks, k.scan = true
      ∧ (let z := y.modMgmt Mgmt.emptied
        (if !z.mgmt.engagedOnce && z.mgmt.loaded.limits && z.mgmt.loaded.string then z.engage else z).markScan)
        = { y with mgmt := s.mgmt.applied t, marks := k } := by
    intro y hy
    refine ⟨{ y.marks with scan := true }, rfl, ?_⟩
    unfold Mgmt.applied State.modMgmt
    dsimp only
    rw [hy]
    split <;> rfl
  exact h _ hm

theorem applied_mgmt (m : Mgmt) (t : TableId) : (m.applied t).loaded = m.loaded.add t
    ∧ ((m.applied t).staging = .empty ∧ (m.applied t).stagedTable = none ∧ (m.applied t).stagedTotal = none
      ∧ (m.applied t).staged = [])
    ∧ ((m.applied t).clock = m.clock ∧ (m.applied t).cursor = m.cursor ∧ (m.applied t).held = m.held)
    ∧ (if m.engagedOnce = false ∧ (m.loaded.add t).limits = true ∧ (m.loaded.add t).string = true then
      (m.applied t).mode = .engaged ∧ (m.applied t).engagedOnce = true
      else (m.applied t).mode = m.mode ∧ (m.applied t).engagedOnce = m.engagedOnce) := by
  have hc : (!m.engagedOnce && (m.loaded.add t).limits && (m.loaded.add t).string) = true
      ↔ m.engagedOnce = false ∧ (m.loaded.add t).limits = true ∧ (m.loaded.add t).string = true := by
    simp [and_assoc]
  unfold Mgmt.applied Mgmt.emptied
  dsimp only
  by_cases h : m.engagedOnce = false ∧ (m.loaded.add t).limits = true ∧ (m.loaded.add t).string = true
  · rw [if_pos (hc.mpr h), if_pos h]
    exact ⟨rfl, ⟨rfl, rfl, rfl, rfl⟩, ⟨rfl, rfl, rfl⟩, rfl, rfl⟩
  · rw [if_neg fun k => h (hc.mp k), if_neg h]
    exact ⟨rfl, ⟨rfl, rfl, rfl, rfl⟩, ⟨rfl, rfl, rfl⟩, rfl, rfl⟩

/-! ### PHASE and RECIPE: the entries of empty recipes (R49, R50, R112) -/

theorem recipesJudged_eq (s : State) : s.recipesJudged
    = ({ s with queue := s.queue.filter fun e => !(e.kind == .equalise && s.recipeIsEmpty e.recipe) } : State).noticeAll
      (s.queue.filter fun e => e.kind == .equalise && s.recipeIsEmpty e.recipe) := by
  unfold State.recipesJudged
  rw [removeAtCommit_eq]
  simp only [Bool.false_or, Bool.not_false, Bool.true_and]

theorem recipesJudged_record (s : State) (gone : List Entry)
    (hg : gone = s.queue.filter fun e => e.kind == .equalise && s.recipeIsEmpty e.recipe) :
    s.recipesJudged = { s with queue := s.queue.filter fun e => !(e.kind == .equalise && s.recipeIsEmpty e.recipe)
                               ring := s.recipesJudged.ring }
      ∧ (s.mgmt.mode = .engaged → s.recipesJudged.ring.replies = s.ring.replies ++ (gone.map fun e =>
          ⟨s.lim.controllerAddr, s.ring.ownAddress, 0x32, [0x06, 1, BitVec.ofNat 8 e.string.val, 0]⟩).take
            (8 - s.ring.replies.length)
        ∧ s.recipesJudged.ring.noticeLost = (s.ring.noticeLost || decide (8 - s.ring.replies.length < gone.length)))
      ∧ (s.mgmt.mode = .transparent → s.recipesJudged.ring.replies = s.ring.replies) := by
  rw [recipesJudged_eq, ← hg]
  have hframe : gone.map s.droppedFrame = gone.map fun e =>
      ⟨s.lim.controllerAddr, s.ring.ownAddress, 0x32, [0x06, 1, BitVec.ofNat 8 e.string.val, 0]⟩ := by
    refine List.map_congr_left fun e he => ?_
    rw [hg, List.mem_filter, Bool.and_eq_true, beq_iff_eq] at he
    unfold State.droppedFrame
    rw [he.2.1]
    rfl
  generalize hv : ({ s with queue := s.queue.filter fun e => !(e.kind == .equalise && s.recipeIsEmpty e.recipe) } : State) = v
  have hvr : v.ring = s.ring ∧ v.mgmt = s.mgmt ∧ v.droppedFrame = s.droppedFrame := by rw [← hv]; exact ⟨rfl, rfl, rfl⟩
  obtain ⟨v1, v2, v3⟩ := hvr
  refine ⟨?_, fun h => ?_, fun h => ?_⟩
  · have k := noticeAll_eq gone v
    generalize v.noticeAll gone = w at k
    rw [k, ← hv]
  · obtain ⟨k1, k2⟩ := noticeAll_engaged gone v (by rw [v2]; exact h)
    rw [k1, k2, v1, v3, hframe]
    exact ⟨rfl, rfl⟩
  · rw [noticeAll_transparent gone v (by rw [v2]; exact h), v1]

/-! ### STRING: the entries of strings that left and of those without a manifold (R112) -/

/-- What a STRING image leaves of the queue and the notices. -/
theorem stringsApplied_record {s : State} (hs : ∀ j, (s.control j).slot = none) (b : List Byte) (y : State)
    (hy : y = (s.imagePut .string b).stringsApplied s.images.string) : ∃ z : State, s.Restrung z
      ∧ z.images = s.images.put .string b
      ∧ y = { z with queue := y.queue, ring := y.ring }
      ∧ (∀ e ∈ y.queue, (z.cfg e.string).present = true ∧ ((z.cfg e.string).manifoldAddr = 0xFF → e.kind ≠ .water))
      ∧ ∀ i, (z.cfg i).present = true → (z.cfg i).manifoldAddr = 0xFF → s.waits i .water → s.mgmt.mode = .engaged →
        y.ring.noticeLost = false →
        ⟨s.lim.controllerAddr, s.ring.ownAddress, 0x32, [0x06, 1, BitVec.ofNat 8 i.val, 1]⟩ ∈ y.ring.replies := by
  obtain ⟨hz, himg⟩ := restrung_recommitted hs b
  rw [stringsApplied_eq, removeAtCommit_eq] at hy
  generalize (s.imagePut .string b).recommitted s.images.string = z at hz himg hy
  generalize hl : (z.queue.filter fun e => !!z.present e.string && (e.kind == .water && !(z.cfg e.string).hasManifold)) = l at hy
  generalize hv : ({ z with queue := z.queue.filter fun e =>
    !(!z.present e.string || (e.kind == .water && !(z.cfg e.string).hasManifold)) } : State) = v at hy
  have hvz : v.mgmt = z.mgmt ∧ v.droppedFrame = z.droppedFrame := by rw [← hv]; exact ⟨rfl, rfl⟩
  have hman : ∀ i, (z.cfg i).hasManifold = false ↔ (z.cfg i).manifoldAddr = 0xFF := fun i => by
    simp [StringCfg.hasManifold]
  have hyq : y = { v with ring := y.ring } := by rw [hy]; exact noticeAll_eq l v
  refine ⟨z, hz, himg, ?_, fun e he => ?_, fun i hp hm hwait hmode hlost => ?_⟩
  · rw [hyq, ← hv]
  · have hq : y.queue = v.queue := by rw [hyq]
    rw [hq, ← hv, List.mem_filter] at he
    obtain ⟨-, he⟩ := he
    simp only [Bool.not_or, Bool.not_not, Bool.and_eq_true, Bool.not_eq_true', Bool.and_eq_false_iff] at he
    obtain ⟨h1, h2⟩ := he
    refine ⟨h1, fun hm hk => ?_⟩
    rw [hk, (hman e.string).mpr hm] at h2
    rcases h2 with h2 | h2 <;> cases h2
  · obtain ⟨x, k, -, -, hq, -⟩ := hz.committed
    have hx : x.waits i .water := by
      unfold State.waits
      rw [hq]
      exact hwait
    obtain ⟨e, he, hes, hek⟩ := k.waits i .water hx
    have hel : e ∈ l := by
      rw [← hl, List.mem_filter, hes, hek, (hman i).mpr hm]
      refine ⟨he, ?_⟩
      unfold State.present
      rw [hp]
      rfl
    obtain ⟨n1, n2⟩ := noticeAll_engaged l v (by rw [hvz.1, hz.mode]; exact hmode)
    rw [← hy] at n1 n2
    rw [hlost] at n2
    have hlen : ¬ (8 - v.ring.replies.length < l.length) := by
      intro hc
      rw [decide_eq_true hc, Bool.or_true] at n2
      cases n2
    rw [n1, List.take_of_length_le (by rw [List.length_map]; omega), hvz.2]
    refine List.mem_append_right _ (List.mem_map.mpr ⟨e, hel, ?_⟩)
    unfold State.droppedFrame
    rw [hz.lim, hz.ownAddress, hes, hek]
    rfl

end Sys2Proof.Machine

/-! ## The commit as a whole (R181) -/

namespace Sys2Proof.Machine

/-- A value's expiry after LIMITS moved stale_s (R13). -/
theorem reExpire_eq {s : State} {now after : Nat} {expiry : Option Nat → Option Nat → Option Nat} (hn : s.now = now)
    (h : ∀ arrival e, expiry arrival e = match arrival, e with
      | some t, some e => if now ≤ e ∧ now < t + after then some (t + after) else none
      | _, _ => none) (arrival e : Option Nat) : s.reExpire after arrival e = expiry arrival e := by
  rw [h]
  unfold State.reExpire State.fresh
  rw [hn]
  cases arrival with
  | none => cases e <;> rfl
  | some t =>
    cases e with
    | none => simp
    | some e => simp

/-- What the blocks make of a LIMITS image (R13, R139, R148, R151). -/
theorem imageActed_limits {s : State} (hs : ∀ j, (s.control j).slot = none) (hw : s.water.state = .idle) (b : List Byte)
    (y : State) (hy : y = s.imageActed .limits b) : y.images = s.images.put .limits b
      ∧ (y.site.allowance = y.lim.allowanceMin ∧ y.site.lowWindows = 0 ∧ y.site.okWindows = 0
        ∧ y.water.reservoir = min (min s.water.reservoir y.lim.reservoirCapacityMl)
          (if s.site.reslow.level = true then y.lim.reservoirReserveMl else s.water.reservoir))
      ∧ (s.staleMs = y.lim.staleS * 1000 → y.cells = s.cells ∧ ∀ i, y.reading i = s.reading i)
      ∧ (s.staleMs ≠ y.lim.staleS * 1000 → ∀ expiry : Option Nat → Option Nat → Option Nat,
        (∀ arrival e, expiry arrival e = match arrival, e with
          | some t, some e => if s.now ≤ e ∧ s.now < t + y.lim.staleS * 1000 then some (t + y.lim.staleS * 1000) else none
          | _, _ => none) →
        (∀ i, y.cell i = { s.cell i with
          vExpiry := expiry (s.cell i).lastV (s.cell i).vExpiry, tExpiry := expiry (s.cell i).lastT (s.cell i).tExpiry })
        ∧ (∀ i, (y.reading i).tvExpiry = expiry (s.reading i).lastTV (s.reading i).tvExpiry
          ∧ ((y.cfg i).present = true → y.derivedAt i))
        ∧ y.busVoltage = y.judgeBusVoltage) := by
  have hy' : y = (s.imagePut .limits b).limitsApplied s.staleMs := hy
  have hxs : ∀ j, ((s.imagePut .limits b).control j).slot = none := hs
  have hxw : (s.imagePut .limits b).water = s.water ∧ (s.imagePut .limits b).site = s.site
      ∧ (s.imagePut .limits b).cells = s.cells ∧ (s.imagePut .limits b).now = s.now
      ∧ (s.imagePut .limits b).images = s.images.put .limits b
      ∧ (s.imagePut .limits b).staleMs = (s.imagePut .limits b).lim.staleS * 1000
      ∧ (∀ i, (s.imagePut .limits b).cell i = s.cell i) ∧ ∀ i, (s.imagePut .limits b).reading i = s.reading i :=
    ⟨rfl, rfl, rfl, rfl, rfl, rfl, fun _ => rfl, fun _ => rfl⟩
  generalize s.imagePut .limits b = x at hy' hxs hxw
  obtain ⟨x1, x2, x3, x4, x5, x6, x7, x8⟩ := hxw
  obtain ⟨k1, k2, k3, k4, k5, k6, k7⟩ := limitsApplied_record hxs (by rw [x1]; exact hw) s.staleMs
  obtain ⟨c1, -, -, -, c5, c6⟩ := staleChanged_record hxs s.staleMs
  rw [← hy'] at k1 k2 k3 k4 k5 k6 k7
  have hlim : y.lim = x.lim := by unfold State.lim; rw [k1]
  rw [hlim]
  refine ⟨k1.trans x5, ⟨k2.1, k2.2.1, k2.2.2, ?_⟩, fun he => ?_, fun hne expiry hexp => ?_⟩
  · rw [k3, x1]
    unfold State.reserveClamp
    rw [x2]
    split <;> omega
  · have ha := c5 (x6.trans he.symm)
    rw [ha] at k4 k5
    exact ⟨k4.trans x3, fun i => (k5 i).trans (x8 i)⟩
  · have k := c6 fun e => hne (e.symm.trans x6)
    obtain ⟨r1, r2, -, r4, r5, -⟩ := reExpired_records x
    obtain ⟨f1, f2, -, f4, -⟩ := k.fixed
    have hexp' := reExpire_eq (s := x) x4 hexp
    refine ⟨fun i => ?_, fun i => ⟨?_, fun hp => ?_⟩, k7 k.busVoltage⟩
    · have hcell : y.cell i = x.reExpired.cell i := by
        unfold State.cell
        rw [k4, f4]
      rw [hcell, r1, x6, x7]
      unfold State.reExpireCell
      rw [hexp', hexp']
    · have htv : (y.reading i).tvExpiry = (x.reExpired.reading i).tvExpiry := by
        rw [k5]
        cases hp : x.reExpired.present i with
        | true => exact (congrArg Reading.tvExpiry ((k.reading i).1 hp)).trans rfl
        | false => exact congrArg Reading.tvExpiry ((k.reading i).2 hp)
      rw [htv, r2, x6, x8]
      exact hexp' _ _
    · have hpx : x.reExpired.present i = true := by
        unfold State.present State.cfg
        rw [r4, ← k1]
        exact hp
      exact derivedAt_congr (k.derivedAt hpx) (k5 i) k4 (k1.trans c1.symm) k6

/-- What the blocks make of a PASS image (R162). -/
theorem imageActed_pass (s : State) (b : List Byte) (y : State) (hy : y = s.imageActed .pass b) :
    y.images = s.images.put .pass b ∧ (∀ e : Fin 16, y.ring.thin[e.val] = 0) ∧ y.strings = s.strings ∧ y.cells = s.cells
      ∧ y.queue = s.queue ∧ y.water = s.water := by
  rw [hy]
  exact ⟨rfl, fun e => Vector.getElem_replicate .., rfl, rfl, rfl, rfl⟩

/-- What the blocks make of a STRING image (R17, R20, R41, R80, R112). -/
theorem imageActed_string {s : State} (hs : ∀ j, (s.control j).slot = none) (b : List Byte) (y : State)
    (hy : y = s.imageActed .string b) : y.images = s.images.put .string b ∧ y.busVoltage = y.judgeBusVoltage
      ∧ (∃ z, s.Restrung z ∧ ∀ i, z.cfg i = y.cfg i ∧ z.control i = y.control i ∧ z.reading i = y.reading i
        ∧ z.charge i = y.charge i ∧ ∀ p, z.cellAt i p = y.cellAt i p)
      ∧ (∀ i, (y.cfg i).present = true → y.derivedAt i)
      ∧ (∀ i p, y.cellAt i p = commitCell (s.cfg i) (y.cfg i) p (s.cellAt i p))
      ∧ (∀ e ∈ y.queue, (y.cfg e.string).present = true ∧ ((y.cfg e.string).manifoldAddr = 0xFF → e.kind ≠ .water))
      ∧ ∀ i, (y.cfg i).present = true → (y.cfg i).manifoldAddr = 0xFF → s.waits i .water → s.mgmt.mode = .engaged →
        y.ring.noticeLost = false →
        ⟨s.lim.controllerAddr, s.ring.ownAddress, 0x32, [0x06, 1, BitVec.ofNat 8 i.val, 1]⟩ ∈ y.ring.replies := by
  obtain ⟨z, hz, himg, heq, hq, hn⟩ := stringsApplied_record hs b y hy
  obtain ⟨x, k, -, hcell, -, hcfg⟩ := hz.committed
  obtain ⟨-, -, -, k4, -⟩ := k.fixed
  generalize y.queue = q at heq hq
  generalize y.ring = r at heq hn
  subst heq
  refine ⟨himg, k.busVoltage, ⟨z, hz, fun i => ⟨rfl, rfl, rfl, rfl, fun _ => rfl⟩⟩, fun i hp => ?_, fun i p => ?_, hq, hn⟩
  · refine derivedAt_congr (k.derivedAt (i := i) ?_) rfl rfl rfl rfl
    unfold State.present
    rw [hcfg]
    exact hp
  · refine Eq.trans ?_ (hcell i p)
    unfold State.cellAt State.cell
    rw [k4]

/-- What the blocks make of a PHASE or a RECIPE image (R49, R50, R112). -/
theorem imageActed_recipes {s : State} {t : TableId} (ht : t = .phase ∨ t = .recipe) (b : List Byte) (y : State)
    (hy : y = s.imageActed t b) (gone : List Entry)
    (hg : gone = s.queue.filter fun e => e.kind == .equalise && y.recipeIsEmpty e.recipe) :
    y.images = s.images.put t b ∧ y.strings = s.strings ∧ y.cells = s.cells ∧ y.water = s.water
      ∧ y.queue = (s.queue.filter fun e => !(e.kind == .equalise && y.recipeIsEmpty e.recipe))
      ∧ (s.mgmt.mode = .engaged → y.ring.replies = s.ring.replies ++ (gone.map fun e =>
          ⟨s.lim.controllerAddr, s.ring.ownAddress, 0x32, [0x06, 1, BitVec.ofNat 8 e.string.val, 0]⟩).take
            (8 - s.ring.replies.length)
        ∧ y.ring.noticeLost = (s.ring.noticeLost || decide (8 - s.ring.replies.length < gone.length)))
      ∧ (s.mgmt.mode = .transparent → y.ring.replies = s.ring.replies) := by
  have hy' : y = (s.imagePut t b).recipesJudged := by
    rcases ht with rfl | rfl <;> exact hy
  have hlim : (s.imagePut t b).lim = s.lim := by
    rcases ht with rfl | rfl <;> rfl
  have hx : (s.imagePut t b).images = s.images.put t b ∧ (s.imagePut t b).strings = s.strings
      ∧ (s.imagePut t b).cells = s.cells ∧ (s.imagePut t b).water = s.water ∧ (s.imagePut t b).queue = s.queue
      ∧ (s.imagePut t b).ring = s.ring ∧ (s.imagePut t b).mgmt.mode = s.mgmt.mode := ⟨rfl, rfl, rfl, rfl, rfl, rfl, rfl⟩
  generalize s.imagePut t b = x at hy' hlim hx
  obtain ⟨x1, x2, x3, x4, x5, x6, x7⟩ := hx
  have hyx : y.recipeIsEmpty = x.recipeIsEmpty := by
    rw [hy']
    unfold State.recipeIsEmpty
    rw [(recipesJudged_record x _ rfl).1]
  rw [hyx, ← x5] at hg
  obtain ⟨k1, k2, k3⟩ := recipesJudged_record x gone hg
  rw [← hy'] at k1 k2 k3
  rw [hlim, x6, x7] at k2
  rw [x6, x7] at k3
  rw [x5] at k1
  rw [hyx]
  generalize y.ring = r at k1 k2 k3
  subst k1
  exact ⟨x1, x2, x3, x4, rfl, k2, k3⟩

/-- A pending image, once its time has passed, is applied (R181). -/
theorem imageApplied_of_unbound {s : State} (dt : Nat) (hs : ∀ j, (s.control j).slot = none) (hw : s.water.state = .idle)
    (t : TableId) (b : List Byte) : s.ImageApplied ((s.begin dt).applyImage t b) dt t b s.ring.replies := by
  obtain ⟨k, hk, heq⟩ := applyImage_eq (s.begin dt) t b
  have hsu : ∀ j, ((s.begin dt).control j).slot = none := fun j => by rw [State.begin_control_eq]; exact hs j
  have hwu : (s.begin dt).water.state = .idle := by rw [s.begin_water]; exact hw
  have hctl := s.begin_control_eq dt
  have hrd := s.begin_reading dt
  have hch := s.begin_charge dt
  have hcells := s.begin_cells dt
  have hring := s.begin_ring dt
  have hmg := s.begin_mgmt dt
  have himg := s.begin_images dt
  have hwat := s.begin_water dt
  have hsite := s.begin_site dt
  have hq := s.begin_queue dt
  have hnow := s.begin_now dt
  rw [heq]
  have hlim : (s.begin dt).lim = s.lim := s.begin_lim dt
  have hcfg : ∀ i, (s.begin dt).cfg i = s.cfg i := s.begin_cfg dt
  have hhold : ∀ i, ((s.begin dt).control i).holdoffUntil = (s.control i).holdoffUntil
      ∧ ((s.begin dt).control i).lastWaterOutcome = (s.control i).lastWaterOutcome := fun i => by
    rw [hctl]
    exact ⟨rfl, rfl⟩
  have hcellAt : ∀ i p, (s.begin dt).cellAt i p = s.cellAt i p := fun i p => s.begin_cell dt (cellIx i p)
  have hcell := s.begin_cell dt
  have hstale : (s.begin dt).staleMs = if s.mgmt.loaded.limits = true then s.lim.staleS * 1000 else 5000 := by
    unfold State.staleMs
    rw [hlim, s.begin_limitsLoaded]
    rfl
  obtain ⟨y, hy⟩ : ∃ y, y = (s.begin dt).imageActed t b := ⟨_, rfl⟩
  have himages : y.images = (s.begin dt).images.put t b := by
    rw [hy]
    exact (((s.begin dt).imagePut t b).blocksAct_images t _ _).1
  have hpass := fun e : t = .pass => imageActed_pass (s.begin dt) b y (e ▸ hy)
  have hlimits := fun e : t = .limits => imageActed_limits hsu hwu b y (e ▸ hy)
  have hstring := fun e : t = .string => imageActed_string hsu b y (e ▸ hy)
  have hrecipes := fun ht : t = .phase ∨ t = .recipe => imageActed_recipes ht b y hy
  obtain ⟨m1, m2, m3, m4⟩ := applied_mgmt s.mgmt t
  rw [hmg, ← hy]
  rw [himg] at himages
  rw [hstale, hnow, hwat, hsite] at hlimits
  simp only [hcells, hcell, hrd] at hlimits
  rw [hcells, hq, hwat] at hpass
  rw [hq, hcells, hwat, hlim, hring, hmg] at hrecipes
  rw [hlim, hring, hmg] at hstring
  simp only [hcfg, hcellAt] at hstring
  have hwaits : ∀ i, (s.begin dt).waits i .water = s.waits i .water := fun i => by unfold State.waits; rw [hq]
  simp only [hwaits] at hstring
  refine {
    images := ⟨himages, m1⟩
    staging := m2
    window := m3
    mode := m4
    scan := hk
    limits := fun e => (hlimits e).2.1
    pass := fun e => (hpass e).2
    control := fun e i => ?_
    expiries := ?_
    records := fun e => ⟨(hstring e).2.1, fun i => ?_⟩
    recipes := fun e gone hg => ?_ }
  · obtain ⟨-, -, ⟨z, hz, hzy⟩, -, -, hqueue, -⟩ := hstring e
    obtain ⟨y1, y2, -, -, -⟩ := hzy i
    change ((y.cfg i).present = true → (s.cfg i).present = false →
        (y.control i).state = .onBus ∧ (y.control i).holdoffUntil = none)
      ∧ ((y.cfg i).present = true → (s.cfg i).present = true →
        (y.control i).holdoffUntil = (s.control i).holdoffUntil
          ∧ (y.control i).lastWaterOutcome = (s.control i).lastWaterOutcome)
      ∧ ((y.cfg i).present = false → (y.control i).state = .absent ∧ ∀ e ∈ y.queue, e.string ≠ i)
    refine ⟨fun hp ho => ?_, fun hp ho => ?_, fun hp => ⟨?_, fun x hx hxi => ?_⟩⟩
    · obtain ⟨n1, n2, -⟩ := hz.new (by rw [y1]; exact hp) (by rw [hcfg]; exact ho)
      rw [y2] at n1 n2
      exact ⟨n1, n2⟩
    · obtain ⟨⟨n1, n2⟩, -⟩ := hz.stays (by rw [y1]; exact hp) (by rw [hcfg]; exact ho)
      obtain ⟨h1, h2⟩ := hhold i
      rw [y2] at n1 n2
      exact ⟨n1.trans h1, n2.trans h2⟩
    · rw [← y2]
      exact (hz.absent (by rw [y1]; exact hp)).1
    · have := (hqueue x hx).1
      rw [hxi, hp] at this
      cases this
  · intro e before after hb ha
    rw [hb, ha]
    exact (hlimits e).2.2
  · obtain ⟨-, -, ⟨z, hz, hzy⟩, hder, hcellc, hqueue, hnotice⟩ := hstring e
    obtain ⟨y1, y2, y3, y4, y5⟩ := hzy i
    refine ⟨fun hp => ?_, fun hp => ⟨hder i hp, fun moved hm p c hc => ?_, fun ho => ?_, fun ho => ?_, fun hman => ⟨?_, ?_⟩⟩⟩
    · obtain ⟨-, n2, n3, n4⟩ := hz.absent (i := i) (by rw [y1]; exact hp)
      rw [y3] at n2
      rw [y4] at n3
      exact ⟨n2, n3, fun p => (y5 p).symm.trans (n4 p)⟩
    · exact (hcellc i p).trans (commitCell_present hp p _ c hm hc)
    · obtain ⟨-, -, n3, n4, n5⟩ := hz.new (i := i) (by rw [y1]; exact hp) (by rw [hcfg]; exact ho)
      rw [y3] at n4 n5
      rw [y4] at n3
      exact ⟨n3, n4, n5⟩
    · obtain ⟨-, n3, n4, n5⟩ := hz.stays (i := i) (by rw [y1]; exact hp) (by rw [hcfg]; exact ho)
      rw [y1, y3, hcfg, hrd] at n3 n4
      rw [y1, y4, hch] at n5
      exact ⟨n3, n4, n5⟩
    · intro x hx hxi
      exact (hqueue x hx).2 (by rw [hxi]; exact hman)
    · rintro ⟨x, hx, hxi⟩ hmode hlost
      exact hnotice i hp hman ⟨x, hx, hxi⟩ hmode hlost
  · obtain ⟨-, r2, r3, r4, r5, r6, r7⟩ := hrecipes e gone hg
    exact ⟨r5, fun r => recipeIsEmpty_iff y r, r6, r7, r2, r3, r4⟩

/-- Settles O33: the image is put in place, the blocks act on it one table at a time, and staging, mode and scan follow. -/
theorem pendingCommitIsApplied : Obligations.PendingCommitIsApplied := by
  unfold Obligations.PendingCommitIsApplied
  intro s dt hst
  have hexec : exec (.applyPendingCommit dt) s = eventIf dt State.appliesPending State.applyPending s := rfl
  have hslot : ∀ i, ((s.begin dt).control i).slot = (s.control i).slot := fun i => by rw [State.begin_control_eq]
  have hiff := (s.begin dt).appliesPending_iff
  rw [s.begin_mgmt, s.begin_water] at hiff
  simp only [hslot] at hiff
  rw [hexec]
  refine ⟨fun h => eventIf_idle hiff ?_, fun t ht hw hs => ?_⟩
  · rintro ⟨-, -, hw, hs⟩
    rcases h with h | ⟨i, h⟩
    · exact h hw
    · exact h (hs i)
  · have happ : (s.begin dt).applyPending = (s.begin dt).applyImage t s.mgmt.staged := by
      have hmay : (s.begin dt).mayApply = true := by
        rw [State.mayApply_iff, s.begin_water]
        exact ⟨hw, fun i => (hslot i).trans (hs i)⟩
      have hpend : (s.begin dt).commitPending = true := by
        unfold State.commitPending
        rw [s.begin_mgmt, hst]
        rfl
      unfold State.applyPending
      rw [hpend, hmay, s.begin_mgmt, ht]
      rfl
    refine ⟨(s.begin dt).applyImage t s.mgmt.staged, ?_, imageApplied_of_unbound dt hs hw t _⟩
    rw [← happ]
    exact if_pos (hiff.mpr ⟨hst, by rw [ht]; exact Option.some_ne_none t, hw, hs⟩)

end Sys2Proof.Machine

/-! ## The integration of a reading (R22 to R27) -/

namespace Sys2Proof.Machine

/-- What the whole coulombs leave of a fine account: less than a coulomb, of the sign of what was to be split (R23). -/
theorem wholeCoulombs_rest (fine q : Int) :
    (fine + q - wholeCoulombs fine q * 10000).natAbs < 10000
      ∧ (0 ≤ fine + q → 0 ≤ fine + q - wholeCoulombs fine q * 10000)
      ∧ (fine + q ≤ 0 → fine + q - wholeCoulombs fine q * 10000 ≤ 0) := by
  have hr : fine + q - wholeCoulombs fine q * 10000 = (fine + q).tmod 10000 := by
    have := Int.tmod_add_mul_tdiv (fine + q) 10000
    unfold wholeCoulombs
    omega
  rw [hr]
  refine ⟨?_, fun h => Int.tmod_nonneg _ h, fun h => ?_⟩
  · rw [Int.natAbs_tmod]
    exact Nat.mod_lt _ (by decide)
  · have := Int.tmod_nonneg (a := -(fine + q)) 10000 (by omega)
    rw [Int.neg_tmod] at this
    omega

/-- The balance as the integration holds it is the balance brought between −capacity and 0 (R24, R25). -/
theorem heldBalance_eq (cap : Nat) (bal : Int) :
    (if 0 < bal then 0 else if bal < -(cap : Int) then -(cap : Int) else bal) = max (-(cap : Int)) (min 0 bal) := by
  split
  · omega
  · split <;> omega

/-- An interval is cut when more than gap_ms have passed since the reading before it (R22). -/
theorem Charge.cutBy_iff (c : Charge) (gap now : Nat) :
    c.cutBy gap now = true ↔ ∃ t, c.tPrev = some t ∧ gap < now - t := by
  unfold Charge.cutBy Charge.sincePrev
  rcases c.tPrev with _ | t <;> simp

/-- Settles O55: the quotient and the remainder of each division together are what was divided. -/
theorem chargeIsAccountedWhole : Obligations.ChargeIsAccountedWhole := by
  unfold Obligations.ChargeIsAccountedWhole
  rintro c cap eta gap now dt i q r - - - hacc hdt hq rfl
  have hwhole : (c.integrate cap eta gap now i).whole = wholeCoulombs c.fine q := by
    rw [hq, hdt]; rfl
  have hfine : (c.integrate cap eta gap now i).charge.fine = c.fine + q - wholeCoulombs c.fine q * 10000 := by
    rw [hq, hdt]; rfl
  obtain ⟨hlt, hpos, hneg⟩ := wholeCoulombs_rest c.fine q
  rw [hfine, hwhole]
  set whole := wholeCoulombs c.fine q with hw
  have hwater : (c.integrate cap eta gap now i).mg * 10000 + (c.integrate cap eta gap now i).charge.wAcc
        = c.wAcc + (if c.assumed then 0 else 933 * (c.qBal + whole).toNat)
      ∧ (c.integrate cap eta gap now i).charge.wAcc < 10000
      ∧ (c.assumed = true → (c.integrate cap eta gap now i).mg = 0) := by
    rw [← hwhole]
    unfold Charge.integrate
    cases c.assumed
    · simp only [Bool.false_eq_true, if_false]
      refine ⟨?_, ?_, by simp⟩ <;> omega
    · simp only [if_true]
      exact ⟨by omega, by omega, fun _ => trivial⟩
  obtain ⟨hsum, hless, hnone⟩ := hwater
  refine ⟨by omega, hlt, hpos, hneg, ?_, ?_, ?_, hless, fun h => ?_, fun h => ⟨hnone h, ?_⟩, ?_, ?_, rfl, rfl, rfl⟩
  · rw [← hwhole]; exact heldBalance_eq ..
  · rw [← hwhole]; rfl
  · rw [← hwhole]; rfl
  · rw [hsum, h]; rfl
  · have := hnone h; rw [h, if_pos rfl] at hsum; omega
  · rw [← hwhole]; unfold Charge.integrate; simp
  · rw [← Charge.cutBy_iff]; unfold Charge.integrate; simp

end Sys2Proof.Machine

/-! ## A change of an account (R27, R29, R30) -/

namespace Sys2Proof.Machine

theorem accountChanged_eq (s : State) (i : Str) (old : Charge) :
    s.accountChanged i old
      = if (old.qBal == 0) = ((s.charge i).qBal == 0) then (if old.assumed && !(s.charge i).assumed then s.markScan else s)
        else (if old.assumed && !(s.charge i).assumed then s.markScan else s).markScan.judgeSpreadTimer i := rfl

theorem frame_judgeSpreadTimer (s : State) (i : Str) (m : Option SlotId) : State.RoundFrame i m s (s.judgeSpreadTimer i) :=
  frame_ite (frame_modCharge ..) (frame_modCharge ..)

theorem frame_accountChanged (s : State) (i : Str) (m : Option SlotId) (old : Charge) :
    State.RoundFrame i m s (s.accountChanged i old) := by
  rw [accountChanged_eq]
  have h : State.RoundFrame i m s (if old.assumed && !(s.charge i).assumed then s.markScan else s) :=
    frame_ite (frame_markScan ..) (.refl ..)
  exact frame_ite h (h.trans ((frame_markScan ..).trans (frame_judgeSpreadTimer ..)))

theorem handed_accountChanged (s : State) (i : Str) (old : Charge) :
    State.Handed false false s (s.accountChanged i old) := by
  rw [accountChanged_eq]
  have h : State.Handed false false s (if old.assumed && !(s.charge i).assumed then s.markScan else s) :=
    handed_ite (handed_markScan (.refl _)) (.refl _)
  exact handed_ite h (handed_judgeSpreadTimer (handed_markScan h) i)

end Sys2Proof.Machine

/-! ## WRITE (R29, R184) -/

namespace Sys2Proof.Machine

/-! ### The argument bytes -/

theorem bit_eq_getLsbD (b : Byte) (k : Nat) : bit b.toNat k = b.getLsbD k := by
  rw [bit, BitVec.getLsbD, Nat.testBit_eq_decide_div_mod_eq]
  exact Bool.beq_eq_decide_eq ..

theorem toNat_append_low {n : Nat} (a : BitVec n) (b : Byte) : (a ++ b).toNat = a.toNat * 256 + b.toNat := by
  rw [BitVec.toNat_append, ← Nat.shiftLeft_add_eq_or_of_lt b.isLt, Nat.shiftLeft_eq]

theorem signedOf_append_four (a b c d : Byte) :
    signedOf 4 (((a.toNat * 256 + b.toNat) * 256 + c.toNat) * 256 + d.toNat) = (a ++ b ++ c ++ d).toInt := by
  rw [BitVec.toInt_eq_toNat_cond, toNat_append_low, toNat_append_low, toNat_append_low, signedOf]
  have ha := a.isLt
  have hb := b.isLt
  have hc := c.isLt
  have hd := d.isLt
  split <;> split <;> omega

/-- The four bytes of a CELL WRITE (11.2). -/
theorem field_cellArgs (a b c d : Byte) (rest : List Byte) :
    field (a :: b :: c :: d :: rest) 0 4 = 16777216 * a.toNat + 65536 * b.toNat + 256 * c.toNat + d.toNat := by
  simp only [field, u8, List.getD_cons_succ, List.getD_cons_zero, Nat.zero_mul, Nat.zero_add, Nat.add_zero]
  omega

/-- The seven bytes of a STRING WRITE (11.2). -/
theorem fields_stringArgs (sel q3 q2 q1 q0 d1 d0 : Byte) (rest : List Byte) :
    u8 (sel :: q3 :: q2 :: q1 :: q0 :: d1 :: d0 :: rest) 0 = sel.toNat
      ∧ sfield (sel :: q3 :: q2 :: q1 :: q0 :: d1 :: d0 :: rest) 1 4 = (q3 ++ q2 ++ q1 ++ q0).toInt
      ∧ field (sel :: q3 :: q2 :: q1 :: q0 :: d1 :: d0 :: rest) 5 2 = 256 * d1.toNat + d0.toNat := by
  simp only [sfield, field, u8, List.getD_cons_succ, List.getD_cons_zero, Nat.zero_mul, Nat.zero_add, Nat.add_zero]
  exact ⟨trivial, signedOf_append_four .., by omega⟩

theorem clampInt_eq_max_min (v : Int) (cap : Nat) : clampInt v (-(cap : Int)) 0 = max (-(cap : Int)) (min 0 v) := by
  unfold clampInt
  split
  · omega
  · split <;> omega

/-! ### The items of a string record -/

/-- The items of a STRING WRITE, written before their changes are handed on (R29). -/
def State.itemsWritten (s : State) (i : Str) (select : Nat) (q : Int) (days : Nat) : State :=
  let s := if bit select 0 then s.modCharge i (Charge.writeBalance (s.cfg i).capacityC q) else s
  let s := if bit select 1 then s.modCharge i fun c => { c with daysSinceEq := days } else s
  if bit select 2 then s.modControl i fun c => { c with holdoffUntil := none } else s

theorem writeItems_eq (s : State) (i : Str) (select : Nat) (q : Int) (days : Nat) :
    s.writeItems i select q days = (s.itemsWritten i select q days).accountChanged i (s.charge i) := rfl

theorem itemsWritten_charge (s : State) (i : Str) (select : Nat) (q : Int) (days : Nat) :
    (s.itemsWritten i select q days).charge i
      = { (if bit select 0 then (s.charge i).writeBalance (s.cfg i).capacityC q else s.charge i) with
          daysSinceEq := if bit select 1 then days else (s.charge i).daysSinceEq } := by
  unfold State.itemsWritten
  cases bit select 0 <;> cases bit select 1 <;> cases bit select 2 <;> simp [Charge.writeBalance]

theorem itemsWritten_control (s : State) (i : Str) (select : Nat) (q : Int) (days : Nat) :
    (s.itemsWritten i select q days).control i
      = { s.control i with holdoffUntil := if bit select 2 then none else (s.control i).holdoffUntil } := by
  unfold State.itemsWritten
  cases bit select 0 <;> cases bit select 1 <;> cases bit select 2 <;> simp

theorem frame_itemsWritten (s : State) (i : Str) (m : Option SlotId) (select : Nat) (q : Int) (days : Nat) :
    State.RoundFrame i m s (s.itemsWritten i select q days) := by
  unfold State.itemsWritten
  exact (frame_ite (frame_modCharge ..) (.refl ..)).trans
    ((frame_ite (frame_modCharge ..) (.refl ..)).trans (frame_ite (frame_modControl ..) (.refl ..)))

theorem itemsWritten_queue (s : State) (i : Str) (select : Nat) (q : Int) (days : Nat) :
    (s.itemsWritten i select q days).queue = s.queue := by
  unfold State.itemsWritten
  cases bit select 0 <;> cases bit select 1 <;> cases bit select 2 <;> rfl

/-- Handing the changes of a STRING WRITE on moves none of the items written (R29). -/
theorem frame_writeItems (s : State) (i : Str) (m : Option SlotId) (select : Nat) (q : Int) (days : Nat) :
    State.RoundFrame i m s (s.writeItems i select q days) :=
  (frame_itemsWritten ..).trans (frame_accountChanged ..)

/-- What a STRING WRITE leaves of the record: the items it carries, and all others as they stood (R29). -/
theorem writeItems_record (s : State) (i : Str) (select : Nat) (q : Int) (days : Nat) :
    ((s.writeItems i select q days).charge i).kept = ((s.itemsWritten i select q days).charge i).kept
      ∧ ((s.writeItems i select q days).control i).state = (s.control i).state
      ∧ ((s.writeItems i select q days).control i).holdoffUntil
        = (if bit select 2 then none else (s.control i).holdoffUntil)
      ∧ (s.writeItems i select q days).queue = s.queue := by
  have h := handed_accountChanged (s.itemsWritten i select q days) i (s.charge i)
  obtain ⟨hqueue, -, hstate⟩ := h.calm rfl
  rw [writeItems_eq]
  refine ⟨h.charge i, (hstate i).trans ?_, (h.holdoffUntil i).trans ?_, hqueue.trans (itemsWritten_queue ..)⟩
  · rw [itemsWritten_control]
  · rw [itemsWritten_control]

/-- The items of an account that a hand-off keeps, one by one. -/
theorem Charge.fields_of_kept {c d : Charge} (h : c.kept = d.kept) :
    c.qBal = d.qBal ∧ c.fine = d.fine ∧ c.assumed = d.assumed ∧ c.floor = d.floor ∧ c.gap = d.gap
      ∧ c.daysSinceEq = d.daysSinceEq ∧ c.oTotal = d.oTotal ∧ c.dDis = d.dDis := by
  unfold Charge.kept at h
  simp only [Charge.mk.injEq] at h
  tauto

/-! ### The answers -/

theorem State.act_write (s : State) (src : Byte) (a : List Byte) :
    (s.heldFor src).act (.write a) = (s.heldFor src).askWrite a := rfl

section
variable {s : State} {dt : Nat} {src : Byte}

/-- WRITE at the record of a cell of a present string (R184). -/
theorem write_cell {i : CellIx} {a b c d : Byte} {rest : List Byte} (hs : s.takesFrom src)
    (hc : s.mgmt.cursor = ⟨.cell, i.val⟩) (hp : (s.cfg (cellStr i)).present = true)
    (hn : (cellPos i).val < (s.cfg (cellStr i)).cells) :
    exec (.write dt src (a :: b :: c :: d :: rest)) s = .next ((((s.begin dt).modCell i (Cell.written
        (16777216 * a.toNat + 65536 * b.toNat + 256 * c.toNat + d.toNat))).modMgmt (Mgmt.advance 1)).replied
          src 0x22 .ok 0 []).quietEnd := by
  have hcur : ((s.begin dt).heldFor src).mgmt.cursor = ⟨.cell, i.val⟩ := by rw [State.heldFor_mgmt, s.begin_mgmt, hc]
  have hused : ((s.begin dt).heldFor src).cellUsed i = true := by
    show (s.begin dt).cellUsed i = true
    unfold State.cellUsed State.present
    rw [State.begin_cfg, hp, decide_eq_true hn]
    rfl
  refine exec_replied (r := .write (a :: b :: c :: d :: rest)) (dt := dt) rfl rfl hs ?_ rfl rfl
  rw [State.act_write, State.askWrite, hcur]
  dsimp only
  rw [if_neg (by simp), State.writeCell, dif_pos i.isLt, if_pos hused, field_cellArgs]
  rfl

/-- A WRITE that is refused. -/
theorem write_refused {a : List Byte} {st : Status} (hs : s.takesFrom src)
    (h : ((s.begin dt).heldFor src).askWrite a = ((s.begin dt).heldFor src).refuse st) :
    exec (.write dt src a) s = .next ((s.begin dt).replied src 0x22 st 0 []).quietEnd :=
  exec_refused (r := .write a) rfl rfl hs h

/-- WRITE at the record of a present string: the items are written, the changes handed on, and the cursor advances (R29). -/
theorem write_string {i : Str} {a : List Byte} (hs : s.takesFrom src) (hc : s.mgmt.cursor = ⟨.string, i.val⟩)
    (hl : 7 ≤ a.length) (hp : (s.cfg i).present = true) :
    exec (.write dt src a) s = .next ((((((s.begin dt).heldFor src).writeItems i (u8 a 0) (sfield a 1 4)
      (field a 5 2)).modMgmt (Mgmt.advance 1)).modRing fun r =>
        { r with replies := s.ring.replies ++ [⟨src, s.ring.ownAddress, 0x31, [0x22, 0]⟩] })).settle := by
  have hr : (s.begin dt).ring = s.ring := s.begin_ring dt
  have hcur : ((s.begin dt).heldFor src).mgmt.cursor = ⟨.string, i.val⟩ := by rw [State.heldFor_mgmt, s.begin_mgmt, hc]
  have hpres : ((s.begin dt).heldFor src).present i = true := (State.heldFor_present ..).trans hp
  have hact : ((s.begin dt).heldFor src).act (.write a) = ((((s.begin dt).heldFor src).writeItems i (u8 a 0) (sfield a 1 4)
      (field a 5 2)).modMgmt (Mgmt.advance 1)).accept := by
    rw [State.act_write, State.askWrite, hcur]
    dsimp only
    rw [if_neg (by omega), State.writeString, dif_pos i.isLt, if_pos hpres]
  have hq : ((((s.begin dt).heldFor src).writeItems i (u8 a 0) (sfield a 1 4) (field a 5 2)).modMgmt
      (Mgmt.advance 1)).ring.replies = (s.begin dt).ring.replies ++ [⟨src, (s.begin dt).ring.ownAddress, kindReply, []⟩] :=
    (frame_writeItems _ i none ..).replies
  have ho := State.offer_answered (p := .request (.write a)) (State.begin_takesFrom hs dt).1
    ((State.answer_request (State.begin_takesFrom hs dt) _).trans hact) (ns := []) hq
  rw [exec_request (c := .write dt src a) rfl, show dtOf (.write dt src a) = dt from rfl, ho, hr]
  rfl

end

/-- Settles O35: the space of the cursor and the record under it decide what a WRITE does. -/
theorem writeSetsTheRecordAtTheCursor : Obligations.WriteSetsTheRecordAtTheCursor := by
  unfold Obligations.WriteSetsTheRecordAtTheCursor
  intro s dt src hs
  have hcur : ((s.begin dt).heldFor src).mgmt.cursor = s.mgmt.cursor := by rw [State.heldFor_mgmt, s.begin_mgmt]
  have hqueue : ((s.begin dt).heldFor src).queue = s.queue := s.begin_queue dt
  refine ⟨fun i a b c d rest hc hp hn => ?_, fun i args hc hl h => write_refused hs ?_,
    fun i sel q3 q2 q1 q0 d1 d0 rest v hc hp hv => ?_, fun i args hc hl hp => write_refused hs ?_,
    fun ix args => ⟨fun h => write_refused hs ?_, fun h => write_refused hs ?_, fun h => write_refused hs ?_⟩⟩
  · rw [write_cell hs hc hp hn, State.modMgmt_congr (g := fun m => { m with cursor := ⟨.cell, i.val + 1⟩ })]
    · rfl
    · show Mgmt.advance 1 (s.begin dt).mgmt = { (s.begin dt).mgmt with cursor := ⟨.cell, i.val + 1⟩ }
      rw [s.begin_mgmt, Mgmt.advance, hc]
  · have hunused : ((s.begin dt).heldFor src).cellUsed i = false := by
      show (s.begin dt).cellUsed i = false
      unfold State.cellUsed State.present
      rw [State.begin_cfg]
      rcases h with h | h
      · rw [h]; rfl
      · rw [decide_eq_false (by omega), Bool.and_false]
    rw [State.askWrite, hcur, hc]
    dsimp only
    rw [if_neg (by omega), State.writeCell, dif_pos i.isLt, if_neg (by simp [hunused])]
  · obtain ⟨hsel, hq, hd⟩ := fields_stringArgs sel q3 q2 q1 q0 d1 d0 rest
    have hexec := write_string (dt := dt) (a := sel :: q3 :: q2 :: q1 :: q0 :: d1 :: d0 :: rest) hs hc (by simp) hp
    rw [hsel, hq, hd, ← hv] at hexec
    have hf := frame_writeItems ((s.begin dt).heldFor src) i none sel.toNat v (256 * d1.toNat + d0.toNat)
    obtain ⟨hcharge, hstate, hhold, hqueue'⟩ :=
      writeItems_record ((s.begin dt).heldFor src) i sel.toNat v (256 * d1.toNat + d0.toNat)
    rw [itemsWritten_charge, show ((s.begin dt).heldFor src).charge i = s.charge i from s.begin_charge dt i,
      show ((s.begin dt).heldFor src).cfg i = s.cfg i from s.begin_cfg dt i] at hcharge
    rw [State.heldFor_control] at hstate hhold
    obtain ⟨hbal, hfine, hassumed, hfloor, hgap, hdays, hover, hdis⟩ := Charge.fields_of_kept hcharge
    simp only [bit_eq_getLsbD] at hbal hfine hassumed hfloor hgap hdays hhold
    generalize ((s.begin dt).heldFor src).writeItems i sel.toNat v (256 * d1.toNat + d0.toNat) = t at *
    refine ⟨_, hexec, ?_, rfl, ?_, hdays, hhold, ?_, ?_, hstate, hf.str, hf.cells.trans (s.begin_cells dt), hqueue'.trans hqueue,
      hf.water.trans (s.begin_water dt), hf.images.trans (s.begin_images dt)⟩
    · show Mgmt.advance 1 t.mgmt = _
      rw [hf.mgmt, State.heldFor_mgmt, s.begin_mgmt, Mgmt.advance, hc]
    · cases hb : sel.getLsbD 0
      · rw [hb] at hbal hassumed
        exact ⟨hbal, hassumed⟩
      · rw [hb] at hbal hfine hassumed hfloor hgap
        exact ⟨hbal.trans (clampInt_eq_max_min ..), hfine, hassumed, hfloor, hgap⟩
    · exact hover.trans (by split <;> rfl)
    · exact hdis.trans (by split <;> rfl)
  · rw [State.askWrite, hcur, hc]
    dsimp only
    rw [if_neg (by omega), State.writeString, dif_pos i.isLt,
      if_neg (by rw [State.present, show (((s.begin dt).heldFor src).cfg _).present = _ from State.heldFor_present .., hp]; decide)]
  · rw [State.askWrite, hcur]
    rcases h with ⟨h, hl⟩ | ⟨h, hl⟩ <;> rw [h] <;> exact if_pos hl
  · rw [State.askWrite, hcur, hqueue]
    rcases h with ⟨h, hl⟩ | ⟨h, hl⟩ <;> rw [h] <;> exact if_neg (Nat.not_le.mpr hl)
  · rw [State.askWrite, hcur, hqueue]
    rcases h with ⟨h, hx, hl⟩ | ⟨h, hx, hl⟩ | ⟨h, hx⟩ | ⟨h, hx⟩ <;> rw [h] <;> dsimp only
    · rw [if_neg (by omega), State.writeCell, dif_neg (by omega)]
    · rw [if_neg (by omega), State.writeString, dif_neg (by omega)]
    · exact if_pos hx
    · exact if_pos hx

end Sys2Proof.Machine

/-! ## One operation for every string in turn -/

namespace Sys2Proof.Machine

section
variable {R : State → State → Prop} {f : Str → State → State} {i : Str}

theorem foldl_strs (hr : ∀ u, R u u) (ht : ∀ {u v w}, R u v → R v w → R u w) {l : List Str}
    (hf : ∀ k ∈ l, ∀ u, R u (f k u)) : ∀ s, R s (l.foldl (fun s k => f k s) s) := by
  induction l with
  | nil => exact hr
  | cons k l ih =>
    intro s
    exact ht (hf k (by simp) s) (ih (fun j hj => hf j (by simp [hj])) _)

/-- What every string's turn keeps, all of them keep. -/
theorem eachStr_rel (hr : ∀ u, R u u) (ht : ∀ {u v w}, R u v → R v w → R u w) (hf : ∀ k u, R u (f k u)) (s : State) :
    R s (s.eachStr f) :=
  foldl_strs hr ht (fun k _ => hf k) s

/-- The strings before and after `i` in the order S0 to S7. -/
theorem allStrs_split (i : Str) : ∃ a b, allStrs = a ++ i :: b ∧ i ∉ a ∧ i ∉ b := by
  have hn : allStrs.Nodup := by decide
  obtain ⟨a, b, h⟩ := List.append_of_mem (show i ∈ allStrs by revert i; decide)
  rw [h, List.nodup_middle, List.nodup_cons, List.mem_append, not_or] at hn
  exact ⟨a, b, h, hn.1⟩

/-- The turn of `i` stands between what the turns of the other strings keep. -/
theorem eachStr_turn (hr : ∀ u, R u u) (ht : ∀ {u v w}, R u v → R v w → R u w) (hf : ∀ k u, k ≠ i → R u (f k u))
    (s : State) : ∃ u, R s u ∧ R (f i u) (s.eachStr f) := by
  obtain ⟨a, b, h, ha, hb⟩ := allStrs_split i
  refine ⟨a.foldl (fun s k => f k s) s, foldl_strs hr ht (fun k hk u => hf k u ?_) s, ?_⟩
  · rintro rfl; exact ha hk
  · unfold State.eachStr
    rw [h, List.foldl_append, List.foldl_cons]
    refine foldl_strs hr ht (fun k hk u => hf k u ?_) _
    rintro rfl; exact hb hk

end

/-- What String Control's acts for other strings leave to the string `i`: its record, and every block but the order queue, the
Round Queue and the slots. -/
structure State.Beside (i : Str) (s t : State) : Prop where
  now : t.now = s.now
  cells : t.cells = s.cells
  busVoltage : t.busVoltage = s.busVoltage
  discharge : t.discharge = s.discharge
  holdoffEnd : t.holdoffEnd = s.holdoffEnd
  water : t.water = s.water
  site : t.site = s.site
  mgmt : t.mgmt = s.mgmt
  images : t.images = s.images
  ring : t.ring = { s.ring with orders := t.ring.orders, orderCount := t.ring.orderCount
                                counts := { s.ring.counts with orderDrop := t.ring.counts.orderDrop } }
  queue : ∀ e ∈ t.queue, e ∈ s.queue
  str : t.str i = s.str i

section
variable {i j : Str} {m : Option SlotId} {s t u : State}

theorem State.Beside.refl (i : Str) (s : State) : State.Beside i s s :=
  ⟨rfl, rfl, rfl, rfl, rfl, rfl, rfl, rfl, rfl, rfl, fun _ h => h, rfl⟩

theorem State.Beside.trans (h : State.Beside i s t) (k : State.Beside i t u) : State.Beside i s u where
  now := k.now.trans h.now
  cells := k.cells.trans h.cells
  busVoltage := k.busVoltage.trans h.busVoltage
  discharge := k.discharge.trans h.discharge
  holdoffEnd := k.holdoffEnd.trans h.holdoffEnd
  water := k.water.trans h.water
  site := k.site.trans h.site
  mgmt := k.mgmt.trans h.mgmt
  images := k.images.trans h.images
  ring := by rw [k.ring, h.ring]
  queue e he := h.queue e (k.queue e he)
  str := k.str.trans h.str

theorem State.Beside.control (h : State.Beside i s t) : t.control i = s.control i := by
  unfold State.control; rw [h.str]

theorem State.Beside.charge (h : State.Beside i s t) : t.charge i = s.charge i := by
  unfold State.charge; rw [h.str]

theorem State.Beside.busLowOrAbsent (h : State.Beside i s t) : t.busLowOrAbsent = s.busLowOrAbsent := by
  unfold State.busLowOrAbsent State.lim; rw [h.busVoltage, h.images]

theorem State.RoundFrame.beside (h : State.RoundFrame j m s t) (hj : j ≠ i) : State.Beside i s t :=
  ⟨h.now, h.cells, h.busVoltage, h.discharge, h.holdoffEnd, h.water, h.site, h.mgmt, h.images, h.ring, h.queue,
    h.str i (Ne.symm hj)⟩

/-- Every string takes an end cause; the string `i` takes it in a state whose blocks its turn finds as they stood (R67). -/
theorem eachStr_endCause (s : State) (i : Str) (c : EndReason) :
    ∃ u, State.Beside i s u ∧ State.Beside i (u.endCause i c) (s.eachStr fun i s => s.endCause i c) :=
  eachStr_turn (State.Beside.refl i) State.Beside.trans (fun k u hk => (frame_endCause u k c).beside hk) s

theorem eachStr_endCause_kept (s : State) (c : EndReason) :
    (s.eachStr fun i s => s.endCause i c).ring.replies = s.ring.replies
      ∧ (s.eachStr fun i s => s.endCause i c).ring.ownAddress = s.ring.ownAddress
      ∧ (s.eachStr fun i s => s.endCause i c).holdoffEnd = s.holdoffEnd
      ∧ (s.eachStr fun i s => s.endCause i c).mgmt = s.mgmt
      ∧ (s.eachStr fun i s => s.endCause i c).images = s.images
      ∧ (s.eachStr fun i s => s.endCause i c).busVoltage = s.busVoltage := by
  obtain ⟨u, h, k⟩ := eachStr_endCause s 0 c
  have f := frame_endCause u 0 c
  exact ⟨by rw [k.ring, f.ring, h.ring], by rw [k.ring, f.ring, h.ring], k.holdoffEnd.trans (f.holdoffEnd.trans h.holdoffEnd),
    k.mgmt.trans (f.mgmt.trans h.mgmt), k.images.trans (f.images.trans h.images),
    k.busVoltage.trans (f.busVoltage.trans h.busVoltage)⟩

end

end Sys2Proof.Machine

/-! ## What a bus voltage and an account hand to the strings -/

namespace Sys2Proof.Machine

/-- What a change that ends no round leaves when it is handed on: the ends of the rounds, the holdoff and the notices; and the
variant of every return that R72 does not take to FAST. -/
structure State.Calm (s t : State) : Prop where
  handed : State.Handed false false s t
  holdoffEnd : t.holdoffEnd = s.holdoffEnd
  replies : t.ring.replies = s.ring.replies
  own : t.ring.ownAddress = s.ring.ownAddress
  mgmt : t.mgmt = s.mgmt
  ends : ∀ j, (t.control j).endReason = (s.control j).endReason ∧ (t.control j).endStamp = (s.control j).endStamp
  variant : ∀ j, ((s.control j).variant = some .normal → s.busLowOrAbsent = false) →
    (t.control j).variant = (s.control j).variant

section
variable {i : Str} {s t u : State}

theorem State.Calm.refl (s : State) : s.Calm s := ⟨.refl s, rfl, rfl, rfl, rfl, fun _ => ⟨rfl, rfl⟩, fun _ _ => rfl⟩

theorem State.Handed.busLowOrAbsent {ends joins : Bool} (h : State.Handed ends joins s t) :
    t.busLowOrAbsent = s.busLowOrAbsent := by
  unfold State.busLowOrAbsent State.lim; rw [h.busVoltage, h.images]

theorem State.Calm.trans (h : s.Calm t) (k : t.Calm u) : s.Calm u where
  handed := h.handed.trans k.handed
  holdoffEnd := k.holdoffEnd.trans h.holdoffEnd
  replies := k.replies.trans h.replies
  own := k.own.trans h.own
  mgmt := k.mgmt.trans h.mgmt
  ends j := ⟨(k.ends j).1.trans (h.ends j).1, (k.ends j).2.trans (h.ends j).2⟩
  variant j hj := by
    have e := h.variant j hj
    exact (k.variant j (by rw [e, h.handed.busLowOrAbsent]; exact hj)).trans e

theorem calm_ite {c : Prop} [Decidable c] (h : s.Calm t) (k : s.Calm u) : s.Calm (if c then t else u) := by
  split <;> assumption

/-- An operation on the string `i` that hands its change on, with what it makes of the string's own record. -/
theorem calm_of_frame {m : Option SlotId} (h : State.Handed false false s t) (f : State.RoundFrame i m s t)
    (he : (t.control i).endReason = (s.control i).endReason ∧ (t.control i).endStamp = (s.control i).endStamp)
    (hv : ((s.control i).variant = some .normal → s.busLowOrAbsent = false) →
      (t.control i).variant = (s.control i).variant) : s.Calm t where
  handed := h
  holdoffEnd := f.holdoffEnd
  replies := f.replies
  own := by rw [f.ring]
  mgmt := f.mgmt
  ends j := by
    by_cases e : j = i
    · rw [e]; exact he
    · unfold State.control; rw [f.str j e]; exact ⟨rfl, rfl⟩
  variant j hj := by
    by_cases e : j = i
    · rw [e] at hj ⊢; exact hv hj
    · unfold State.control; rw [f.str j e]

theorem Control.ordered_kept (now : Nat) (o : RectOrder) (c : Control) :
    (c.ordered now o).endReason = c.endReason ∧ (c.ordered now o).endStamp = c.endStamp
      ∧ (c.ordered now o).variant = c.variant ∧ (c.ordered now o).step = c.step := by
  unfold Control.ordered
  split <;> exact ⟨rfl, rfl, rfl, rfl⟩

theorem calm_stringRect (s : State) (i : Str) (o : RectOrder) : s.Calm (s.stringRect i o) := by
  obtain ⟨h1, h2, h3, -⟩ := Control.ordered_kept s.now o (s.control i)
  refine calm_of_frame (handed_stringRect (.refl s) i o) (frame_stringRect s i none o) ?_ fun _ => ?_ <;> rw [stringRect_control]
  · exact ⟨h1, h2⟩
  · exact h3

theorem calm_toConfirm (s : State) (i : Str) : s.Calm (s.toConfirm i) := by
  refine calm_of_frame (handed_toConfirm (.refl s) i) (frame_toConfirm s i none) ?_ fun _ => ?_ <;> rw [toConfirm_control]
  · exact ⟨rfl, rfl⟩
  · rfl

theorem calm_judgeWindow (s : State) (i : Str) : s.Calm (s.judgeWindow i) :=
  calm_ite (calm_toConfirm s i) (.refl s)

/-- A return in flight takes a variant (R71, R72). -/
theorem changeVariant_control (s : State) (i : Str) (v : Variant) :
    ((s.changeVariant i v).control i).endReason = (s.control i).endReason
      ∧ ((s.changeVariant i v).control i).endStamp = (s.control i).endStamp
      ∧ ((s.changeVariant i v).control i).variant = some v := by
  obtain ⟨h1, h2, h3, -⟩ := Control.ordered_kept s.now .off { s.control i with variant := some v }
  unfold State.changeVariant State.offAndConfirm
  dsimp only
  split
  · rw [toConfirm_control, stringRect_control, State.modControl_control]; exact ⟨h1, h2, h3⟩
  · rw [stringRect_control, State.modControl_control]; exact ⟨h1, h2, h3⟩

theorem calm_matchTakesBus (s : State) (i : Str) : s.Calm (s.matchTakesBus i) := by
  unfold State.matchTakesBus
  split
  · split
    · next h =>
      obtain ⟨h1, h2, -⟩ := changeVariant_control s i .fast
      refine calm_of_frame (handed_changeVariant (.refl s) i _) (frame_changeVariant s i none _) ⟨h1, h2⟩ fun k => ?_
      have := k h.2.1
      rw [h.2.2] at this
      cases this
    · exact (calm_ite (calm_stringRect s i _) (.refl s)).trans (calm_judgeWindow _ i)
  · exact .refl s

theorem calm_handBus (s : State) (before : Option Nat) : s.Calm (s.handBus before) :=
  calm_ite (.refl s) (eachStr_rel State.Calm.refl State.Calm.trans (fun k u => calm_matchTakesBus u k) s)

theorem accountChanged_control (s : State) (i : Str) (old : Charge) (j : Str) :
    (s.accountChanged i old).control j = s.control j := by
  have h : (if old.assumed && !(s.charge i).assumed then s.markScan else s).control j = s.control j := by
    split <;> rfl
  rw [accountChanged_eq]
  split
  · exact h
  · rw [judgeSpreadTimer_control]; exact h

theorem calm_accountChanged (s : State) (i : Str) (old : Charge) : s.Calm (s.accountChanged i old) := by
  refine calm_of_frame (handed_accountChanged s i old) (frame_accountChanged s i none old) ?_ fun _ => ?_ <;>
    rw [accountChanged_control]
  exact ⟨rfl, rfl⟩

theorem judgeCriterion_eq (s : State) (sl : SlotId) :
    s.judgeCriterion sl = s ∨ ∃ c : SlotRec → Option Nat,
      s.judgeCriterion sl = s.modSlot sl fun r => { r with critStart := c r } := by
  unfold State.judgeCriterion
  split
  · split
    · split
      · exact .inr ⟨_, rfl⟩
      · exact .inr ⟨_, rfl⟩
    · exact .inl rfl
  · exact .inl rfl

theorem calm_judgeCriterion (s : State) (sl : SlotId) : s.Calm (s.judgeCriterion sl) := by
  rcases judgeCriterion_eq s sl with h | ⟨c, h⟩ <;> rw [h]
  · exact .refl s
  · exact ⟨handed_modSlot (.refl s) sl _, by simp, by simp, by simp, by simp, fun _ => by simp, fun _ _ => by simp⟩

theorem judgeCriterion_control (s : State) (sl : SlotId) (j : Str) : (s.judgeCriterion sl).control j = s.control j := by
  rcases judgeCriterion_eq s sl with h | ⟨c, h⟩ <;> rw [h]
  exact State.modSlot_control ..

theorem onSlotOf_control (s : State) (i : Str) {f : SlotId → State → State}
    (hf : ∀ sl u j, State.control (f sl u) j = State.control u j) (j : Str) : (s.onSlotOf i f).control j = s.control j := by
  unfold State.onSlotOf
  split
  · exact hf ..
  · rfl

theorem calm_onSlotOf (s : State) (i : Str) {f : SlotId → State → State} (hf : ∀ sl u, State.Calm u (f sl u)) :
    s.Calm (s.onSlotOf i f) := by
  unfold State.onSlotOf
  split
  · exact hf ..
  · exact .refl s

end

end Sys2Proof.Machine

/-! ## Full detection and the discharge judgement (R30 to R33) -/

namespace Sys2Proof.Machine

/-! ### The judgements of an account -/

section
variable (l : Limits) (now : Nat) (cut : Bool) (c : Charge)

/-- Full detection leaves the items of the discharge judgement, the tallies and the current (R30). -/
theorem detectFull_kept : (c.detectFull l now cut).current = c.current ∧ (c.detectFull l now cut).disStart = c.disStart
    ∧ (c.detectFull l now cut).discharging = c.discharging ∧ (c.detectFull l now cut).oTotal = c.oTotal
    ∧ (c.detectFull l now cut).wAcc = c.wAcc := by
  unfold Charge.detectFull
  repeat' split
  all_goals exact ⟨rfl, rfl, rfl, rfl, rfl⟩

/-- Two accounts that stand alike (R21, R29, R30). -/
def Charge.standsAs (c d : Charge) : Prop :=
  c.qBal = d.qBal ∧ c.fine = d.fine ∧ c.assumed = d.assumed ∧ c.floor = d.floor ∧ c.gap = d.gap

theorem Charge.standsAs.trans {c d e : Charge} (h : c.standsAs d) (k : d.standsAs e) : c.standsAs e := by
  obtain ⟨h1, h2, h3, h4, h5⟩ := h
  obtain ⟨k1, k2, k3, k4, k5⟩ := k
  exact ⟨h1.trans k1, h2.trans k2, h3.trans k3, h4.trans k4, h5.trans k5⟩

/-- The lines of R30, in their order. -/
theorem detectFull_lines :
    (c.current < 0 ∨ (l.fullCurrent : Int) < c.current →
      (c.detectFull l now cut).fullTimer = none ∧ (c.detectFull l now cut).standsAs c)
    ∧ (0 ≤ c.current → c.current ≤ l.fullCurrent →
      (cut = true ∨ c.fullTimer = none →
        (c.detectFull l now cut).fullTimer = some now ∧ (c.detectFull l now cut).standsAs c)
      ∧ ∀ t, cut = false → c.fullTimer = some t →
        (now < t + l.fullHoldMin * 60000 →
          (c.detectFull l now cut).fullTimer = some t ∧ (c.detectFull l now cut).standsAs c)
        ∧ (t + l.fullHoldMin * 60000 ≤ now → c.detectFull l now cut =
          { c with qBal := 0, fine := 0, assumed := false, floor := false, gap := false, fullTimer := some now })) := by
  have alike : ∀ d : Option Nat, ({ c with fullTimer := d } : Charge).standsAs c := fun _ => ⟨rfl, rfl, rfl, rfl, rfl⟩
  unfold Charge.detectFull
  refine ⟨fun h => ?_, fun h0 h1 => ⟨fun h => ?_, fun t hcut ht => ⟨fun h => ?_, fun h => ?_⟩⟩⟩
  · rw [if_pos h]; exact ⟨rfl, alike none⟩
  · rw [if_neg (by omega)]
    rcases h with h | h
    · rw [if_pos h]; exact ⟨rfl, alike _⟩
    · rw [h]; split <;> exact ⟨rfl, alike _⟩
  · rw [if_neg (by omega), hcut, ht]
    simp only [Bool.false_eq_true, if_false]
    rw [if_neg (by omega)]
    exact ⟨ht, rfl, rfl, rfl, rfl, rfl⟩
  · rw [if_neg (by omega), hcut, ht]
    simp only [Bool.false_eq_true, if_false]
    rw [if_pos h]

/-- The discharge judgement leaves all else of an account (R31). -/
theorem judgeDischarging_kept : c.judgeDischarging l now cut = { c with
    disStart := (c.judgeDischarging l now cut).disStart, discharging := (c.judgeDischarging l now cut).discharging } := by
  unfold Charge.judgeDischarging
  repeat' split
  all_goals rfl

/-- The lines of R31, in their order. -/
theorem judgeDischarging_lines :
    (-(l.dischargeCurrent : Int) < c.current →
      (c.judgeDischarging l now cut).disStart = none ∧ (c.judgeDischarging l now cut).discharging = false)
    ∧ (c.current ≤ -(l.dischargeCurrent : Int) →
      (c.disStart = none → (c.judgeDischarging l now cut).disStart = some now
        ∧ (c.judgeDischarging l now cut).discharging = c.discharging)
      ∧ ∀ t, c.disStart = some t →
        (cut = true → c.discharging = false →
          (c.judgeDischarging l now cut).disStart = some now ∧ (c.judgeDischarging l now cut).discharging = false)
        ∧ (cut = false ∨ c.discharging = true →
          (c.judgeDischarging l now cut).disStart = some t ∧ (c.judgeDischarging l now cut).discharging
            = if t + l.dischargeConfirmS * 1000 ≤ now then true else c.discharging)) := by
  unfold Charge.judgeDischarging
  refine ⟨fun h => ?_, fun h => ⟨fun hd => ?_, fun t hd => ⟨fun hcut hn => ?_, fun hk => ?_⟩⟩⟩
  · rw [if_pos h]; exact ⟨rfl, rfl⟩
  · rw [if_neg (by omega), hd]; exact ⟨rfl, rfl⟩
  · rw [if_neg (by omega)]
    split
    · next h => rw [hd] at h; cases h
    · rw [if_pos (by rw [hcut, hn]; rfl)]; exact ⟨rfl, hn⟩
  · have hno : (cut && !c.discharging) = false := by rcases hk with h | h <;> rw [h] <;> simp
    rw [if_neg (by omega)]
    split
    · next h => rw [hd] at h; cases h
    · next u h =>
      obtain rfl : u = t := by rw [hd] at h; exact (Option.some.inj h).symm
      rw [if_neg (by rw [hno]; decide)]
      by_cases he : u + l.dischargeConfirmS * 1000 ≤ now
      · rw [if_pos he, if_pos he]; exact ⟨hd, rfl⟩
      · rw [if_neg he, if_neg he]; exact ⟨hd, rfl⟩

end

/-- The items of an account that a hand-off keeps and that a reading judges (R30, R31). -/
theorem Charge.judged_of_kept {c d : Charge} (h : c.kept = d.kept) :
    c.fullTimer = d.fullTimer ∧ c.disStart = d.disStart ∧ c.discharging = d.discharging ∧ c.wAcc = d.wAcc := by
  unfold Charge.kept at h
  simp only [Charge.mk.injEq] at h
  tauto

/-- The account that the two judgements of a reading leave, `full` where full detection is made (R30). -/
def Charge.judgedFor (l : Limits) (now : Nat) (cut full : Bool) (c : Charge) : Charge :=
  (if full then c.detectFull l now cut else c).judgeDischarging l now cut

section
variable {l : Limits} {now : Nat} {cut full : Bool} {c d : Charge}

/-- Full detection is not disturbed by the discharge judgement after it, nor by hand-offs. -/
theorem judgedFor_detects (h : d.kept = (c.judgedFor l now cut full).kept) :
    d.fullTimer = (if full then c.detectFull l now cut else c).fullTimer
      ∧ d.standsAs (if full then c.detectFull l now cut else c) ∧ d.oTotal = c.oTotal ∧ d.wAcc = c.wAcc := by
  obtain ⟨hbal, hfine, hassumed, hfloor, hgap, -, hover, -⟩ := Charge.fields_of_kept h
  obtain ⟨htimer, -, -, hacc⟩ := Charge.judged_of_kept h
  obtain ⟨-, -, -, ho, hw⟩ := detectFull_kept l now cut c
  unfold Charge.judgedFor at hbal hfine hassumed hfloor hgap hover htimer hacc
  rw [judgeDischarging_kept] at hbal hfine hassumed hfloor hgap hover htimer hacc
  refine ⟨htimer, ⟨hbal, hfine, hassumed, hfloor, hgap⟩, hover.trans ?_, hacc.trans ?_⟩
  · cases full
    · rfl
    · exact ho
  · cases full
    · rfl
    · exact hw

/-- The discharge judgement finds its items as the integration left them, full detection or not (R31). -/
theorem judgedFor_discharges (h : d.kept = (c.judgedFor l now cut full).kept) :
    (-(l.dischargeCurrent : Int) < c.current → d.disStart = none ∧ d.discharging = false)
    ∧ (c.current ≤ -(l.dischargeCurrent : Int) →
      (c.disStart = none → d.disStart = some now ∧ d.discharging = c.discharging)
      ∧ ∀ t, c.disStart = some t →
        (cut = true → c.discharging = false → d.disStart = some now ∧ d.discharging = false)
        ∧ (cut = false ∨ c.discharging = true → d.disStart = some t ∧ d.discharging
            = if t + l.dischargeConfirmS * 1000 ≤ now then true else c.discharging)) := by
  obtain ⟨-, hstart, hdis, -⟩ := Charge.judged_of_kept h
  rw [hstart, hdis]
  unfold Charge.judgedFor
  cases full
  · exact judgeDischarging_lines l now cut c
  · obtain ⟨h1, h2, h3, -, -⟩ := detectFull_kept l now cut c
    have hl := judgeDischarging_lines l now cut (c.detectFull l now cut)
    rw [h1, h2, h3] at hl
    exact hl

end

/-! ### What a reading makes of the records -/

/-- What the taking of a reading leaves but for the cell records and the string records, of which it moves accounts, readings
and charge_in_C (R10, R22 to R27). -/
structure State.Accounted (i : Str) (s t : State) : Prop where
  eq : t = { s with cells := t.cells, strings := t.strings, busVoltage := t.busVoltage }
  control : ∀ j, t.control j = { s.control j with chargeIn := (t.control j).chargeIn }
  charge : ∀ j, j ≠ i → t.charge j = s.charge j

section
variable {i : Str} {s t u : State}

theorem State.Accounted.refl (i : Str) (s : State) : s.Accounted i s := ⟨rfl, fun _ => rfl, fun _ _ => rfl⟩

theorem State.Accounted.trans (h : s.Accounted i t) (k : t.Accounted i u) : s.Accounted i u where
  eq := by rw [k.eq, h.eq]
  control j := by rw [k.control j, h.control j]
  charge j hj := (k.charge j hj).trans (h.charge j hj)

theorem accounted_ite {c : Prop} [Decidable c] (h : s.Accounted i t) (k : s.Accounted i u) :
    s.Accounted i (if c then t else u) := by split <;> assumption

theorem accounted_modCharge (s : State) (i : Str) (f : Charge → Charge) : s.Accounted i (s.modCharge i f) :=
  ⟨rfl, fun j => by simp, fun _ h => s.modCharge_charge_ne (Ne.symm h) f⟩

theorem accounted_modReading (s : State) (i : Str) (f : Reading → Reading) : s.Accounted i (s.modReading i f) :=
  ⟨rfl, fun j => by simp, fun j _ => by simp⟩

theorem accounted_chargeIn (s : State) (i : Str) (n : Nat → Nat) :
    s.Accounted i (s.modControl i fun c => { c with chargeIn := n c.chargeIn }) := by
  refine ⟨rfl, fun j => ?_, fun j _ => by simp⟩
  by_cases e : i = j
  · rw [← e, State.modControl_control]
  · rw [State.modControl_control_ne s e]

theorem accrueWater_eq (s : State) (i : Str) (mg : Nat) :
    s.accrueWater i mg = { s with cells := (s.accrueWater i mg).cells } := by
  have key : ∀ (l : List Pos) (u : State), (l.foldl (fun s p => s.modCell (cellIx i p) (Cell.accrue mg)) u)
      = { u with cells := (l.foldl (fun s p => s.modCell (cellIx i p) (Cell.accrue mg)) u).cells } := by
    intro l
    induction l with
    | nil => exact fun _ => rfl
    | cons p l ih => intro u; rw [List.foldl_cons, ih]; rfl
  unfold State.accrueWater
  split
  · rfl
  · exact key _ s

theorem accounted_accrueWater (s : State) (i : Str) (mg : Nat) : s.Accounted i (s.accrueWater i mg) := by
  rw [accrueWater_eq]
  exact ⟨rfl, fun _ => rfl, fun _ _ => rfl⟩

theorem accrueWater_charge (s : State) (i : Str) (mg : Nat) (j : Str) : (s.accrueWater i mg).charge j = s.charge j := by
  rw [accrueWater_eq]; rfl

end

/-- The terminal voltage of a reading is stored, and the bus voltage recomputed (R10, R17). -/
def State.voltageTaken (s : State) (i : Str) (v : Option Nat) : State :=
  match v with
  | some v =>
    let t := s.modReading i fun q => { q with terminalV := some v, lastTV := some s.now, tvExpiry := some (s.now + s.staleMs) }
    if t.inState i .onBus then { t with busVoltage := t.judgeBusVoltage } else t
  | none => s

/-- What the integration of a reading of current `a` gives the account of `i` (R22). -/
def State.integrated (s : State) (i : Str) (a : Int) : Integrated :=
  (s.charge i).integrate (s.cfg i).capacityC (s.cfg i).etaPct s.gapMs s.now a

/-- The integration has reached the account, charge_in_C and the cells (R22 to R27). -/
def State.chargeTaken (s : State) (i : Str) (a : Int) : State :=
  let t := s.modCharge i fun _ => (s.integrated i a).charge
  (if 0 < (s.integrated i a).whole ∧ t.bound i then
    t.modControl i fun c => { c with chargeIn := satAdd sat32 c.chargeIn (s.integrated i a).whole.toNat }
  else t).accrueWater i (s.integrated i a).mg

/-- The account has been judged too (R30, R31). -/
def State.accountTaken (s : State) (i : Str) (a : Int) : State :=
  let cut := (s.charge i).cutBy s.gapMs s.now
  let t := s.chargeTaken i a
  if t.limitsLoaded then
    let t := if t.inState i .onBus then t.modCharge i (Charge.detectFull t.lim t.now cut) else t
    t.modCharge i (Charge.judgeDischarging t.lim t.now cut)
  else t

theorem integrateReading_eq (s : State) (i : Str) (a : Int) : s.integrateReading i a =
    (((s.accountTaken i a).accountChanged i (s.charge i)).onSlotOf i fun sl s => s.judgeCriterion sl).rejudgeDischarge := rfl

theorem absorbShunt_eq {r : ShuntReading} (h : r.sensorFault = false) (s : State) (i : Str) : s.absorbShunt i r =
    (if r.terminalV.isSome then ((s.voltageTaken i r.terminalV).integrateReading i r.current).judgeWindow i
      else (s.voltageTaken i r.terminalV).integrateReading i r.current).handBus s.busVoltage := by
  unfold State.absorbShunt
  rw [if_neg (by rw [h]; exact Bool.false_ne_true)]
  rfl

theorem accounted_voltageTaken (s : State) (i : Str) (v : Option Nat) :
    s.Accounted i (s.voltageTaken i v) ∧ ∀ j, (s.voltageTaken i v).charge j = s.charge j := by
  unfold State.voltageTaken
  split
  · next v =>
    have h := accounted_modReading s i
      fun q => { q with terminalV := some v, lastTV := some s.now, tvExpiry := some (s.now + s.staleMs) }
    have hj : ∀ j, (s.modReading i
        fun q => { q with terminalV := some v, lastTV := some s.now, tvExpiry := some (s.now + s.staleMs) }).charge j
          = s.charge j := fun j => by simp
    generalize s.modReading i _ = t at h hj
    refine ⟨h.trans (accounted_ite ⟨rfl, fun _ => rfl, fun _ _ => rfl⟩ (.refl ..)), fun j => ?_⟩
    dsimp only
    split <;> exact hj j
  · exact ⟨.refl .., fun _ => rfl⟩

theorem accounted_chargeTaken (s : State) (i : Str) (a : Int) : s.Accounted i (s.chargeTaken i a) :=
  (accounted_modCharge s i _).trans
    ((accounted_ite (accounted_chargeIn _ i (satAdd sat32 · _)) (.refl ..)).trans (accounted_accrueWater _ i _))

theorem chargeTaken_charge (s : State) (i : Str) (a : Int) : (s.chargeTaken i a).charge i = (s.integrated i a).charge := by
  unfold State.chargeTaken
  rw [accrueWater_charge]
  split <;> simp

theorem State.Accounted.limitsLoaded {i : Str} {s t : State} (h : s.Accounted i t) : t.limitsLoaded = s.limitsLoaded := by
  rw [h.eq]; rfl
theorem State.Accounted.lim {i : Str} {s t : State} (h : s.Accounted i t) : t.lim = s.lim := by rw [h.eq]; rfl
theorem State.Accounted.now {i : Str} {s t : State} (h : s.Accounted i t) : t.now = s.now := by rw [h.eq]
theorem State.Accounted.inState {i : Str} {s t : State} (h : s.Accounted i t) (j : Str) (x : StringState) :
    t.inState j x = s.inState j x := by
  unfold State.inState; rw [h.control j]

theorem accounted_accountTaken (s : State) (i : Str) (a : Int) : s.Accounted i (s.accountTaken i a) :=
  (accounted_chargeTaken s i a).trans
    (accounted_ite ((accounted_ite (accounted_modCharge ..) (.refl ..)).trans (accounted_modCharge ..)) (.refl ..))

/-- The account once a reading has been taken and judged: full detection in ON_BUS alone, then the discharge judgement. -/
theorem accountTaken_charge {s : State} (hl : s.limitsLoaded = true) (i : Str) (a : Int) :
    (s.accountTaken i a).charge i =
      (s.integrated i a).charge.judgedFor s.lim s.now ((s.charge i).cutBy s.gapMs s.now) (s.inState i .onBus) := by
  have h := accounted_chargeTaken s i a
  unfold State.accountTaken Charge.judgedFor
  dsimp only
  rw [if_pos (h.limitsLoaded.trans hl), State.modCharge_charge, h.inState]
  split
  · rw [State.modCharge_charge, chargeTaken_charge, State.modCharge_lim, State.modCharge_now, h.lim, h.now]
  · rw [chargeTaken_charge, h.lim, h.now]

/-! ### The DISCHARGE condition (R32, R33) -/

theorem judgeDischarge_iff (s : State) : s.judgeDischarge = true ↔
    ∃ j, (s.cfg j).present = true ∧ (s.control j).state = .onBus ∧ (s.charge j).discharging = true := by
  unfold State.judgeDischarge State.inState
  simp only [List.any_eq_true, State.mem_presentStrs, Bool.and_eq_true, beq_iff_eq]

theorem rejudgeDischarge_discharge (s : State) : s.rejudgeDischarge.discharge = s.judgeDischarge := by
  unfold State.rejudgeDischarge
  split
  · next h => exact h.symm
  · split
    · next h => rw [h]; exact dischargeBegins_discharge s
    · next h =>
      rw [Bool.not_eq_true] at h
      rw [h, State.dischargeEnds]
      split <;> rfl

theorem rejudgeDischarge_same {s : State} (h : s.judgeDischarge = s.discharge) : s.rejudgeDischarge = s := if_pos h

theorem rejudgeDischarge_begins {s : State} (h : s.discharge = false) (k : s.judgeDischarge = true) :
    s.rejudgeDischarge = s.dischargeBegins := by
  unfold State.rejudgeDischarge
  rw [if_neg (by rw [h, k]; decide), if_pos k]

theorem rejudgeDischarge_ends {s : State} (h : s.discharge = true) (k : s.judgeDischarge = false) :
    s.rejudgeDischarge = s.dischargeEnds := by
  unfold State.rejudgeDischarge
  rw [if_neg (by rw [h, k]; decide), if_neg (by rw [k]; decide)]

theorem notice_replies (s : State) (m : List Byte) :
    (s.mgmt.mode = .engaged → s.ring.replies.length < 8 → (s.notice m).ring.replies
      = s.ring.replies ++ [⟨s.lim.controllerAddr, s.ring.ownAddress, kindNotice, m⟩])
    ∧ (s.mgmt.mode = .transparent → (s.notice m).ring.replies = s.ring.replies) := by
  unfold State.notice State.engaged
  refine ⟨fun h k => ?_, fun h => ?_⟩
  · rw [h, if_pos (by decide), if_pos (show _ < replyCap from k)]; rfl
  · rw [h, if_neg (by decide)]

theorem notice_control (s : State) (m : List Byte) (j : Str) : (s.notice m).control j = s.control j := by
  unfold State.control State.str
  rw [notice_strings]

/-- An end cause DISCHARGE takes a NORMAL return to FAST where the bus is low or absent (R72). -/
theorem endCause_discharge_returning {s : State} {i : Str} (h : (s.control i).state = .returning)
    (hv : (s.control i).variant = some .normal) :
    ((s.endCause i .discharge).control i).variant = some (if s.busLowOrAbsent = true then .fast else .normal) := by
  unfold State.endCause
  rw [h]
  unfold State.causeInReturn
  dsimp only
  by_cases hb : s.busLowOrAbsent = true
  · rw [if_pos ⟨hv, hb⟩, if_pos hb]
    exact (changeVariant_control s i .fast).2.2
  · rw [if_neg (fun k => hb k.2), if_neg hb]
    exact hv

/-- Every string takes the end cause DISCHARGE (R32, R67, R72). -/
theorem eachStr_takes_discharge {s t : State} (ht : t = s.eachStr fun i s => s.endCause i .discharge) (j : Str) :
    ((s.control j).state = .called ∨ (s.control j).state = .equalising →
      (t.control j).state = .returning ∧ (t.control j).endReason = some .discharge
        ∧ (t.control j).endStamp = some s.mgmt.clock)
    ∧ ((s.control j).state = .returning → (s.control j).variant = some .normal →
      (t.control j).variant = some (if s.busLowOrAbsent = true then .fast else .normal)) := by
  obtain ⟨u, h, k⟩ := eachStr_endCause s j .discharge
  rw [← ht] at k
  rw [k.control, ← h.control, ← h.busLowOrAbsent, ← h.mgmt]
  refine ⟨fun hj => ?_, endCause_discharge_returning⟩
  have hend := endRound_ended u j .discharge
  rw [← endCause_away hj] at hend
  exact ⟨hend.state, hend.endReason, hend.endStamp⟩

/-- The beginning of DISCHARGE (R32): the holdoff ends, every string takes the cause, and the alarm is handed. -/
theorem dischargeBegins_hands (s : State) :
    s.dischargeBegins.holdoffEnd = none
    ∧ (∀ j, (s.control j).state = .called ∨ (s.control j).state = .equalising →
      (s.dischargeBegins.control j).state = .returning ∧ (s.dischargeBegins.control j).endReason = some .discharge
        ∧ (s.dischargeBegins.control j).endStamp = some s.mgmt.clock)
    ∧ (∀ j, (s.control j).state = .returning → (s.control j).variant = some .normal →
      (s.dischargeBegins.control j).variant = some (if s.busLowOrAbsent = true then .fast else .normal))
    ∧ s.dischargeBegins.mgmt = s.mgmt
    ∧ (s.mgmt.mode = .engaged → s.ring.replies.length < 8 → s.dischargeBegins.ring.replies
      = s.ring.replies ++ [⟨s.lim.controllerAddr, s.ring.ownAddress, 0x32, [0x03, 3]⟩])
    ∧ (s.mgmt.mode = .transparent → s.dischargeBegins.ring.replies = s.ring.replies) := by
  have hb : s.dischargeBegins
      = (({ s with discharge := true, holdoffEnd := none } : State).eachStr fun i s => s.endCause i .discharge).notice
          [0x03, 3] := rfl
  obtain ⟨hrep, hown, hhold, hmgmt, himg, -⟩ :=
    eachStr_endCause_kept { s with discharge := true, holdoffEnd := none } .discharge
  have hstr := eachStr_takes_discharge (s := { s with discharge := true, holdoffEnd := none }) rfl
  rw [hb]
  generalize State.eachStr _ _ = t at hrep hown hhold hmgmt himg hstr ⊢
  obtain ⟨hsent, hkept⟩ := notice_replies t [0x03, 3]
  have hlim : t.lim = s.lim := by unfold State.lim; rw [himg]
  rw [hmgmt, hrep, hown, hlim] at hsent
  rw [hmgmt, hrep] at hkept
  refine ⟨?_, fun j => ?_, fun j => ?_, ?_, hsent, hkept⟩
  · rw [notice_eq]; exact hhold
  · rw [notice_control]; exact (hstr j).1
  · rw [notice_control]; exact (hstr j).2
  · rw [notice_eq]; exact hmgmt

/-- The end of DISCHARGE (R33). -/
theorem dischargeEnds_hands (s : State) :
    (if s.lim.dischargeHoldoffMin = 0 then s.dischargeEnds.holdoffEnd = s.holdoffEnd ∧ s.dischargeEnds.marks.scan = true
      else s.dischargeEnds.holdoffEnd = some (s.now + s.lim.dischargeHoldoffMin * 60000))
    ∧ (∀ j, s.dischargeEnds.control j = s.control j) ∧ s.dischargeEnds.mgmt = s.mgmt := by
  unfold State.dischargeEnds
  split
  · exact ⟨⟨rfl, rfl⟩, fun _ => rfl, rfl⟩
  · exact ⟨rfl, fun _ => rfl, rfl⟩

/-! ### The reading as a whole -/

/-- A SHUNT payload whose sensor is not at fault (11.2). -/
theorem readShunt_bytes (c1 c0 v1 v0 st : Byte) (rest : List Byte) :
    ∃ v, readShunt (c1 :: c0 :: v1 :: v0 :: st :: rest) = some ⟨(c1 ++ c0).toInt, v, st.getLsbD 0⟩ := by
  rw [readShunt, if_neg (by simp)]
  simp only [field, u8, sfield, List.getD_cons_succ, List.getD_cons_zero, Nat.zero_mul, Nat.zero_add, Nat.add_zero]
  rw [bit_zero, signedOf_append]
  exact ⟨_, rfl⟩

/-- A SHUNT frame whose source has the role of a shunt reaches the account of its string (R3). -/
theorem absorb_shunt {s : State} {f : Frame} {i : Str} {r : ShuntReading} (hr : s.roleOf f.src = some (.shunt i))
    (hk : f.kind = kindShunt) (hp : readShunt f.payload = some r) : s.absorb f = s.absorbShunt i r := by
  unfold State.absorb
  rw [hr]
  dsimp only
  rw [if_pos hk, hp]

/-- The parts of an absorbed SHUNT reading: the account taken and judged, its changes handed on, DISCHARGE judged, and the bus
voltage handed on (R10, R22 to R33). -/
theorem absorbShunt_parts {s : State} (hl : s.limitsLoaded = true) {r : ShuntReading} (h : r.sensorFault = false) (i : Str) :
    ∃ a p, s.Accounted i a
      ∧ a.charge i = (s.integrated i r.current).charge.judgedFor s.lim s.now ((s.charge i).cutBy s.gapMs s.now)
          (s.inState i .onBus)
      ∧ a.Calm p ∧ (∀ j, p.control j = a.control j) ∧ p.rejudgeDischarge.Calm (s.absorbShunt i r) := by
  obtain ⟨hv, hvc⟩ := accounted_voltageTaken s i r.terminalV
  have ha := accountTaken_charge (hv.limitsLoaded.trans hl) i r.current
  have hg : (s.voltageTaken i r.terminalV).gapMs = s.gapMs := by rw [hv.eq]; rfl
  have hi : (s.voltageTaken i r.terminalV).integrated i r.current = s.integrated i r.current := by
    unfold State.integrated
    rw [hvc, hg, hv.now, show (s.voltageTaken i r.terminalV).cfg i = s.cfg i by rw [hv.eq]; rfl]
  rw [hv.inState, hi, hg, hvc, hv.lim, hv.now] at ha
  rw [absorbShunt_eq h, integrateReading_eq]
  have hchanged := calm_accountChanged ((s.voltageTaken i r.terminalV).accountTaken i r.current) i
    ((s.voltageTaken i r.terminalV).charge i)
  refine ⟨_, _, hv.trans (accounted_accountTaken ..), ha, hchanged.trans
    (calm_onSlotOf _ i fun sl u => calm_judgeCriterion u sl), fun j => ?_, ?_⟩
  · exact (onSlotOf_control _ i (fun sl u => judgeCriterion_control u sl) j).trans (accountChanged_control ..)
  exact (calm_ite (calm_judgeWindow ..) (.refl _)).trans (calm_handBus ..)

/-- What the judgement of DISCHARGE hands on at the end of an event that leaves the rounds alone (R32, R33). -/
structure State.DischargeJudged (s w : State) : Prop where
  iff : w.discharge = true ↔ ∃ j, (s.cfg j).present = true ∧ (s.control j).state = .onBus ∧ (w.charge j).discharging = true
  begins : s.discharge = false → w.discharge = true → w.holdoffEnd = none
    ∧ (∀ j, (s.control j).state = .called ∨ (s.control j).state = .equalising →
      (w.control j).state = .returning ∧ (w.control j).endReason = some .discharge ∧ (w.control j).endStamp = some s.mgmt.clock)
    ∧ (∀ j, (s.control j).state = .returning → (s.control j).variant = some .normal →
      (w.control j).variant = some (if w.busLowOrAbsent = true then .fast else .normal))
    ∧ (s.mgmt.mode = .engaged → s.ring.replies.length < 8 → w.ring.replies
      = s.ring.replies ++ [⟨s.lim.controllerAddr, s.ring.ownAddress, 0x32, [0x03, 3]⟩])
    ∧ (s.mgmt.mode = .transparent → w.ring.replies = s.ring.replies)
  ends : s.discharge = true → w.discharge = false →
    if s.lim.dischargeHoldoffMin = 0 then w.holdoffEnd = s.holdoffEnd ∧ w.marks.scan = true
    else w.holdoffEnd = some (s.now + s.lim.dischargeHoldoffMin * 60000)
  stays : w.discharge = s.discharge → w.holdoffEnd = s.holdoffEnd ∧ w.ring.replies = s.ring.replies
  quiet : w.discharge = s.discharge ∨ w.discharge = false →
    ∀ j, (w.control j).state = (s.control j).state ∧ (w.control j).endReason = (s.control j).endReason
  fixed : w.water = s.water ∧ w.mgmt = s.mgmt ∧ w.images = s.images

/-- The judgement of DISCHARGE in a state `s`, and hand-offs after it that end no round. -/
theorem dischargeJudged {s w : State} (h : s.rejudgeDischarge.Calm w) : s.DischargeJudged w := by
  have hd : w.discharge = s.judgeDischarge := ((h.handed.calm rfl).2.1).trans (rejudgeDischarge_discharge s)
  have hh : State.Handed true true s s.rejudgeDischarge := handed_rejudgeDischarge (.refl s)
  have hbus : w.busLowOrAbsent = s.busLowOrAbsent := h.handed.busLowOrAbsent.trans hh.busLowOrAbsent
  have hmgmt : s.rejudgeDischarge.mgmt = s.mgmt := by
    unfold State.rejudgeDischarge
    split
    · rfl
    · split
      · exact (dischargeBegins_hands s).2.2.2.1
      · exact (dischargeEnds_hands s).2.2
  have hstate : ∀ j, (w.control j).state = (s.rejudgeDischarge.control j).state := (h.handed.calm rfl).2.2
  refine ⟨?_, fun h0 h1 => ?_, fun h0 h1 => ?_, fun h0 => ?_, fun h0 j => ?_,
    h.handed.water.trans hh.water, h.mgmt.trans hmgmt, h.handed.images.trans hh.images⟩
  · have hc : ∀ j, (w.charge j).discharging = (s.charge j).discharging := fun j =>
      (Charge.judged_of_kept ((h.handed.charge j).trans (hh.charge j))).2.2.1
    simp only [hd, judgeDischarge_iff, hc]
  · rw [hd] at h1
    rw [rejudgeDischarge_begins h0 h1] at h hstate
    obtain ⟨hhold, hends, hret, -, hsent, hkept⟩ := dischargeBegins_hands s
    refine ⟨h.holdoffEnd.trans hhold, fun j hj => ?_, fun j hj hv => ?_, fun hm hl => h.replies.trans (hsent hm hl),
      fun hm => h.replies.trans (hkept hm)⟩
    · obtain ⟨h2, h3, h4⟩ := hends j hj
      exact ⟨(hstate j).trans h2, (h.ends j).1.trans h3, (h.ends j).2.trans h4⟩
    · have hv' := hret j hj hv
      rw [h.variant j fun k => ?_, hv', hbus]
      rw [hv'] at k
      rw [← h.handed.busLowOrAbsent, hbus]
      by_contra hlow
      rw [Bool.not_eq_false] at hlow
      rw [if_pos hlow] at k
      cases k
  · rw [hd] at h1
    rw [rejudgeDischarge_ends h0 h1] at h
    have hends := (dischargeEnds_hands s).1
    split at hends
    · next hz => rw [if_pos hz]; exact ⟨h.holdoffEnd.trans hends.1, h.handed.scan hends.2⟩
    · next hz => rw [if_neg hz]; exact h.holdoffEnd.trans hends
  · rw [rejudgeDischarge_same (hd.symm.trans h0)] at h
    exact ⟨h.holdoffEnd, h.replies⟩
  · have hc : s.rejudgeDischarge.control j = s.control j := by
      unfold State.rejudgeDischarge
      split
      · rfl
      · next hne =>
        rw [hd] at h0
        rcases h0 with h0 | h0
        · exact absurd h0 hne
        · rw [if_neg (by rw [h0]; decide)]; exact (dischargeEnds_hands s).2.1 j
    rw [hstate, (h.ends j).1, hc]
    exact ⟨rfl, rfl⟩

/-- The judgement of DISCHARGE reaches the end of the event through what moves the Ring Port and the account alone. -/
theorem State.DischargeJudged.of_parts {s a p w : State} {i : Str} (ha : s.Accounted i a) (hp : a.Calm p)
    (hc : ∀ j, p.control j = a.control j) (hw : p.DischargeJudged w) : s.DischargeJudged w := by
  have hcfg : ∀ j, p.cfg j = s.cfg j := fun j => by rw [hp.handed.cfg, ha.eq]; rfl
  have hlim : p.lim = s.lim := by unfold State.lim; rw [hp.handed.images, ha.eq]
  have hcontrol : ∀ j, p.control j = { s.control j with chargeIn := (a.control j).chargeIn } := fun j => by
    rw [hc, ha.control]
  have hmgmt : p.mgmt = s.mgmt := by rw [hp.mgmt, ha.eq]
  have hreplies : p.ring.replies = s.ring.replies := by rw [hp.replies, ha.eq]
  have hown : p.ring.ownAddress = s.ring.ownAddress := by rw [hp.own, ha.eq]
  have hhold : p.holdoffEnd = s.holdoffEnd := by rw [hp.holdoffEnd, ha.eq]
  have hdis : p.discharge = s.discharge := by rw [(hp.handed.calm rfl).2.1, ha.eq]
  have hnow : p.now = s.now := hp.handed.now.trans ha.now
  have hwater : p.water = s.water := by rw [hp.handed.water, ha.eq]
  have himages : p.images = s.images := by rw [hp.handed.images, ha.eq]
  obtain ⟨hiff, hbegins, hends, hstays, hquiet, hfixed⟩ := hw
  simp only [hcfg, hlim, hcontrol, hmgmt, hreplies, hown, hhold, hdis, hnow, hwater, himages]
    at hiff hbegins hends hstays hquiet hfixed
  exact ⟨hiff, hbegins, hends, hstays, hquiet, hfixed⟩

section
variable {s : State} {dt : Nat}

theorem State.heard_charge (i : Str) : (s.begin dt).heard.charge i = s.charge i := s.begin_charge dt i

/-- What the passing of time and the restart of the silence leave of what DISCHARGE is judged on. -/
theorem State.DischargeJudged.of_heard {w : State} (h : (s.begin dt).heard.DischargeJudged w) :
    State.DischargeJudged { s with now := s.now + dt } w := by
  have himages := s.heard_images dt
  have hcfg : ∀ j, (s.begin dt).heard.cfg j = s.cfg j := s.begin_cfg dt
  have hlim : (s.begin dt).heard.lim = s.lim := s.begin_lim dt
  have hmgmt : (s.begin dt).heard.mgmt = s.mgmt := s.begin_mgmt dt
  have hring : (s.begin dt).heard.ring.replies = s.ring.replies ∧ (s.begin dt).heard.ring.ownAddress = s.ring.ownAddress := by
    unfold State.heard
    rw [State.modRing_ring, s.begin_ring]
    exact ⟨rfl, rfl⟩
  have hhold : (s.begin dt).heard.holdoffEnd = s.holdoffEnd := s.begin_holdoffEnd dt
  have hdis : (s.begin dt).heard.discharge = s.discharge := s.begin_discharge dt
  have hwater : (s.begin dt).heard.water = s.water := s.begin_water dt
  obtain ⟨hiff, hbegins, hends, hstays, hquiet, hfixed⟩ := h
  simp only [hcfg, hlim, s.heard_control dt, hmgmt, hring.1, hring.2, hhold, hdis, s.heard_now dt, hwater, himages]
    at hiff hbegins hends hstays hquiet hfixed
  exact ⟨hiff, hbegins, hends, hstays, hquiet, hfixed⟩

end

/-- Settles O56: the lines of R30 and R31 for the account, and the judgement of DISCHARGE at the end of the integration. -/
theorem readingsJudgeFullAndDischarge : Obligations.ReadingsJudgeFullAndDischarge := by
  unfold Obligations.ReadingsJudgeFullAndDischarge
  intro s dt b f i c1 c0 v1 v0 st rest amps now r hlast hsee hdst hrole hkind hpay hst hlim hamps hnow hr
  obtain ⟨w, hexec, hpass⟩ := exec_reading hlast hsee hdst (.inr (.inl hkind))
  obtain ⟨v, hv⟩ := readShunt_bytes c1 c0 v1 v0 st rest
  rw [absorb_shunt ((State.roleOf_congr (s.heard_images dt) _).trans hrole) hkind (by rw [hpay]; exact hv)] at hpass
  have hload : (s.begin dt).heard.limitsLoaded = true := (s.begin_limitsLoaded dt).trans hlim
  obtain ⟨a, p, hacc, hcharge, hcalm, hcontrol, hafter⟩ :=
    absorbShunt_parts hload (r := ⟨(c1 ++ c0).toInt, v, st.getLsbD 0⟩) hst i
  have hjudged := ((dischargeJudged hafter).of_parts hacc hcalm hcontrol).of_heard
  have hkept : (((s.begin dt).heard.absorbShunt i ⟨(c1 ++ c0).toInt, v, st.getLsbD 0⟩).charge i).kept = (a.charge i).kept :=
    (hafter.handed.charge i).trans (((handed_rejudgeDischarge (joins := true) (.refl p)).charge i).trans (hcalm.handed.charge i))
  have hint : (s.begin dt).heard.integrated i amps = r := by
    unfold State.integrated State.gapMs
    rw [hload, if_pos rfl, s.heard_charge, s.heard_now, hr, hnow,
      show (s.begin dt).heard.cfg i = s.cfg i from s.begin_cfg dt i, show (s.begin dt).heard.lim = s.lim from s.begin_lim dt]
    rfl
  generalize (s.begin dt).heard.absorbShunt i ⟨(c1 ++ c0).toInt, v, st.getLsbD 0⟩ = w₀ at hpass hjudged hkept
  have hgap : (s.begin dt).heard.gapMs = s.lim.gapMs := by
    unfold State.gapMs
    rw [hload, if_pos rfl]
    exact congrArg Limits.gapMs (s.begin_lim dt)
  have hon : (s.begin dt).heard.inState i .onBus = ((s.control i).state == .onBus) := by
    unfold State.inState; rw [s.heard_control]
  rw [hcharge, ← hamps, hint, hgap, hon, s.heard_charge, s.heard_now, ← hnow,
    show (s.begin dt).heard.lim = s.lim from s.begin_lim dt] at hkept
  have hcur : r.charge.current = amps := by rw [hr]; rfl
  have htim : r.charge.fullTimer = (s.charge i).fullTimer := by rw [hr]; rfl
  have hds : r.charge.disStart = (s.charge i).disStart := by rw [hr]; rfl
  have hdg : r.charge.discharging = (s.charge i).discharging := by rw [hr]; rfl
  have hcut : (s.charge i).cutBy s.lim.gapMs now = true ↔ s.gapBefore i now := Charge.cutBy_iff ..
  obtain ⟨hw, -, hrep⟩ := hpass
  have hwc : ∀ j, w.charge j = w₀.charge j := fun j => by rw [hw]; rfl
  have hwk : ∀ j, w.control j = w₀.control j := fun j => by rw [hw]; rfl
  have hwd : w.discharge = w₀.discharge := by rw [hw]
  have hwh : w.holdoffEnd = w₀.holdoffEnd := by rw [hw]
  have hwm : w.marks = w₀.marks := by rw [hw]
  have hwb : w.busLowOrAbsent = w₀.busLowOrAbsent := by rw [hw]; rfl
  obtain ⟨hiff, hbegins, hends, hstays, hquiet, hwater, hmgmt, himages⟩ := hjudged
  generalize (s.charge i).cutBy s.lim.gapMs now = cut at hkept hcut
  have hncut : ¬ s.gapBefore i now ↔ cut = false := by rw [← hcut, Bool.not_eq_true]
  obtain ⟨htimer, hstands, hover, hwacc⟩ := judgedFor_detects hkept
  have hdischarges := judgedFor_discharges hkept
  have hlines := detectFull_lines s.lim now cut r.charge
  rw [hcur, hds, hdg] at hdischarges
  rw [hcur, htim] at hlines
  obtain ⟨hout, hin⟩ := hlines
  refine ⟨w, hexec, ?_⟩
  simp only [hwc, hwk, hwd, hwh, hwm, hwb, hrep, State.accountIs, ← hcut, Bool.not_eq_true]
  have hnow' : ({ s with now := s.now + dt } : State).now = now := hnow.symm
  rw [hnow'] at hends
  refine ⟨fun hne => ?_, fun heq => ?_, hdischarges.1, hdischarges.2, hiff, hbegins, hends, hstays, hquiet, ?_, ?_, ?_⟩
  · rw [beq_false_of_ne hne] at htimer
    exact htimer.trans htim
  · rw [heq] at htimer hstands
    refine ⟨fun hband => ?_, fun h0 h1 => ⟨fun hg => ?_, fun t hg ht hlt => ?_, fun t hg ht hle => ?_⟩⟩
    · obtain ⟨h2, h3⟩ := hout hband
      exact ⟨htimer.trans h2, hstands.trans h3⟩
    · obtain ⟨h2, h3⟩ := (hin h0 h1).1 hg
      exact ⟨htimer.trans h2, hstands.trans h3⟩
    · obtain ⟨h2, h3⟩ := ((hin h0 h1).2 t hg ht).1 hlt
      exact ⟨htimer.trans h2, hstands.trans h3⟩
    · have h2 := ((hin h0 h1).2 t hg ht).2 hle
      rw [beq_self_eq_true, if_pos rfl, h2] at htimer hstands
      obtain ⟨hbal, hfine, hassumed, hfloor, hgp⟩ := hstands
      exact ⟨htimer, hbal, hfine, hassumed, hfloor, hgp, hover, hwacc⟩
  · rw [hw]; exact hwater
  · rw [hw]; exact hmgmt
  · rw [hw]; exact himages

end Sys2Proof.Machine

/-! ## Joining the Round Queue (R107 to R109) -/

namespace Sys2Proof.Machine

theorem Entry.merge_eq (o n : Entry) : o.merge n = { o with
    priority := if n.priority = .urgent then .urgent else o.priority
    origin := if o.origin.rank ≤ n.origin.rank then n.origin else o.origin
    recipe := if o.origin.rank ≤ n.origin.rank then n.recipe else o.recipe
    reason := if o.origin.rank ≤ n.origin.rank then n.reason else o.reason } := by
  unfold Entry.merge
  dsimp only
  split <;> rfl

/-- The entry that an enqueue leaves for its string and kind: the new one, or the merge into the one queued (R108, R109). -/
theorem enqueue_entry (s : State) (n : Entry) :
    n ∈ (s.enqueue n).queue ∧ (∀ x ∈ s.queue, x.named n.string n.kind = false)
    ∨ ∃ o ∈ s.queue, o.named n.string n.kind = true ∧ o.merge n ∈ (s.enqueue n).queue := by
  unfold State.enqueue
  split
  · rename_i o ho
    have hold := List.find?_some ho
    refine .inr ⟨o, List.mem_of_find?_eq_some ho, hold, ?_⟩
    change o.merge n ∈ mergeQueue o n s.queue
    unfold mergeQueue
    split
    · exact (mem_joinQueue ..).mpr (.inl rfl)
    · exact List.mem_map.mpr ⟨o, List.mem_of_find?_eq_some ho, if_pos hold⟩
  · next h => exact .inl ⟨(mem_joinQueue ..).mpr (.inl rfl), find_none_named h⟩

/-- An enqueue leaves the entries of every other string and kind as they stand, and brings none of them. -/
theorem enqueue_others (s : State) (n e : Entry) (h : e.named n.string n.kind = false) :
    e ∈ (s.enqueue n).queue ↔ e ∈ s.queue := by
  have hn : e ≠ n := by rintro rfl; simp [Entry.named] at h
  unfold State.enqueue
  split
  · rename_i o ho
    have hold := List.find?_some ho
    have hm : e ≠ o.merge n := by
      rintro rfl
      rw [Entry.merge_named, hold] at h
      cases h
    change e ∈ mergeQueue o n s.queue ↔ _
    unfold mergeQueue
    split
    · rw [mem_joinQueue, List.mem_filter]
      simp [hm, h]
    · rw [List.mem_map]
      constructor
      · rintro ⟨x, hx, rfl⟩
        split at h
        · next hx' => rw [Entry.merge_named, hx'] at h; cases h
        · next hx' => rwa [if_neg hx']
      · exact fun he => ⟨e, he, if_neg (by rw [h]; decide)⟩
  · change e ∈ joinQueue n s.queue ↔ _
    rw [mem_joinQueue]
    simp [hn]

end Sys2Proof.Machine

/-! ## What a slot's own acts leave (R84 to R97) -/

namespace Sys2Proof.Machine

/-- What a slot's acts on its own record, its orders and the generator request leave. -/
structure State.SlotActs (sl : SlotId) (s t : State) : Prop where
  eq : t = { s with slotA := t.slotA, slotB := t.slotB, site := t.site, ring := t.ring }
  site : t.site = { s.site with
    genState := t.site.genState, genEnd := t.site.genEnd, genWidth := t.site.genWidth, genreq := t.site.genreq }
  ring : t.ring = { s.ring with orders := t.ring.orders, orderCount := t.ring.orderCount
                                counts := { s.ring.counts with orderDrop := t.ring.counts.orderDrop } }
  other : ∀ x, x ≠ sl → t.slot x = s.slot x

section
variable {sl : SlotId} {s t u : State}

theorem State.SlotActs.refl (sl : SlotId) (s : State) : s.SlotActs sl s := ⟨rfl, rfl, rfl, fun _ _ => rfl⟩

theorem State.SlotActs.trans (h : s.SlotActs sl t) (k : t.SlotActs sl u) : s.SlotActs sl u where
  eq := by rw [k.eq, h.eq]
  site := by rw [k.site, h.site]
  ring := by rw [k.ring, h.ring]
  other x hx := (k.other x hx).trans (h.other x hx)

theorem acts_ite {c : Prop} [Decidable c] (h : s.SlotActs sl t) (k : s.SlotActs sl u) :
    s.SlotActs sl (if c then t else u) := by split <;> assumption

theorem acts_modSlot (s : State) (sl : SlotId) (f : SlotRec → SlotRec) : s.SlotActs sl (s.modSlot sl f) where
  eq := by cases sl <;> rfl
  site := by rw [State.modSlot_site]
  ring := by rw [State.modSlot_ring]
  other x hx := State.modSlot_slot_ne s hx f

theorem acts_handRect (s : State) (sl : SlotId) (o : RectOrder) : s.SlotActs sl (s.handRect sl o) where
  eq := rfl
  site := rfl
  ring := (frame_handRect s 0 none sl o).ring
  other _ _ := handRect_slot ..

theorem acts_slotOrder (s : State) (sl : SlotId) (o : RectOrder) : s.SlotActs sl (s.slotOrder sl o) :=
  acts_ite (.refl ..) ((acts_modSlot ..).trans (acts_handRect ..))

theorem acts_genSite (s : State) (sl : SlotId) (f : Site → Site) (h : f s.site = { s.site with
    genState := (f s.site).genState, genEnd := (f s.site).genEnd, genWidth := (f s.site).genWidth
    genreq := (f s.site).genreq }) : s.SlotActs sl (s.modSite f) :=
  ⟨rfl, h, rfl, fun _ _ => State.modSite_slot ..⟩

theorem acts_genRequest (s : State) (sl : SlotId) : s.SlotActs sl s.genRequest := by
  unfold State.genRequest State.genPulse
  refine acts_ite ((acts_genSite s sl _ rfl).trans (acts_ite (acts_genSite _ sl _ rfl) (acts_genSite _ sl _ rfl))) (.refl ..)

theorem acts_judgeReasons (s : State) (sl : SlotId) : s.SlotActs sl (s.judgeReasons sl) :=
  (acts_modSlot s sl _).trans (acts_ite (acts_genRequest ..) (.refl ..))

theorem acts_judgeCriterion (s : State) (sl : SlotId) : s.SlotActs sl (s.judgeCriterion sl) := by
  rcases judgeCriterion_eq s sl with h | ⟨c, h⟩ <;> rw [h]
  · exact .refl ..
  · exact acts_modSlot ..

/-! ### What it leaves of the judged values -/

theorem State.SlotActs.images (h : s.SlotActs sl t) : t.images = s.images := by rw [h.eq]
theorem State.SlotActs.now (h : s.SlotActs sl t) : t.now = s.now := by rw [h.eq]
theorem State.SlotActs.mgmt (h : s.SlotActs sl t) : t.mgmt = s.mgmt := by rw [h.eq]
theorem State.SlotActs.queue (h : s.SlotActs sl t) : t.queue = s.queue := by rw [h.eq]
theorem State.SlotActs.strings (h : s.SlotActs sl t) : t.strings = s.strings := by rw [h.eq]
theorem State.SlotActs.water (h : s.SlotActs sl t) : t.water = s.water := by rw [h.eq]
theorem State.SlotActs.lim (h : s.SlotActs sl t) : t.lim = s.lim := by unfold State.lim; rw [h.images]
theorem State.SlotActs.cfg (h : s.SlotActs sl t) (j : Str) : t.cfg j = s.cfg j := by unfold State.cfg; rw [h.images]
theorem State.SlotActs.phase (h : s.SlotActs sl t) (n : Nat) : t.phase n = s.phase n := by unfold State.phase; rw [h.images]
theorem State.SlotActs.control (h : s.SlotActs sl t) (j : Str) : t.control j = s.control j := by
  unfold State.control State.str; rw [h.strings]
theorem State.SlotActs.reading (h : s.SlotActs sl t) (j : Str) : t.reading j = s.reading j := by
  unfold State.reading State.str; rw [h.strings]
theorem State.SlotActs.charge (h : s.SlotActs sl t) (j : Str) : t.charge j = s.charge j := by
  unfold State.charge State.str; rw [h.strings]
theorem State.SlotActs.sight (h : s.SlotActs sl t) : t.ring.sight = s.ring.sight := by rw [h.ring]
theorem State.SlotActs.busLowOrAbsent (h : s.SlotActs sl t) : t.busLowOrAbsent = s.busLowOrAbsent := by
  unfold State.busLowOrAbsent; rw [h.lim, h.eq]

/-! ### The slot's own record -/

theorem genRequest_slot (s : State) (sl : SlotId) : s.genRequest.slot sl = s.slot sl := by
  unfold State.genRequest State.genPulse
  dsimp only
  split
  · split <;> simp only [State.modSite_slot]
  · rfl

theorem judgeReasons_slot (s : State) (sl : SlotId) : ∃ e, (s.judgeReasons sl).slot sl
    = { s.slot sl with reasons := s.judgedReasons sl, sourceWaitStart := e } := by
  unfold State.judgeReasons
  dsimp only
  split
  · rw [genRequest_slot, State.modSlot_slot]; exact ⟨_, rfl⟩
  · rw [State.modSlot_slot]; exact ⟨_, rfl⟩

theorem slotOrder_slot (s : State) (sl : SlotId) (o : RectOrder) : ∃ e, (s.slotOrder sl o).slot sl
    = { s.slot sl with lastOrder := some o, lastOrderTime := e } := by
  unfold State.slotOrder
  split
  · next h => exact ⟨(s.slot sl).lastOrderTime, by rw [← h]⟩
  · rw [handRect_slot, State.modSlot_slot]; exact ⟨_, rfl⟩

theorem judgeCriterion_slot (s : State) (sl : SlotId) : ∃ e, (s.judgeCriterion sl).slot sl
    = { s.slot sl with critStart := e } := by
  rcases judgeCriterion_eq s sl with h | ⟨c, h⟩ <;> rw [h]
  · exact ⟨_, rfl⟩
  · rw [State.modSlot_slot]; exact ⟨_, rfl⟩

end

end Sys2Proof.Machine

/-! ## The start of an entry (R83 to R89) -/

namespace Sys2Proof.Machine

/-! ### The Site Line Unit after a start -/

theorem followSite_fixed (s : State) : s.followSite = { s with site := s.followSite.site } := rfl

theorem followSite_slot (s : State) (x : SlotId) : s.followSite.slot x = s.slot x := by cases x <;> rfl

theorem followSite_control (s : State) (j : Str) : s.followSite.control j = s.control j := by
  unfold State.control State.str; rw [followSite_strings]

theorem followSite_charge (s : State) (j : Str) : s.followSite.charge j = s.charge j := by
  unfold State.charge State.str; rw [followSite_strings]

/-- What an end of a round leaves, the Site Line Unit leaves too (R67). -/
theorem State.EndedFor.followSite {s w : State} {i : Str} {c : EndReason} (h : s.EndedFor w i c) :
    s.EndedFor w.followSite i c := by
  obtain ⟨h1, h2, h3, h4, h5, h6⟩ := h
  constructor <;> simp only [followSite_control, followSite_slot] <;> assumption

/-- The end of a round, seen from before a slot's acts that led to it. -/
theorem State.EndedFor.of_acts {s t w : State} {sl : SlotId} {i : Str} {c : EndReason} (h : s.SlotActs sl t)
    (k : t.EndedFor w i c) : s.EndedFor w i c := by
  obtain ⟨h1, h2, h3, h4, h5, h6⟩ := k
  rw [h.mgmt] at h3
  rw [h.control] at h4 h5
  rw [h.site, h.busLowOrAbsent] at h6
  exact ⟨h1, h2, h3, h4, h5, h6⟩

/-- The end of a round that a slot's acts lead to (R67, R103). -/
theorem slotEnds_ended {s t : State} {sl : SlotId} {i : Str} (h : s.SlotActs sl t) (hs : (t.slot sl).string = some i)
    (he : (s.control i).state = .equalising) (c : EndReason) : s.EndedFor (t.slotEnds sl c) i c := by
  have hd : t.slotEnds sl c = t.endRound i c := by
    unfold State.slotEnds
    rw [hs]
    exact endCause_away (.inr ((congrArg Control.state (h.control i)).trans he)) c
  rw [hd]
  exact (endRound_ended t i c).of_acts h

/-- A slot that ends its round is stopped, and keeps its place and its tallies (R100). -/
theorem slotEnds_slot {t : State} {sl : SlotId} {i : Str} (hs : (t.slot sl).string = some i)
    (hc : (t.control i).slot = some sl) (he : (t.control i).state = .equalising) (c : EndReason) :
    (t.slotEnds sl c).slot sl = (t.slot sl).stopped := by
  unfold State.slotEnds
  rw [hs]
  dsimp only
  rw [endCause_away (.inr he), endRound_slot hc]

/-! ### The state in which an entry starts -/

/-- The slot stands at the entry at index + 1, and what every start clears is cleared (R83). -/
def State.entered (s : State) (sl : SlotId) : State :=
  (s.modSlot sl fun r => { r with index := r.index + 1 }).modSlot sl SlotRec.entryReset

theorem acts_entered (s : State) (sl : SlotId) : s.SlotActs sl (s.entered sl) := (acts_modSlot ..).trans (acts_modSlot ..)

theorem entered_slot (s : State) (sl : SlotId) :
    (s.entered sl).slot sl = SlotRec.entryReset { s.slot sl with index := (s.slot sl).index + 1 } := by
  unfold State.entered
  rw [State.modSlot_slot, State.modSlot_slot]

/-- What a start finds: the kind of the entry decides (R83). -/
def State.startKind (s : State) (sl : SlotId) (fuel : Nat) : RecipeEntry → State
  | .phase id => s.startPhase sl id
  | .wait m => s.startWait sl m
  | .finish => s.slotEnds sl .complete
  | .water =>
    match (s.slot sl).string with
    | some i =>
      if (s.cfg i).hasManifold then s.startWater sl i
      else (s.modSlot sl fun r => { r with index := r.index + 1 }).startEntry sl fuel
    | none => s

theorem startEntry_succ {s : State} {sl : SlotId} (h : (s.slot sl).recipe ≠ 0) (fuel : Nat) :
    s.startEntry sl (fuel + 1)
      = (s.modSlot sl SlotRec.entryReset).startKind sl fuel (s.slotEntry sl) := by
  have hr : ((s.modSlot sl SlotRec.entryReset).slot sl).recipe ≠ 0 := by rw [State.modSlot_slot]; exact h
  have he : (s.modSlot sl SlotRec.entryReset).slotEntry sl = s.slotEntry sl := by
    unfold State.slotEntry
    rw [State.modSlot_slot, State.modSlot_images]
    rfl
  rw [State.startEntry, if_neg hr, he]
  cases s.slotEntry sl <;> rfl

/-- The next entry starts by its kind, and the Site Line Unit takes the activity (R83, R103). -/
theorem nextEntry_eq {s : State} {sl : SlotId} (h : (s.slot sl).recipe ≠ 0) :
    s.nextEntry sl = ((s.entered sl).startKind sl 12
      (recipeEntry s.images.recipe (s.slot sl).recipe ((s.slot sl).index + 1))).followSite := by
  unfold State.nextEntry State.startAt
  rw [startEntry_succ (by rw [State.modSlot_slot]; exact h)]
  unfold State.slotEntry
  rw [State.modSlot_slot, State.modSlot_images]
  rfl

/-! ### A PHASE entry (R84) -/

/-- The order that a phase asks for at its own i_set and the temperature `tc` (R59). -/
def State.phaseOrder (s : State) (i : Str) (p : PhaseRec) (tc : Int) : RectOrder :=
  if p.iSet = 0 then .off else .on (phaseMv s.lim p tc * (s.cfg i).cells / 10) p.iSet

/-- The reasons that stand at the start of a phase (R94). -/
def State.phaseReasons (s : State) (sl : SlotId) (p : PhaseRec) : Reasons where
  source := decide (0 < p.iSet) && !s.site.src.level
  stale := s.stale sl
  hot := decide (s.lim.gasMv ≤ p.vSet) && hotReason s.lim.hotLimit (s.slot sl).tc (s.slot sl).reasons.hot
  blind := decide (s.ring.sight = .warn)

/-- The phase has been taken up and its reasons judged (R84 steps 1 to 3). -/
def State.phaseTaken (s : State) (sl : SlotId) (id : Nat) : State :=
  (s.modSlot sl fun r => { r with
    dEff := match (s.slot sl).string with | some i => effectiveDuration (s.phase id) (s.cfg i) | none => 0
    limit := (s.phase id).iSet }).judgeReasons sl

theorem startPhase_eq (s : State) (sl : SlotId) (id : Nat) : s.startPhase sl id =
    match (s.phaseTaken sl id).stretchBarred sl with
    | some cause => (s.phaseTaken sl id).slotEnds sl cause
    | none =>
      if ((s.phaseTaken sl id).slot sl).reasons.inForce then
        (s.phaseTaken sl id).suspend sl .run ((s.phaseTaken sl id).entryOrder sl)
      else
        (((s.phaseTaken sl id).modSlot sl fun r => { r with entryState := some .run }).slotOrder sl
          (((s.phaseTaken sl id).modSlot sl fun r => { r with entryState := some .run }).entryOrder sl)).judgeCriterion sl := rfl

section
variable {s t : State} {sl : SlotId} {i : Str} {id : Nat}

/-- A state whose slot stands at the phase `id` in its recipe. -/
structure State.AtPhase (s : State) (sl : SlotId) (id : Nat) : Prop where
  recipe : (s.slot sl).recipe ≠ 0
  entry : recipeEntry s.images.recipe (s.slot sl).recipe (s.slot sl).index = .phase id

theorem stretch_of_phase (h : s.AtPhase sl id) : s.stretch sl = phaseStretch s.lim (s.phase id) := by
  unfold State.stretch State.slotEntry
  dsimp only
  rw [if_neg h.recipe, h.entry]

theorem stretchBarred_of_phase (h : s.AtPhase sl id) : s.stretchBarred sl =
    if 0 < (s.phase id).iSet ∧ s.site.allowance = 0 then some .allowance
    else if s.lim.gasMv ≤ (s.phase id).vSet ∧ s.site.fanFail = true then some .fanFail else none := by
  unfold State.stretchBarred
  rw [stretch_of_phase h]
  unfold phaseStretch
  simp only [decide_eq_true_eq]

theorem entryOrder_of_phase (h : s.AtPhase sl id) (hs : (s.slot sl).string = some i)
    (hl : (s.slot sl).limit = (s.phase id).iSet) {tc : Int} (ht : (s.slot sl).tc = some tc) :
    s.entryOrder sl = s.phaseOrder i (s.phase id) tc := by
  unfold State.entryOrder State.phaseOrder State.slotEntry State.slotCells SlotRec.tcOr orderVolts
  dsimp only
  rw [if_neg h.recipe, h.entry, hs, ht, hl]
  by_cases hz : (s.phase id).iSet = 0
  · rw [if_pos hz]; exact if_neg (by omega)
  · rw [if_neg hz]; exact if_pos (by omega)

theorem acts_phaseTaken (s : State) (sl : SlotId) (id : Nat) : s.SlotActs sl (s.phaseTaken sl id) :=
  (acts_modSlot ..).trans (acts_judgeReasons ..)

theorem phaseTaken_slot (h : s.AtPhase sl id) (hs : (s.slot sl).string = some i) :
    ∃ e, (s.phaseTaken sl id).slot sl = { s.slot sl with
      dEff := effectiveDuration (s.phase id) (s.cfg i), limit := (s.phase id).iSet
      reasons := s.phaseReasons sl (s.phase id), sourceWaitStart := e } := by
  unfold State.phaseTaken
  rw [hs]
  dsimp only
  set u := s.modSlot sl fun r => { r with dEff := effectiveDuration (s.phase id) (s.cfg i), limit := (s.phase id).iSet }
    with hu
  have hslot : u.slot sl = { s.slot sl with
      dEff := effectiveDuration (s.phase id) (s.cfg i), limit := (s.phase id).iSet } := by rw [hu, State.modSlot_slot]
  have hacts : s.SlotActs sl u := acts_modSlot ..
  have hat : u.AtPhase sl id := by
    refine ⟨?_, ?_⟩
    · rw [hslot]; exact h.recipe
    · rw [hslot, hacts.images]; exact h.entry
  obtain ⟨e, he⟩ := judgeReasons_slot u sl
  refine ⟨e, ?_⟩
  have hr : u.judgedReasons sl = s.phaseReasons sl (s.phase id) := by
    unfold State.judgedReasons State.phaseReasons State.stale
    rw [stretch_of_phase hat, hslot, hacts.lim, hacts.phase, hacts.sight, hacts.site]
    simp only [hacts.reading, hacts.cfg]
    rfl
  rw [he, hr, hslot]

theorem atPhase_phaseTaken (h : s.AtPhase sl id) (hs : (s.slot sl).string = some i) : (s.phaseTaken sl id).AtPhase sl id := by
  obtain ⟨e, he⟩ := phaseTaken_slot h hs
  refine ⟨?_, ?_⟩
  · rw [he]; exact h.recipe
  · rw [he, (acts_phaseTaken s sl id).images]; exact h.entry

end

end Sys2Proof.Machine

namespace Sys2Proof.Machine

/-! ### A phase runs, is suspended, or ends the round (R84, R95, R96) -/

/-- The place of an entry that has just started, and its timers (R83). -/
def SlotRec.startedAt (n d : Nat) (r : SlotRec) : Prop :=
  r.index = n ∧ r.entriesCompleted = n ∧ r.runElapsed = 0 ∧ r.settleEnd = none ∧ r.entryEnd = none ∧ r.dEff = d

theorem SlotRec.startedAt.stopped {n d : Nat} {r : SlotRec} (h : r.startedAt n d) : r.stopped.startedAt n d := by
  obtain ⟨h1, h2, -, -, -, h6⟩ := h
  exact ⟨h1, h2, rfl, rfl, rfl, h6⟩

theorem slotEnds_slot_or (t : State) (sl : SlotId) (c : EndReason) :
    (t.slotEnds sl c).slot sl = t.slot sl ∨ (t.slotEnds sl c).slot sl = (t.slot sl).stopped := by
  unfold State.slotEnds
  split
  · exact endCause_slot ..
  · exact .inl rfl

theorem suspend_eq (s : State) (sl : SlotId) (back : ResumeState) (o : RectOrder) : ∃ u, s.SlotActs sl u
    ∧ (∃ e, u.slot sl = { s.slot sl with
        entryState := some .suspended, resumeState := some back, pendingOrder := some o, lastOrder := some .off
        lastOrderTime := e })
    ∧ s.suspend sl back o = if s.suspendMs ≤ (s.slot sl).suspendedTotal then u.slotEnds sl .suspendLimit else u := by
  set t := s.modSlot sl fun r =>
    { r with entryState := some .suspended, resumeState := some back, pendingOrder := some o } with ht
  have hacts : s.SlotActs sl (t.slotOrder sl .off) := (acts_modSlot ..).trans (acts_slotOrder ..)
  obtain ⟨e, he⟩ := slotOrder_slot t sl .off
  rw [ht, State.modSlot_slot, ← ht] at he
  refine ⟨t.slotOrder sl .off, hacts, ⟨e, he⟩, ?_⟩
  unfold State.suspend
  dsimp only
  rw [← ht, show (t.slotOrder sl .off).suspendMs = s.suspendMs by unfold State.suspendMs; rw [hacts.lim],
    show ((t.slotOrder sl .off).slot sl).suspendedTotal = (s.slot sl).suspendedTotal by rw [he]]

section
variable {s : State} {sl : SlotId} {i : Str} {id : Nat}

/-- Not barred, a phase stands at its place with its duration, whatever its reasons make of it (R84). -/
theorem startPhase_place (h : s.AtPhase sl id) (hs : (s.slot sl).string = some i)
    (hb : (s.phaseTaken sl id).stretchBarred sl = none) {n d : Nat}
    (hp : SlotRec.startedAt n d { s.slot sl with dEff := effectiveDuration (s.phase id) (s.cfg i) }) :
    ((s.startPhase sl id).slot sl).startedAt n d := by
  obtain ⟨e, he⟩ := phaseTaken_slot h hs
  have hu : ((s.phaseTaken sl id).slot sl).startedAt n d := by rw [he]; exact hp
  rw [startPhase_eq, hb]
  dsimp only
  split
  · obtain ⟨u, -, ⟨e', hslot⟩, heq⟩ := suspend_eq (s.phaseTaken sl id) sl .run ((s.phaseTaken sl id).entryOrder sl)
    have hu' : (u.slot sl).startedAt n d := by rw [hslot]; exact hu
    rw [heq]
    split
    · rcases slotEnds_slot_or u sl .suspendLimit with k | k <;> rw [k]
      · exact hu'
      · exact hu'.stopped
    · exact hu'
  · set t := (s.phaseTaken sl id).modSlot sl fun r => { r with entryState := some .run } with ht
    obtain ⟨e1, h1⟩ := slotOrder_slot t sl (t.entryOrder sl)
    obtain ⟨e2, h2⟩ := judgeCriterion_slot (t.slotOrder sl (t.entryOrder sl)) sl
    rw [h2, h1, ht, State.modSlot_slot]
    exact hu

/-- Without a reason in force a phase runs at its own limit and order (R84). -/
theorem startPhase_runs (h : s.AtPhase sl id) (hs : (s.slot sl).string = some i)
    (hb : (s.phaseTaken sl id).stretchBarred sl = none) (hr : (s.phaseReasons sl (s.phase id)).inForce = false) {tc : Int}
    (ht : (s.slot sl).tc = some tc) :
    ((s.startPhase sl id).slot sl).entryState = some .run ∧ ((s.startPhase sl id).slot sl).limit = (s.phase id).iSet
      ∧ ((s.startPhase sl id).slot sl).lastOrder = some (s.phaseOrder i (s.phase id) tc) := by
  obtain ⟨e, he⟩ := phaseTaken_slot h hs
  have hacts := acts_phaseTaken s sl id
  rw [startPhase_eq, hb]
  dsimp only
  rw [if_neg (by rw [he, hr]; decide)]
  set t := (s.phaseTaken sl id).modSlot sl fun r => { r with entryState := some .run } with ht'
  have hact : s.SlotActs sl t := hacts.trans (acts_modSlot ..)
  have hslot : t.slot sl = { (s.phaseTaken sl id).slot sl with entryState := some .run } := by rw [ht', State.modSlot_slot]
  have hat : t.AtPhase sl id := by
    refine ⟨?_, ?_⟩
    · rw [hslot, he]; exact h.recipe
    · rw [hslot, he, hact.images]; exact h.entry
  have ho : t.entryOrder sl = s.phaseOrder i (s.phase id) tc := by
    rw [entryOrder_of_phase hat (by rw [hslot, he]; exact hs) (by rw [hslot, he, hact.phase]) (by rw [hslot, he]; exact ht)]
    unfold State.phaseOrder
    rw [hact.lim, hact.phase, hact.cfg]
  obtain ⟨e1, h1⟩ := slotOrder_slot t sl (t.entryOrder sl)
  obtain ⟨e2, h2⟩ := judgeCriterion_slot (t.slotOrder sl (t.entryOrder sl)) sl
  rw [h2, h1, hslot, he, ho]
  exact ⟨rfl, rfl, rfl⟩

/-- With a reason in force a phase is suspended at RECT OFF, its order kept (R84, R95). -/
theorem startPhase_suspends (h : s.AtPhase sl id) (hs : (s.slot sl).string = some i)
    (hb : (s.phaseTaken sl id).stretchBarred sl = none) (hr : (s.phaseReasons sl (s.phase id)).inForce = true) {tc : Int}
    (ht : (s.slot sl).tc = some tc) (hlt : (s.slot sl).suspendedTotal < s.suspendMs) :
    ∃ e f, (s.startPhase sl id).slot sl = { s.slot sl with
      dEff := effectiveDuration (s.phase id) (s.cfg i), limit := (s.phase id).iSet
      reasons := s.phaseReasons sl (s.phase id), sourceWaitStart := e
      entryState := some .suspended, resumeState := some .run, lastOrder := some .off, lastOrderTime := f
      pendingOrder := some (s.phaseOrder i (s.phase id) tc) } := by
  obtain ⟨e, he⟩ := phaseTaken_slot h hs
  have hacts := acts_phaseTaken s sl id
  obtain ⟨u, -, ⟨f, hslot⟩, heq⟩ := suspend_eq (s.phaseTaken sl id) sl .run ((s.phaseTaken sl id).entryOrder sl)
  have ho : (s.phaseTaken sl id).entryOrder sl = s.phaseOrder i (s.phase id) tc := by
    rw [entryOrder_of_phase (atPhase_phaseTaken h hs) (by rw [he]; exact hs) (by rw [he, hacts.phase]) (by rw [he]; exact ht)]
    unfold State.phaseOrder
    rw [hacts.lim, hacts.phase, hacts.cfg]
  have hms : (s.phaseTaken sl id).suspendMs = s.suspendMs := by unfold State.suspendMs; rw [hacts.lim]
  rw [startPhase_eq, hb]
  dsimp only
  rw [if_pos (by rw [he]; exact hr), heq, hms, he, if_neg (Nat.not_le.mpr hlt), hslot, he, ho]
  exact ⟨e, f, rfl⟩

end

/-! ### A WAIT and a water point (R86, R87) -/

section
variable {s : State} {sl : SlotId} {i : Str}

theorem startWait_slot (s : State) (sl : SlotId) (m : Nat) : s.SlotActs sl (s.startWait sl m)
    ∧ ∃ e f, (s.startWait sl m).slot sl = { s.slot sl with
      reasons := s.judgedReasons sl, sourceWaitStart := e, entryState := some .wait
      entryEnd := some (s.now + m * 60000), lastOrder := some .off, lastOrderTime := f } := by
  set u := (s.judgeReasons sl).modSlot sl fun r =>
    { r with entryState := some .wait, entryEnd := some ((s.judgeReasons sl).now + m * 60000) } with hu
  obtain ⟨e, he⟩ := judgeReasons_slot s sl
  obtain ⟨f, hf⟩ := slotOrder_slot u sl .off
  refine ⟨((acts_judgeReasons ..).trans (acts_modSlot ..)).trans (acts_slotOrder ..), e, f, ?_⟩
  rw [show s.startWait sl m = u.slotOrder sl .off from rfl, hf, hu, State.modSlot_slot, he, (acts_judgeReasons s sl).now]

/-- The WATER entry that a water point places (R87). -/
def State.waterEntry (s : State) (i : Str) : Entry :=
  ⟨i, .water, 0, .waterPoint, .urgent, .recipe, s.mgmt.clock⟩

theorem enqueue_fixed (s : State) (n : Entry) : (s.enqueue n).strings = s.strings ∧ (s.enqueue n).images = s.images
    ∧ (s.enqueue n).now = s.now ∧ (s.enqueue n).site = s.site ∧ (s.enqueue n).mgmt = s.mgmt ∧ (s.enqueue n).water = s.water
    ∧ (s.enqueue n).cells = s.cells ∧ (s.enqueue n).ring = s.ring := by
  unfold State.enqueue
  split <;> exact ⟨rfl, rfl, rfl, rfl, rfl, rfl, rfl, rfl⟩

/-- The water point has been called (R87). -/
def State.waterCall (s : State) (i : Str) : State :=
  if s.watering i then s else s.enqueue (s.waterEntry i)

theorem waterCall_fixed (s : State) (i : Str) : (s.waterCall i).strings = s.strings ∧ (s.waterCall i).images = s.images
    ∧ (s.waterCall i).now = s.now ∧ (s.waterCall i).site = s.site ∧ ∀ x, (s.waterCall i).slot x = s.slot x := by
  obtain ⟨h1, h2, h3, h4, -⟩ := enqueue_fixed s (s.waterEntry i)
  unfold State.waterCall
  split
  · exact ⟨rfl, rfl, rfl, rfl, fun _ => rfl⟩
  · exact ⟨h1, h2, h3, h4, enqueue_slot s _⟩

/-- The queue holds the string's WATER entry as the water point wants it, whatever waited before (R87, R109). -/
theorem waterCall_queue (h : s.watering i = false) : ∃ x ∈ (s.waterCall i).queue, x.string = i ∧ x.kind = .water
    ∧ x.recipe = 0 ∧ x.priority = .urgent ∧ x.origin = .recipe ∧ x.reason = .waterPoint := by
  unfold State.waterCall
  rw [if_neg (by rw [h]; decide)]
  rcases enqueue_entry s (s.waterEntry i) with ⟨hn, -⟩ | ⟨o, -, ho, hm⟩
  · exact ⟨_, hn, rfl, rfl, rfl, rfl, rfl, rfl⟩
  · have hrank : o.origin.rank ≤ (s.waterEntry i).origin.rank := by
      show o.origin.rank ≤ 2
      cases o.origin <;> decide
    rw [Entry.merge_eq, if_pos (show (s.waterEntry i).priority = .urgent from rfl), if_pos hrank, if_pos hrank, if_pos hrank] at hm
    rw [Entry.named_iff] at ho
    exact ⟨_, hm, ho.1, ho.2, rfl, rfl, rfl, rfl⟩

/-- The slot record of a water wait, before its order is handed (R87). -/
def State.waterWaiting (s : State) (sl : SlotId) (i : Str) : State :=
  ((s.judgeReasons sl).waterCall i).modSlot sl fun r => { r with
    entryState := some .waterWait
    entryEnd := some (((s.judgeReasons sl).waterCall i).now + ((s.judgeReasons sl).waterCall i).lim.waterWaitMaxMin * 60000)
    limit := ((s.judgeReasons sl).waterCall i).lim.iFloor
    waterCalled := true }

theorem startWater_eq (s : State) (sl : SlotId) (i : Str) :
    s.startWater sl i = (s.waterWaiting sl i).slotOrder sl ((s.waterWaiting sl i).entryOrder sl) := rfl

theorem waterWaiting_fixed (s : State) (sl : SlotId) (i : Str) : (s.waterWaiting sl i).strings = s.strings
    ∧ (s.waterWaiting sl i).images = s.images ∧ (s.waterWaiting sl i).now = s.now
    ∧ (s.waterWaiting sl i).site = (s.judgeReasons sl).site
    ∧ (s.waterWaiting sl i).queue = ((s.judgeReasons sl).waterCall i).queue := by
  obtain ⟨h1, h2, h3, h4, -⟩ := waterCall_fixed (s.judgeReasons sl) i
  have h := acts_judgeReasons s sl
  unfold State.waterWaiting
  rw [State.modSlot_strings, State.modSlot_images, State.modSlot_now, State.modSlot_site, State.modSlot_queue]
  exact ⟨h1.trans h.strings, h2.trans h.images, h3.trans h.now, h4, rfl⟩

theorem waterWaiting_slot (s : State) (sl : SlotId) (i : Str) : ∃ e, (s.waterWaiting sl i).slot sl = { s.slot sl with
    reasons := s.judgedReasons sl, sourceWaitStart := e, entryState := some .waterWait
    entryEnd := some (s.now + s.lim.waterWaitMaxMin * 60000), limit := s.lim.iFloor, waterCalled := true } := by
  obtain ⟨-, h2, h3, -, h5⟩ := waterCall_fixed (s.judgeReasons sl) i
  have h := acts_judgeReasons s sl
  obtain ⟨e, he⟩ := judgeReasons_slot s sl
  have hlim : ((s.judgeReasons sl).waterCall i).lim = s.lim := by unfold State.lim; rw [h2, h.images]
  refine ⟨e, ?_⟩
  unfold State.waterWaiting
  rw [State.modSlot_slot, h5, he, hlim, h3, h.now]

theorem startWater_slot (s : State) (sl : SlotId) (i : Str) : ∃ e f, (s.startWater sl i).slot sl = { s.slot sl with
    reasons := s.judgedReasons sl, sourceWaitStart := e, entryState := some .waterWait
    entryEnd := some (s.now + s.lim.waterWaitMaxMin * 60000), limit := s.lim.iFloor, waterCalled := true
    lastOrder := some ((s.waterWaiting sl i).entryOrder sl), lastOrderTime := f } := by
  obtain ⟨e, he⟩ := waterWaiting_slot s sl i
  obtain ⟨f, hf⟩ := slotOrder_slot (s.waterWaiting sl i) sl ((s.waterWaiting sl i).entryOrder sl)
  rw [startWater_eq, hf, he]
  exact ⟨e, f, rfl⟩

/-- A water point waits at the compensated float voltage (R56, R87). -/
theorem waterWaiting_order (hr : (s.slot sl).recipe ≠ 0)
    (he : recipeEntry s.images.recipe (s.slot sl).recipe (s.slot sl).index = .water) (hs : (s.slot sl).string = some i)
    {tc : Int} (ht : (s.slot sl).tc = some tc) :
    (s.waterWaiting sl i).entryOrder sl = .on (waterMv s.lim tc * (s.cfg i).cells / 10) s.lim.iFloor := by
  obtain ⟨e, hslot⟩ := waterWaiting_slot s sl i
  obtain ⟨-, himg, -⟩ := waterWaiting_fixed s sl i
  have hlim : (s.waterWaiting sl i).lim = s.lim := by unfold State.lim; rw [himg]
  have hcfg : (s.waterWaiting sl i).cfg i = s.cfg i := by unfold State.cfg; rw [himg]
  unfold State.entryOrder State.slotEntry State.slotCells SlotRec.tcOr orderVolts
  simp only [hslot, himg, hlim]
  rw [if_neg hr, he, hs, ht]
  dsimp only
  rw [hcfg]
  rfl

end

end Sys2Proof.Machine

namespace Sys2Proof.Machine

/-! ### The activity that a start leaves (R103, R150) -/

/-- The clock, the images, gassing_run and the run-on stand: what the Site Line Unit judges a run-on on. -/
def State.RunKept (s t : State) : Prop :=
  t.now = s.now ∧ t.images = s.images ∧ t.site.gassingRun = s.site.gassingRun ∧ t.site.runOnEnd = s.site.runOnEnd

section
variable {sl : SlotId} {s t u : State}

theorem State.RunKept.trans (h : s.RunKept t) (k : t.RunKept u) : s.RunKept u := by
  obtain ⟨h1, h2, h3, h4⟩ := h
  obtain ⟨k1, k2, k3, k4⟩ := k
  exact ⟨k1.trans h1, k2.trans h2, k3.trans h3, k4.trans h4⟩

theorem State.SlotActs.runKept (h : s.SlotActs sl t) : s.RunKept t := by
  refine ⟨h.now, h.images, ?_, ?_⟩ <;> rw [h.site]

theorem runKept_slotEnds (s : State) (sl : SlotId) (c : EndReason) : s.RunKept (s.slotEnds sl c) := by
  unfold State.slotEnds
  split
  · have h := frame_endCause s (by assumption) c
    exact ⟨h.now, h.images, by rw [h.site], by rw [h.site]⟩
  · exact ⟨rfl, rfl, rfl, rfl⟩

theorem runKept_ite {c : Prop} [Decidable c] (h : s.RunKept t) (k : s.RunKept u) : s.RunKept (if c then t else u) := by
  split <;> assumption

theorem runKept_startPhase (s : State) (sl : SlotId) (id : Nat) : s.RunKept (s.startPhase sl id) := by
  rw [startPhase_eq]
  refine (acts_phaseTaken s sl id).runKept.trans ?_
  split
  · exact runKept_slotEnds ..
  · obtain ⟨u, hu, -, heq⟩ := suspend_eq (s.phaseTaken sl id) sl .run ((s.phaseTaken sl id).entryOrder sl)
    refine runKept_ite ?_ (((acts_modSlot ..).trans (acts_slotOrder ..)).trans (acts_judgeCriterion ..)).runKept
    rw [heq]
    exact runKept_ite (hu.runKept.trans (runKept_slotEnds ..)) hu.runKept

theorem runKept_startWater (s : State) (sl : SlotId) (i : Str) : s.RunKept (s.startWater sl i) := by
  obtain ⟨-, h1, h2, h3, -⟩ := waterWaiting_fixed s sl i
  obtain ⟨-, -, k3, k4⟩ := (acts_judgeReasons s sl).runKept
  rw [startWater_eq]
  refine State.RunKept.trans ⟨h2, h1, ?_, ?_⟩ (acts_slotOrder ..).runKept
  · rw [h3, k3]
  · rw [h3, k4]

/-- A water point calls for water where the string has a manifold and is passed over where it has none (R87). -/
theorem startKind_water {i : Str} (h : (s.slot sl).string = some i) (n : Nat) :
    s.startKind sl n .water = if (s.cfg i).hasManifold = true then s.startWater sl i
      else (s.modSlot sl fun r => { r with index := r.index + 1 }).startEntry sl n := by
  unfold State.startKind
  dsimp only
  rw [h]

theorem startKind_water_none (h : (s.slot sl).string = none) (n : Nat) : s.startKind sl n .water = s := by
  unfold State.startKind
  dsimp only
  rw [h]

theorem runKept_startEntry (sl : SlotId) (n : Nat) :
    ∀ {s : State}, (s.slot sl).recipe ≠ 0 → s.RunKept (s.startEntry sl n) := by
  induction n with
  | zero => exact fun _ => ⟨rfl, rfl, rfl, rfl⟩
  | succ n ih =>
    intro s hr
    rw [startEntry_succ hr]
    refine (acts_modSlot s sl SlotRec.entryReset).runKept.trans ?_
    have hr' : ((s.modSlot sl SlotRec.entryReset).slot sl).recipe ≠ 0 := by rw [State.modSlot_slot]; exact hr
    generalize s.modSlot sl SlotRec.entryReset = t at hr'
    cases s.slotEntry sl with
    | phase id => exact runKept_startPhase t sl id
    | wait m => exact State.SlotActs.runKept (startWait_slot t sl m).1
    | finish => exact runKept_slotEnds ..
    | water =>
      cases hi : (t.slot sl).string with
      | none => rw [startKind_water_none hi]; exact ⟨rfl, rfl, rfl, rfl⟩
      | some i =>
        rw [startKind_water hi]
        refine runKept_ite (runKept_startWater ..) ((acts_modSlot t sl _).runKept.trans (ih ?_))
        rw [State.modSlot_slot]; exact hr'

/-- What the Site Line Unit makes of its activity and the run-on (R103, R150). -/
theorem nextEntry_activity (hr : (s.slot sl).recipe ≠ 0) :
    ((s.nextEntry sl).site.gassingRun = true ↔ ∃ x,
        (((s.nextEntry sl).slot x).entryState = some .run ∨ ((s.nextEntry sl).slot x).entryState = some .direct)
        ∧ ((s.nextEntry sl).stretch x).gassing = true)
    ∧ ((s.nextEntry sl).site.spending = true ↔ ∃ x,
        (((s.nextEntry sl).slot x).entryState = some .run ∨ ((s.nextEntry sl).slot x).entryState = some .direct)
        ∧ ((s.nextEntry sl).stretch x).source = true)
    ∧ (s.nextEntry sl).site.runOnEnd = (if (s.nextEntry sl).site.gassingRun = true then none
        else if s.site.gassingRun = true ∧ s.lim.runOnMin ≠ 0 then some (s.now + s.lim.runOnMin * 60000)
        else s.site.runOnEnd) := by
  have hany : ∀ f : SlotId → Bool, (allSlots.any f) = true ↔ ∃ x, f x = true := fun f => by
    simp only [List.any_eq_true]
    exact ⟨fun ⟨x, _, h⟩ => ⟨x, h⟩, fun ⟨x, h⟩ => ⟨x, by cases x <;> decide, h⟩⟩
  obtain ⟨hg, hp⟩ := (((s.modSlot sl fun r => { r with index := r.index + 1 }).startEntry sl 13)).followSite_activity
  have hk := (acts_modSlot s sl fun r => { r with index := r.index + 1 }).runKept.trans
    (runKept_startEntry sl 13 (by rw [State.modSlot_slot]; exact hr))
  unfold State.nextEntry State.startAt
  generalize (s.modSlot sl fun r => { r with index := r.index + 1 }).startEntry sl 13 = u at hg hp hk
  obtain ⟨hnow, himg, hgas, hrun⟩ := hk
  have hlim : u.lim = s.lim := by unfold State.lim; rw [himg]
  refine ⟨?_, ?_, ?_⟩
  · rw [hg]; unfold State.judgeGassingRun; rw [hany]; simp [SlotRec.active]
  · rw [hp]; unfold State.judgeSpending; rw [hany]; simp [SlotRec.active]
  · rw [← hgas, ← hrun, ← hlim, ← hnow]; rfl

/-! ### The fuel of a start -/

/-- Past index 12 there is no entry but END, so a start needs no more fuel than leads there (R47, R83). -/
theorem startEntry_fuel (sl : SlotId) (n : Nat) : ∀ {s : State}, (s.slot sl).recipe ≠ 0 → 12 ≤ (s.slot sl).index + n →
    s.startEntry sl (n + 2) = s.startEntry sl (n + 1) := by
  induction n with
  | zero =>
    intro s hr hn
    have he : s.slotEntry sl = .finish := if_pos hn
    rw [startEntry_succ hr, startEntry_succ hr, he]
    rfl
  | succ n ih =>
    intro s hr hn
    rw [startEntry_succ hr, startEntry_succ hr]
    have hslot : (s.modSlot sl SlotRec.entryReset).slot sl = (s.slot sl).entryReset := by rw [State.modSlot_slot]
    generalize s.modSlot sl SlotRec.entryReset = t at hslot
    cases s.slotEntry sl with
    | water =>
      cases hi : (t.slot sl).string with
      | none => rw [startKind_water_none hi, startKind_water_none hi]
      | some i =>
        rw [startKind_water hi, startKind_water hi, ih]
        · rw [State.modSlot_slot, hslot]; exact hr
        · rw [State.modSlot_slot, hslot]
          show 12 ≤ (s.slot sl).index + 1 + n
          omega
    | _ => rfl

theorem modSlot_modSlot (s : State) (sl : SlotId) (f g : SlotRec → SlotRec) :
    (s.modSlot sl f).modSlot sl g = s.modSlot sl fun r => g (f r) := by cases sl <;> rfl

/-- A water point of a string without a manifold is passed over (R87). -/
theorem nextEntry_passes {i : Str} (hr : (s.slot sl).recipe ≠ 0) (hs : (s.slot sl).string = some i)
    (he : recipeEntry s.images.recipe (s.slot sl).recipe ((s.slot sl).index + 1) = .water)
    (hm : (s.cfg i).manifoldAddr = 0xFF) :
    s.nextEntry sl = (s.modSlot sl fun r => { r with index := r.index + 1 }).nextEntry sl := by
  have hs' : ((s.entered sl).slot sl).string = some i := by rw [entered_slot]; exact hs
  have hm' : ((s.entered sl).cfg i).hasManifold = false := by
    rw [(acts_entered s sl).cfg, StringCfg.hasManifold, hm]; rfl
  rw [nextEntry_eq hr, he, startKind_water hs', if_neg (by rw [hm']; decide)]
  unfold State.nextEntry State.startAt
  set a := (s.entered sl).modSlot sl fun r => { r with index := r.index + 1 } with ha
  set b := (s.modSlot sl fun r => { r with index := r.index + 1 }).modSlot sl fun r => { r with index := r.index + 1 } with hb
  have hslotA : a.slot sl = { (s.entered sl).slot sl with index := ((s.entered sl).slot sl).index + 1 } := by
    rw [ha, State.modSlot_slot]
  have hslotB : b.slot sl = { s.slot sl with index := (s.slot sl).index + 1 + 1 } := by
    rw [hb, State.modSlot_slot, State.modSlot_slot]
  rw [entered_slot] at hslotA
  have hra : (a.slot sl).recipe ≠ 0 := by rw [hslotA]; exact hr
  have hrb : (b.slot sl).recipe ≠ 0 := by rw [hslotB]; exact hr
  have hreset : a.modSlot sl SlotRec.entryReset = b.modSlot sl SlotRec.entryReset := by
    rw [ha, hb]
    unfold State.entered
    simp only [modSlot_modSlot]
    rfl
  have hentry : a.slotEntry sl = b.slotEntry sl := by
    unfold State.slotEntry
    rw [hslotA, hslotB, show a.images = b.images by rw [ha, hb]; simp [State.entered]]
    rfl
  rw [startEntry_fuel sl 11 hrb (by rw [hslotB]; show 12 ≤ (s.slot sl).index + 1 + 1 + 11; omega),
    startEntry_succ hra, startEntry_succ hrb, hreset, hentry]

end

end Sys2Proof.Machine

namespace Sys2Proof.Machine

/-! ### The next entry by its kind (R83 to R89) -/

section
variable {s : State} {sl : SlotId} {i : Str} {id : Nat}

/-- The next entry is the phase `id`: that is where the slot stands once it is entered. -/
theorem atPhase_entered (hr : (s.slot sl).recipe ≠ 0)
    (he : recipeEntry s.images.recipe (s.slot sl).recipe ((s.slot sl).index + 1) = .phase id) :
    (s.entered sl).AtPhase sl id := by
  constructor <;> rw [entered_slot]
  · exact hr
  · rw [(acts_entered s sl).images]; exact he

theorem followSite_queue (s : State) : s.followSite.queue = s.queue := rfl

theorem nextEntry_slot (hr : (s.slot sl).recipe ≠ 0) {e : RecipeEntry}
    (he : recipeEntry s.images.recipe (s.slot sl).recipe ((s.slot sl).index + 1) = e) :
    (s.nextEntry sl).slot sl = ((s.entered sl).startKind sl 12 e).slot sl := by
  rw [nextEntry_eq hr, he, followSite_slot]

/-- What bars the phase that comes next (R84, R98, R99). -/
theorem stretchBarred_entered (hat : (s.entered sl).AtPhase sl id) (hs : (s.slot sl).string = some i) :
    ((s.entered sl).phaseTaken sl id).stretchBarred sl =
      if 0 < (s.phase id).iSet ∧ s.site.allowance = 0 then some .allowance
      else if s.lim.gasMv ≤ (s.phase id).vSet ∧ s.site.fanFail = true then some .fanFail else none := by
  have hacts := (acts_entered s sl).trans (acts_phaseTaken (s.entered sl) sl id)
  rw [stretchBarred_of_phase (atPhase_phaseTaken hat (by rw [entered_slot]; exact hs)), hacts.phase, hacts.lim, hacts.site]

/-- A barred phase ends the round with what bars it (R98, R99). -/
theorem nextEntry_barred (hs : (s.slot sl).string = some i) (hq : (s.control i).state = .equalising)
    (hr : (s.slot sl).recipe ≠ 0) (he : recipeEntry s.images.recipe (s.slot sl).recipe ((s.slot sl).index + 1) = .phase id)
    {c : EndReason} (hb : ((s.entered sl).phaseTaken sl id).stretchBarred sl = some c) : s.EndedFor (s.nextEntry sl) i c := by
  have hat := atPhase_entered hr he
  have hs' : ((s.entered sl).slot sl).string = some i := by rw [entered_slot]; exact hs
  obtain ⟨f, hslot⟩ := phaseTaken_slot hat hs'
  rw [nextEntry_eq hr, he]
  show s.EndedFor ((s.entered sl).startPhase sl id).followSite i c
  rw [startPhase_eq, hb]
  exact (slotEnds_ended ((acts_entered s sl).trans (acts_phaseTaken ..)) (by rw [hslot]; exact hs') hq c).followSite

/-- The reasons of the phase that comes next, as they stood before it (R94). -/
theorem phaseReasons_entered (p : PhaseRec) : (s.entered sl).phaseReasons sl p = s.phaseReasons sl p := by
  have h := acts_entered s sl
  unfold State.phaseReasons State.stale
  rw [h.lim, h.site, h.sight, entered_slot]
  simp only [h.reading, h.cfg]
  rfl

theorem phaseOrder_entered (p : PhaseRec) (tc : Int) : (s.entered sl).phaseOrder i p tc = s.phaseOrder i p tc := by
  have h := acts_entered s sl
  unfold State.phaseOrder
  rw [h.lim, h.cfg]

/-- No reason stands for a phase that has its source, fresh cells, sight and, when gassing, a cool string (R94). -/
theorem phaseReasons_none {tc : Int} (hsrc : (s.phase id).iSet = 0 ∨ s.site.src.level = true) (hst : s.stale sl = false)
    (hw : s.ring.sight ≠ .warn) (ht : (s.slot sl).tc = some tc)
    (hcool : (s.phase id).vSet < s.lim.gasMv ∨ tc + 20 ≤ s.lim.hotLimit) :
    (s.phaseReasons sl (s.phase id)).inForce = false := by
  have hsource : (decide (0 < (s.phase id).iSet) && !s.site.src.level) = false := by
    rcases hsrc with h | h <;> simp [h]
  have hhot : (decide (s.lim.gasMv ≤ (s.phase id).vSet)
      && hotReason s.lim.hotLimit (some tc) (s.slot sl).reasons.hot) = false := by
    rcases hcool with h | h
    · rw [decide_eq_false (by omega)]; rfl
    · unfold hotReason
      dsimp only
      rw [if_neg (by omega), if_pos (by omega), Bool.and_false]
  unfold Reasons.inForce State.phaseReasons
  dsimp only
  rw [ht, hsource, hst, hhot, decide_eq_false hw]
  rfl

/-- HOT stands for a gassing phase of a string at hot_limit (R94). -/
theorem phaseReasons_hot {tc : Int} (ht : (s.slot sl).tc = some tc) (hg : s.lim.gasMv ≤ (s.phase id).vSet)
    (hot : s.lim.hotLimit ≤ tc) : (s.phaseReasons sl (s.phase id)).hot = true := by
  unfold State.phaseReasons hotReason
  dsimp only
  rw [ht, decide_eq_true hg]
  exact if_pos hot

theorem phaseReasons_inForce {tc : Int} (ht : (s.slot sl).tc = some tc)
    (h : (0 < (s.phase id).iSet ∧ s.site.src.level = false) ∨ s.stale sl = true ∨ s.ring.sight = .warn
      ∨ (s.lim.gasMv ≤ (s.phase id).vSet ∧ s.lim.hotLimit ≤ tc)) : (s.phaseReasons sl (s.phase id)).inForce = true := by
  simp only [Reasons.inForce, Bool.or_eq_true]
  rcases h with ⟨hi, hsrc⟩ | hst | hw | ⟨hg, hot⟩
  · exact .inl (.inl (.inl (by simp [State.phaseReasons, hi, hsrc])))
  · exact .inl (.inl (.inr hst))
  · exact .inr (decide_eq_true hw)
  · exact .inl (.inr (phaseReasons_hot ht hg hot))

/-- A WAIT hands RECT OFF and lasts its minutes; no string and no queue entry moves (R86). -/
theorem nextEntry_wait {m : Nat} (hr : (s.slot sl).recipe ≠ 0)
    (he : recipeEntry s.images.recipe (s.slot sl).recipe ((s.slot sl).index + 1) = .wait m) :
    ((s.nextEntry sl).slot sl).index = (s.slot sl).index + 1
      ∧ ((s.nextEntry sl).slot sl).entryState = some .wait
      ∧ ((s.nextEntry sl).slot sl).entryEnd = some (s.now + m * 60000)
      ∧ ((s.nextEntry sl).slot sl).lastOrder = some .off ∧ ((s.nextEntry sl).slot sl).critStart = none
      ∧ (s.nextEntry sl).strings = s.strings ∧ (s.nextEntry sl).queue = s.queue := by
  obtain ⟨hacts, e, f, hslot⟩ := startWait_slot (s.entered sl) sl m
  have hall := (acts_entered s sl).trans hacts
  have hstart : ((s.nextEntry sl).slot sl) = ((s.entered sl).startWait sl m).slot sl := nextEntry_slot hr he
  rw [entered_slot, (acts_entered s sl).now] at hslot
  rw [hstart, hslot]
  refine ⟨rfl, rfl, rfl, rfl, rfl, ?_, ?_⟩
  · rw [nextEntry_eq hr, he, followSite_strings]; exact hall.strings
  · rw [nextEntry_eq hr, he, followSite_queue]; exact hall.queue

/-- At END the round is COMPLETE, and the account and the tally of entries stand for it (R38, R89). -/
theorem nextEntry_finish (h : s.holds sl i) (hq : (s.control i).state = .equalising) (hr : (s.slot sl).recipe ≠ 0)
    (he : recipeEntry s.images.recipe (s.slot sl).recipe ((s.slot sl).index + 1) = .finish) :
    s.EndedFor (s.nextEntry sl) i .complete
      ∧ (s.nextEntry sl).charge i = { s.charge i with daysSinceEq := 0, dDis := 0, spreadTimer := none }
      ∧ ((s.nextEntry sl).slot sl).entriesCompleted = (s.slot sl).index + 1 := by
  obtain ⟨hs, hc⟩ := h
  have hacts := acts_entered s sl
  have hs' : ((s.entered sl).slot sl).string = some i := by rw [entered_slot]; exact hs
  have hq' : ((s.entered sl).control i).state = .equalising := by rw [hacts.control]; exact hq
  have hends : (s.entered sl).slotEnds sl .complete = (s.entered sl).endRound i .complete := by
    unfold State.slotEnds
    rw [hs']
    exact endCause_away (.inr hq') _
  refine ⟨?_, ?_, ?_⟩
  · rw [nextEntry_eq hr, he]
    exact (slotEnds_ended hacts hs' hq _).followSite
  · rw [nextEntry_eq hr, he, followSite_charge, State.startKind, hends, endRound_charge, if_pos rfl, hacts.charge]
  · rw [nextEntry_slot hr he, State.startKind, slotEnds_slot hs' (by rw [hacts.control]; exact hc) hq', entered_slot]
    rfl

/-- A water point of a string with a manifold waits for water at the float order (R87). -/
theorem nextEntry_water (hs : (s.slot sl).string = some i) (hr : (s.slot sl).recipe ≠ 0)
    (he : recipeEntry s.images.recipe (s.slot sl).recipe ((s.slot sl).index + 1) = .water)
    (hm : (s.cfg i).manifoldAddr ≠ 0xFF) :
    s.nextEntry sl = ((s.entered sl).startWater sl i).followSite := by
  have hacts := acts_entered s sl
  have hs' : ((s.entered sl).slot sl).string = some i := by rw [entered_slot]; exact hs
  have hm' : ((s.entered sl).cfg i).hasManifold = true := by
    rw [hacts.cfg, StringCfg.hasManifold]
    simpa using hm
  rw [nextEntry_eq hr, he, startKind_water hs', if_pos hm']

/-- A string in no watering is called for, a string in one is not (R87). -/
theorem nextEntry_water_queue (hs : (s.slot sl).string = some i) (hr : (s.slot sl).recipe ≠ 0)
    (he : recipeEntry s.images.recipe (s.slot sl).recipe ((s.slot sl).index + 1) = .water)
    (hm : (s.cfg i).manifoldAddr ≠ 0xFF) :
    (s.watering i = false → ∃ x ∈ (s.nextEntry sl).queue, x.string = i ∧ x.kind = .water ∧ x.recipe = 0
        ∧ x.priority = .urgent ∧ x.origin = .recipe ∧ x.reason = .waterPoint)
      ∧ (s.watering i = true → (s.nextEntry sl).queue = s.queue)
      ∧ (s.nextEntry sl).strings = s.strings := by
  have hacts := (acts_entered s sl).trans (acts_judgeReasons (s.entered sl) sl)
  have hwat : ((s.entered sl).judgeReasons sl).watering i = s.watering i := by unfold State.watering; rw [hacts.water]
  obtain ⟨hstr, -, -, -, hqueue⟩ := waterWaiting_fixed (s.entered sl) sl i
  have ho := acts_slotOrder ((s.entered sl).waterWaiting sl i) sl (((s.entered sl).waterWaiting sl i).entryOrder sl)
  have hq : (s.nextEntry sl).queue = (((s.entered sl).judgeReasons sl).waterCall i).queue := by
    rw [nextEntry_water hs hr he hm, followSite_queue, startWater_eq, ho.queue, hqueue]
  refine ⟨fun h => ?_, fun h => ?_, ?_⟩
  · rw [hq]; exact waterCall_queue (hwat.trans h)
  · rw [hq, State.waterCall, if_pos (hwat.trans h)]; exact hacts.queue
  · rw [nextEntry_water hs hr he hm, followSite_strings, startWater_eq, ho.strings, hstr]
    exact (acts_entered s sl).strings

/-- A phase that nothing bars stands at its place with its duration; it runs, or it is suspended with its order kept (R84). -/
theorem nextEntry_phase (hs : (s.slot sl).string = some i) (hr : (s.slot sl).recipe ≠ 0)
    (he : recipeEntry s.images.recipe (s.slot sl).recipe ((s.slot sl).index + 1) = .phase id)
    (ha : (s.phase id).iSet = 0 ∨ s.site.allowance ≠ 0) (hf : (s.phase id).vSet < s.lim.gasMv ∨ s.site.fanFail = false) :
    ((s.nextEntry sl).slot sl).startedAt ((s.slot sl).index + 1) (effectiveDuration (s.phase id) (s.cfg i))
      ∧ (∀ tc, (s.slot sl).tc = some tc → (s.phaseReasons sl (s.phase id)).inForce = false →
        ((s.nextEntry sl).slot sl).entryState = some .run ∧ ((s.nextEntry sl).slot sl).limit = (s.phase id).iSet
          ∧ ((s.nextEntry sl).slot sl).lastOrder = some (s.phaseOrder i (s.phase id) tc))
      ∧ (∀ tc, (s.slot sl).tc = some tc → (s.phaseReasons sl (s.phase id)).inForce = true →
        (s.slot sl).suspendedTotal < s.lim.suspendMaxMin * 60000 →
        ((s.nextEntry sl).slot sl).entryState = some .suspended
          ∧ ((s.nextEntry sl).slot sl).resumeState = some .run ∧ ((s.nextEntry sl).slot sl).lastOrder = some .off
          ∧ ((s.nextEntry sl).slot sl).limit = (s.phase id).iSet
          ∧ ((s.nextEntry sl).slot sl).pendingOrder = some (s.phaseOrder i (s.phase id) tc)
          ∧ ((s.nextEntry sl).slot sl).reasons = s.phaseReasons sl (s.phase id)) := by
  have hacts := acts_entered s sl
  have hat := atPhase_entered hr he
  have hs' : ((s.entered sl).slot sl).string = some i := by rw [entered_slot]; exact hs
  have hbar : ((s.entered sl).phaseTaken sl id).stretchBarred sl = none := by
    rw [stretchBarred_entered hat hs, if_neg, if_neg]
    · rintro ⟨hg, hfan⟩
      rcases hf with h | h
      · omega
      · rw [h] at hfan; exact Bool.noConfusion hfan
    · rintro ⟨hi, hz⟩
      rcases ha with h | h
      · omega
      · exact h hz
  have htc : ((s.entered sl).slot sl).tc = (s.slot sl).tc := by rw [entered_slot]; rfl
  have hslot : (s.nextEntry sl).slot sl = ((s.entered sl).startPhase sl id).slot sl := nextEntry_slot hr he
  rw [hslot]
  refine ⟨?_, fun tc ht hin => ?_, fun tc ht hin hlt => ?_⟩
  · refine startPhase_place hat hs' hbar ?_
    rw [entered_slot, hacts.phase, hacts.cfg]
    exact ⟨rfl, rfl, rfl, rfl, rfl, rfl⟩
  · have h := startPhase_runs hat hs' hbar (by rw [phaseReasons_entered, hacts.phase]; exact hin) (htc.trans ht)
    rwa [hacts.phase, phaseOrder_entered] at h
  · obtain ⟨e, f, h⟩ := startPhase_suspends hat hs' hbar (by rw [phaseReasons_entered, hacts.phase]; exact hin) (htc.trans ht)
      (by rw [entered_slot]; unfold State.suspendMs; rw [hacts.lim]; exact hlt)
    rw [h, hacts.phase, phaseOrder_entered, phaseReasons_entered]
    exact ⟨rfl, rfl, rfl, rfl, rfl, rfl⟩

end

/-- Settles O48: `nextEntry_eq` names the start by the entry's kind, and each kind has its lemma; a water point without a
manifold is passed over by `nextEntry_passes`, and the activity is `nextEntry_activity`. -/
theorem entriesStartByKind : Obligations.EntriesStartByKind := by
  intro s sl i e hold hq hr he
  obtain ⟨hs, hc⟩ := hold
  refine ⟨?_, ?_, ?_, ?_, ?_, ?_, ?_, ?_, ?_⟩
  · rintro id rfl hi hz
    exact nextEntry_barred hs hq hr he.symm (by
      rw [stretchBarred_entered (atPhase_entered hr he.symm) hs, if_pos ⟨hi, hz⟩])
  · rintro id rfl ha hg hfan
    refine nextEntry_barred hs hq hr he.symm ?_
    rw [stretchBarred_entered (atPhase_entered hr he.symm) hs, if_neg, if_pos ⟨hg, hfan⟩]
    rintro ⟨hi, hz⟩
    rcases ha with h | h
    · omega
    · exact h hz
  · rintro id rfl ha hf
    obtain ⟨⟨h1, h2, h3, h4, h5, h6⟩, hrun, hsus⟩ := nextEntry_phase hs hr he.symm ha hf
    refine ⟨h1, h2, h3, h4, h5, h6, fun tc hsrc hst hw ht hcool => ?_, fun tc ht hwhy hlt => ?_⟩
    · exact hrun tc ht (phaseReasons_none hsrc hst hw ht hcool)
    · obtain ⟨k1, k2, k3, k4, k5, k6⟩ := hsus tc ht (phaseReasons_inForce ht hwhy) hlt
      rw [k6]
      exact ⟨k1, k2, k3, k4, k5, rfl, rfl, rfl, phaseReasons_hot ht⟩
  · rintro m rfl
    exact nextEntry_wait hr he.symm
  · rintro rfl
    obtain ⟨h1, h2, h3⟩ := nextEntry_finish ⟨hs, hc⟩ hq hr he.symm
    rw [h2]
    exact ⟨h1, rfl, rfl, rfl, h3⟩
  · rintro rfl hm
    obtain ⟨e, f, hslot⟩ := startWater_slot (s.entered sl) sl i
    obtain ⟨hcall, hstand, hstr⟩ := nextEntry_water_queue hs hr he.symm hm
    have hacts := acts_entered s sl
    rw [hacts.now, hacts.lim] at hslot
    have hnext : (s.nextEntry sl).slot sl = ((s.entered sl).startWater sl i).slot sl := by
      rw [nextEntry_water hs hr he.symm hm, followSite_slot]
    rw [hnext, hslot]
    refine ⟨rfl, rfl, rfl, rfl, fun tc ht => congrArg some ?_, hcall, hstand, hstr⟩
    rw [← hacts.lim, ← hacts.cfg]
    exact waterWaiting_order (by rw [entered_slot]; exact hr) (by rw [entered_slot, hacts.images]; exact he.symm)
      (by rw [entered_slot]; exact hs) (by rw [entered_slot]; exact ht)
  · rintro rfl hm - hfin
    rw [nextEntry_passes hr hs he.symm hm]
    have hacts := acts_modSlot s sl fun r => { r with index := r.index + 1 }
    have hslot : ((s.modSlot sl fun r => { r with index := r.index + 1 }).slot sl)
        = { s.slot sl with index := (s.slot sl).index + 1 } := by rw [State.modSlot_slot]
    generalize (s.modSlot sl fun r => { r with index := r.index + 1 }) = t at hacts hslot
    obtain ⟨h1, -, h3⟩ := nextEntry_finish (s := t) (sl := sl) (i := i)
      ⟨by rw [hslot]; exact hs, by rw [hacts.control]; exact hc⟩ (by rw [hacts.control]; exact hq) (by rw [hslot]; exact hr)
      (by rw [hslot, hacts.images]; exact hfin)
    rw [hslot] at h3
    exact ⟨h1.of_acts hacts, h3⟩
  · rintro rfl hm
    exact nextEntry_passes hr hs he.symm hm
  · rintro t rfl
    exact nextEntry_activity hr

end Sys2Proof.Machine

/-! ## The site-minute (R34 to R37, R39, R147, R148) -/

namespace Sys2Proof.Machine

/-! ### The day counts and the holdoffs -/

/-- What the turn of another string leaves of a state that only string records move in. -/
def State.StrActs (i : Str) (s t : State) : Prop := t = { s with strings := t.strings } ∧ t.str i = s.str i

theorem State.StrActs.refl (i : Str) (s : State) : State.StrActs i s s := ⟨rfl, rfl⟩

theorem State.StrActs.trans {i : Str} {s t u : State} (h : State.StrActs i s t) (k : State.StrActs i t u) :
    State.StrActs i s u := ⟨by rw [k.1, h.1], k.2.trans h.2⟩

/-- The day of a string is counted (R34). -/
def State.countDay (i : Str) (s : State) : State :=
  if s.present i then s.modCharge i fun c => { c with daysSinceEq := satAdd sat16 c.daysSinceEq 1 } else s

/-- The day counts and the holdoffs of a site-minute (R34, R37). -/
def State.minuteCounted (s : State) (rollover : Bool) : State :=
  (if rollover then s.eachStr State.countDay else s).eachStr fun i s => s.clearHoldoff i

/-- The requests that a site-minute hands (R37, R39). -/
theorem accountMinute_eq (s : State) (b : Bool) : s.accountMinute b =
    ((s.minuteCounted b).eachStr fun i s => s.evaluateDue i).eachStr fun i s => s.judgeWaterDue i := rfl

theorem State.StrActs.ite {i : Str} {s t u : State} {c : Prop} [Decidable c] (h : State.StrActs i s t)
    (k : State.StrActs i s u) : State.StrActs i s (if c then t else u) := by
  split <;> assumption

theorem strActs_modCharge (s : State) {i j : Str} (h : j ≠ i) (f : Charge → Charge) : State.StrActs i s (s.modCharge j f) :=
  ⟨rfl, by unfold State.modCharge; exact State.modStr_str_ne s h _⟩

theorem strActs_modControl (s : State) {i j : Str} (h : j ≠ i) (f : Control → Control) :
    State.StrActs i s (s.modControl j f) :=
  ⟨rfl, by unfold State.modControl; exact State.modStr_str_ne s h _⟩

theorem strActs_clearHoldoff (s : State) {i j : Str} (h : j ≠ i) : State.StrActs i s (s.clearHoldoff j) := by
  unfold State.clearHoldoff
  split
  · exact .ite (strActs_modControl s h _) (.refl i s)
  · exact .refl i s

/-- The account of a string after its turn at a rollover. -/
theorem countDay_charge (s : State) (i : Str) : (s.countDay i).charge i
    = if s.present i = true then { s.charge i with daysSinceEq := satAdd sat16 (s.charge i).daysSinceEq 1 }
      else s.charge i := by
  unfold State.countDay
  split
  · exact State.modCharge_charge ..
  · rfl

/-- A control half once the site clock stands at `clock` (R37). -/
def Control.heldOffAt (clock : Stamp) (c : Control) : Control :=
  { c with holdoffUntil := c.holdoffUntil.filter fun t => !t.atOrBefore clock }

theorem clearHoldoff_str (s : State) (i : Str) :
    (s.clearHoldoff i).control i = (s.control i).heldOffAt s.mgmt.clock ∧ (s.clearHoldoff i).charge i = s.charge i := by
  unfold State.clearHoldoff Control.heldOffAt
  split
  · next t h =>
    rw [h, Option.filter_some]
    split
    · next ht => rw [ht]; exact ⟨State.modControl_control .., State.modControl_charge ..⟩
    · next ht => rw [Bool.eq_false_iff.mpr ht]; exact ⟨by rw [if_pos (show (!false) = true from rfl), ← h], rfl⟩
  · next h => exact ⟨by rw [h, Option.filter_none, ← h], rfl⟩

/-- The records of a string after the day counts and the holdoffs: only they move (R34, R37). -/
theorem minuteCounted_spec (s : State) (b : Bool) (i : Str) : s.minuteCounted b = { s with strings := (s.minuteCounted b).strings }
    ∧ (s.minuteCounted b).control i = (s.control i).heldOffAt s.mgmt.clock
    ∧ (s.minuteCounted b).charge i = if b = true ∧ s.present i = true then
        { s.charge i with daysSinceEq := satAdd sat16 (s.charge i).daysSinceEq 1 } else s.charge i := by
  have hday : ∃ u, u = (if b then s.eachStr State.countDay else s) ∧ u = { s with strings := u.strings }
      ∧ u.control i = s.control i ∧ u.charge i = if b = true ∧ s.present i = true then
        { s.charge i with daysSinceEq := satAdd sat16 (s.charge i).daysSinceEq 1 } else s.charge i := by
    cases b
    · exact ⟨s, rfl, rfl, rfl, (if_neg (by simp)).symm⟩
    · obtain ⟨u, ⟨hu, hui⟩, ⟨hv, hvi⟩⟩ := eachStr_turn (State.StrActs.refl i) State.StrActs.trans
        (f := State.countDay) (fun k u hk => .ite (strActs_modCharge u hk _) (.refl i u)) s
      have hc : u.charge i = s.charge i := by unfold State.charge; rw [hui]
      have hp : u.present i = s.present i := by rw [hu]; rfl
      refine ⟨s.eachStr State.countDay, rfl, ?_, ?_, ?_⟩
      · have hk : (u.countDay i) = { u with strings := (u.countDay i).strings } := by
          unfold State.countDay; split <;> rfl
        rw [hv, hk, hu]
      · have hk : (u.countDay i).control i = u.control i := by
          unfold State.countDay
          split
          · exact State.modCharge_control ..
          · rfl
        show ((s.eachStr State.countDay).str i).control = _
        rw [hvi]
        exact hk.trans (by unfold State.control; rw [hui])
      · show ((s.eachStr State.countDay).str i).charge = _
        rw [hvi]
        refine (countDay_charge u i).trans ?_
        rw [hp, hc]
        simp only [true_and]
  obtain ⟨u, hu, hs, hcon, hcha⟩ := hday
  obtain ⟨v, ⟨hv, hvi⟩, ⟨hw, hwi⟩⟩ := eachStr_turn (State.StrActs.refl i) State.StrActs.trans
    (f := fun i s => s.clearHoldoff i) (fun k u hk => strActs_clearHoldoff u hk) u
  obtain ⟨h1, h2⟩ := clearHoldoff_str v i
  have hk : (v.clearHoldoff i) = { v with strings := (v.clearHoldoff i).strings } := by
    unfold State.clearHoldoff
    split
    · split <;> rfl
    · rfl
  have hm : v.mgmt = s.mgmt := by rw [hv, hs]
  unfold State.minuteCounted
  rw [← hu]
  refine ⟨?_, ?_, ?_⟩
  · rw [hw, hk, hv, hs]
  · show ((u.eachStr fun i s => s.clearHoldoff i).str i).control = _
    rw [hwi]
    refine h1.trans ?_
    rw [hm, ← hcon]
    unfold State.control; rw [hvi]
  · show ((u.eachStr fun i s => s.clearHoldoff i).str i).charge = _
    rw [hwi]
    refine h2.trans (Eq.trans ?_ hcha)
    unfold State.charge; rw [hvi]

end Sys2Proof.Machine

namespace Sys2Proof.Machine

/-! ### What a site-minute enqueues (R37, R39) -/

/-- What joins of the Round Queue leave: every block but the queue, and in it the entries of the kind `P`. -/
structure State.Joins (P : Entry → Prop) (s t : State) : Prop where
  eq : t = { s with queue := t.queue, marks := t.marks }
  kept : ∀ e, P e → (e ∈ t.queue ↔ e ∈ s.queue)

section
variable {P : Entry → Prop} {s t u : State} {i : Str}

theorem State.Joins.refl (P : Entry → Prop) (s : State) : State.Joins P s s := ⟨rfl, fun _ _ => Iff.rfl⟩

theorem State.Joins.trans (h : State.Joins P s t) (k : State.Joins P t u) : State.Joins P s u :=
  ⟨by rw [k.eq, h.eq], fun e he => (k.kept e he).trans (h.kept e he)⟩

theorem joins_enqueue (s : State) (n : Entry) (h : ∀ e, P e → e.named n.string n.kind = false) :
    State.Joins P s (s.enqueue n) := by
  refine ⟨?_, fun e he => enqueue_others s n e (h e he)⟩
  unfold State.enqueue
  split <;> rfl

theorem joins_evaluateDue (s : State) (k : Str) (h : ∀ e, P e → e.named k .equalise = false) :
    State.Joins P s (s.evaluateDue k) := by
  unfold State.evaluateDue
  split
  · split
    · exact joins_enqueue s _ h
    · exact .refl P s
  · exact .refl P s

theorem joins_judgeWaterDue (s : State) (k : Str) (h : ∀ e, P e → e.named k .water = false) :
    State.Joins P s (s.judgeWaterDue k) := by
  unfold State.judgeWaterDue
  split
  · exact joins_enqueue s _ h
  · exact .refl P s

theorem State.queued_iff (s : State) (i : Str) (k : RoundKind) :
    s.queued i k = true ↔ ∃ e ∈ s.queue, e.named i k = true := by
  unfold State.queued State.entry?
  exact List.find?_isSome

/-- Whether the due reasons of a string are evaluated, and which holds, depends on its own entries alone (R37). -/
theorem State.Joins.evaluated (h : State.Joins (fun e => e.named i .equalise = true) s t) :
    t.evaluated i = s.evaluated i ∧ t.dueReason i = s.dueReason i := by
  have hq : t.queued i .equalise = s.queued i .equalise := by
    rw [Bool.eq_iff_iff, State.queued_iff, State.queued_iff]
    exact exists_congr fun e => and_congr_left fun he => h.kept e he
  obtain ⟨heq, -⟩ := h
  refine ⟨?_, ?_⟩
  · unfold State.evaluated
    rw [hq, heq]
    rfl
  · rw [heq]
    rfl

/-- The EQUALISE entry that due reason `r` enqueues (R37). -/
def State.dueEntry (s : State) (i : Str) (r : Reason) : Entry :=
  ⟨i, .equalise, (s.cfg i).autoRecipe, r, .normal, .auto, s.mgmt.clock⟩

/-- The first due reason of a string whose reasons are evaluated is enqueued (R37). -/
theorem evaluateDue_due {r : Reason} (h : s.evaluated i = true) (hr : s.dueReason i = some r) :
    s.dueEntry i r ∈ (s.evaluateDue i).queue := by
  have hq : s.queued i .equalise = false := by
    unfold State.evaluated at h
    simp only [Bool.and_eq_true, Bool.not_eq_true'] at h
    exact h.1.2
  unfold State.evaluateDue
  rw [if_pos h, hr]
  rcases enqueue_entry s (s.dueEntry i r) with ⟨hn, -⟩ | ⟨o, ho, hname, -⟩
  · exact hn
  · rw [(State.queued_iff s i .equalise).mpr ⟨o, ho, hname⟩] at hq
    cases hq

theorem evaluateDue_none (h : s.evaluated i = true → s.dueReason i = none) : s.evaluateDue i = s := by
  unfold State.evaluateDue
  split
  · next he => rw [h he]
  · rfl

theorem named_ne {e : Entry} {k : Str} {a b : RoundKind} (h : e.named i a = true) (hk : k ≠ i ∨ a ≠ b) :
    e.named k b = false := by
  rw [Entry.named_iff] at h
  rw [Bool.eq_false_iff]
  intro hn
  rw [Entry.named_iff] at hn
  rcases hk with hk | hk
  · exact hk (hn.1.symm.trans h.1)
  · exact hk (h.2.symm.trans hn.2)

/-- The EQUALISE requests of all strings in turn: a string's own reasons decide on its own entry (R37). -/
theorem eachStr_evaluateDue (s : State) (i : Str) :
    (∀ r, s.evaluated i = true → s.dueReason i = some r → s.dueEntry i r ∈ (s.eachStr fun i s => s.evaluateDue i).queue)
    ∧ ((s.evaluated i = true → s.dueReason i = none) → ∀ e, e.named i .equalise = true →
      (e ∈ (s.eachStr fun i s => s.evaluateDue i).queue ↔ e ∈ s.queue)) := by
  obtain ⟨u, h, k⟩ := eachStr_turn (State.Joins.refl fun e => e.named i .equalise = true) State.Joins.trans
    (f := fun i s => s.evaluateDue i) (fun k u hk => joins_evaluateDue u k fun e he => named_ne he (.inl hk)) s
  obtain ⟨he, hd⟩ := h.evaluated
  refine ⟨fun r h1 h2 => ?_, fun h1 e hn => ?_⟩
  · have hr : s.dueEntry i r = u.dueEntry i r := by rw [h.eq]; rfl
    rw [hr]
    refine (k.kept _ ?_).mpr (evaluateDue_due (he.trans h1) (hd.trans h2))
    rw [Entry.named_iff]
    exact ⟨rfl, rfl⟩
  · rw [k.kept e hn, evaluateDue_none (fun hu => by rw [hd]; exact h1 (he.symm.trans hu)), h.kept e hn]

/-- The WATER entry of a string with due cells (R39). -/
def State.waterDueEntry (s : State) (i : Str) : Entry :=
  ⟨i, .water, 0, (waterReason (s.dueCells i)).1, (waterReason (s.dueCells i)).2, .auto, s.mgmt.clock⟩

/-- Whether a string is owed water (R39, R40). -/
def State.owesWater (s : State) (i : Str) : Prop := s.waterJudged i = true ∧ s.dueCells i ≠ []

theorem judgeWaterDue_eq (s : State) (i : Str) [Decidable (s.owesWater i)] :
    s.judgeWaterDue i = if s.owesWater i then s.enqueue (s.waterDueEntry i) else s := by
  unfold State.judgeWaterDue
  refine if_congr ?_ rfl rfl
  unfold State.owesWater
  rw [Bool.not_eq_true', List.isEmpty_eq_false_iff]

/-- The WATER requests of all strings in turn: what a string is owed stands in its own entry (R39, R109). -/
theorem eachStr_judgeWaterDue (s : State) (i : Str) :
    (s.owesWater i → s.waterDueEntry i ∈ (s.eachStr fun i s => s.judgeWaterDue i).queue
        ∧ (∀ x ∈ s.queue, x.named i .water = false)
      ∨ ∃ o ∈ s.queue, o.named i .water = true
        ∧ o.merge (s.waterDueEntry i) ∈ (s.eachStr fun i s => s.judgeWaterDue i).queue)
    ∧ (¬ s.owesWater i → ∀ e, e.named i .water = true →
      (e ∈ (s.eachStr fun i s => s.judgeWaterDue i).queue ↔ e ∈ s.queue)) := by
  classical
  obtain ⟨u, h, k⟩ := eachStr_turn (State.Joins.refl fun e => e.named i .water = true) State.Joins.trans
    (f := fun i s => s.judgeWaterDue i) (fun k u hk => joins_judgeWaterDue u k fun e he => named_ne he (.inl hk)) s
  have how : u.owesWater i ↔ s.owesWater i := by rw [h.eq]; exact Iff.rfl
  have hn : u.waterDueEntry i = s.waterDueEntry i := by rw [h.eq]; rfl
  have hname : (s.waterDueEntry i).named i .water = true := by rw [Entry.named_iff]; exact ⟨rfl, rfl⟩
  rw [judgeWaterDue_eq, hn] at k
  refine ⟨fun h1 => ?_, fun h1 e he => ?_⟩
  · rw [if_pos (how.mpr h1)] at k
    rcases enqueue_entry u (s.waterDueEntry i) with ⟨hin, hno⟩ | ⟨o, ho, hon, hm⟩
    · refine .inl ⟨(k.kept _ hname).mpr hin, fun x hx => ?_⟩
      cases hb : x.named i .water with
      | false => rfl
      | true => exact hb.symm.trans (hno x ((h.kept x hb).mpr hx))
    · exact .inr ⟨o, (h.kept o hon).mp ho, hon, (k.kept _ (by rw [Entry.merge_named]; exact hon)).mpr hm⟩
  · rw [if_neg (mt how.mp h1)] at k
    rw [k.kept e he, h.kept e he]

/-- The joins of a site-minute leave every block but the Round Queue. -/
theorem accountMinute_joins (s : State) (b : Bool) : State.Joins (fun _ => False) (s.minuteCounted b) (s.accountMinute b) := by
  rw [accountMinute_eq]
  exact (eachStr_rel (State.Joins.refl _) State.Joins.trans (fun k u => joins_evaluateDue u k fun _ h => h.elim) _).trans
    (eachStr_rel (State.Joins.refl _) State.Joins.trans (fun k u => joins_judgeWaterDue u k fun _ h => h.elim) _)

theorem evaluateDue_transparent (h : s.engaged = false) (i : Str) : s.evaluateDue i = s := by
  unfold State.evaluateDue State.evaluated
  rw [h]
  exact if_neg (by simp)

theorem judgeWaterDue_transparent (h : s.engaged = false) (i : Str) : s.judgeWaterDue i = s := by
  unfold State.judgeWaterDue State.waterJudged
  rw [h]
  exact if_neg (by simp)

/-- Outside ENGAGED mode nothing is enqueued (R37, R39). -/
theorem accountMinute_transparent (s : State) (b : Bool) (h : s.engaged = false) : s.accountMinute b = s.minuteCounted b := by
  have hm : (s.minuteCounted b).mgmt = s.mgmt := by rw [(minuteCounted_spec s b 0).1]
  have hc : (s.minuteCounted b).engaged = false := by unfold State.engaged; rw [hm]; exact h
  rw [accountMinute_eq]
  generalize s.minuteCounted b = u at hc
  have hstep : (u.eachStr fun i s => s.evaluateDue i) = u :=
    eachStr_preserves (P := fun t => t = u) (fun i t ht => by rw [ht, evaluateDue_transparent hc]) rfl
  rw [hstep]
  exact eachStr_preserves (P := fun t => t = u) (fun i t ht => by rw [ht, judgeWaterDue_transparent hc]) rfl

end

end Sys2Proof.Machine

namespace Sys2Proof.Machine

/-! ### The allowance of a site-minute (R98, R147, R148) -/

/-- A slot told to stop withdraws no entry but the WATER entry that its own water point called for (R100). -/
theorem mem_stopSlot {s : State} {sl : SlotId} {e : Entry} (he : e ∈ s.queue)
    (h : e.kind = .water → (s.slot sl).waterCalled = true → (s.slot sl).string ≠ some e.string) :
    e ∈ (s.stopSlot sl).queue := by
  unfold State.stopSlot
  dsimp only
  split
  · next i hw hs =>
    unfold State.withdrawWater State.removeEntry
    split
    · refine List.mem_filter.mpr ⟨by rw [State.modSlot_queue]; exact he, ?_⟩
      have hn : e.named i .water = false := by
        rw [Bool.eq_false_iff]
        intro hn
        rw [Entry.named_iff] at hn
        exact h hn.2 hw (by rw [hs, hn.1])
      rw [hn]
      rfl
    · rw [State.modSlot_queue]; exact he
  · rw [State.modSlot_queue]; exact he

/-- An end cause withdraws no entry but the WATER entry that a water point of the string's slot called for (R67, R100). -/
theorem mem_endCause {s : State} {i : Str} {c : EndReason} {e : Entry} (he : e ∈ s.queue)
    (h : e.kind = .water → ∀ k, (s.control i).slot = some k → (s.slot k).waterCalled = true →
      (s.slot k).string ≠ some e.string) : e ∈ (s.endCause i c).queue := by
  have hstop : e ∈ ((s.setEnd i c).stopSlotOf i).queue := by
    unfold State.stopSlotOf State.setEnd
    rw [State.modControl_control]
    dsimp only
    split
    · next k hk =>
      refine mem_stopSlot (by rw [State.modControl_queue]; exact he) fun hw => ?_
      rw [State.modControl_slot]
      exact h hw k hk
    · rw [State.modControl_queue]; exact he
  have hend : e ∈ (s.endRound i c).queue := by
    have hq : (s.beforeReturn i c).queue = ((s.setEnd i c).stopSlotOf i).queue := by
      unfold State.beforeReturn State.completeEqualise State.setHoldoff
      split <;> split <;> rfl
    rw [endRound_eq, startReturn_queue, hq]
    exact hstop
  unfold State.endCause
  split
  · exact hend
  · exact hend
  · rw [causeInReturn_queue]; exact he
  · exact he

/-- What the ends of rounds with ALLOWANCE leave. -/
structure State.Spent (s t : State) : Prop where
  handed : State.Handed true false s t
  cells : t.cells = s.cells
  site : t.site = s.site
  mgmt : t.mgmt = s.mgmt
  charge : ∀ j, t.charge j = s.charge j
  equalise : ∀ e ∈ s.queue, e.kind = .equalise → e ∈ t.queue
  bind : ∀ k, (t.slot k).string = (s.slot k).string
  slot : ∀ k, t.slot k = s.slot k ∨ t.slot k = (s.slot k).stopped

section
variable {s t u : State} {i : Str}

theorem State.Spent.refl (s : State) : s.Spent s :=
  ⟨.refl s, rfl, rfl, rfl, fun _ => rfl, fun _ h _ => h, fun _ => rfl, fun _ => .inl rfl⟩

theorem SlotRec.stopped_stopped (r : SlotRec) : r.stopped.stopped = r.stopped := rfl

theorem State.Spent.trans (h : s.Spent t) (k : t.Spent u) : s.Spent u where
  handed := h.handed.trans k.handed
  cells := k.cells.trans h.cells
  site := k.site.trans h.site
  mgmt := k.mgmt.trans h.mgmt
  charge j := (k.charge j).trans (h.charge j)
  equalise e he hk := k.equalise e (h.equalise e he hk) hk
  bind x := (k.bind x).trans (h.bind x)
  slot x := by
    rcases k.slot x with hx | hx <;> rcases h.slot x with hy | hy <;> rw [hx, hy]
    · exact .inl rfl
    · exact .inr rfl
    · exact .inr rfl
    · exact .inr (SlotRec.stopped_stopped _)

theorem spent_slotEnds (s : State) (sl : SlotId) : s.Spent (s.slotEnds sl .allowance) := by
  have hh := handed_slotEnds (State.Handed.refl (joins := false) s) sl .allowance rfl (by decide)
  unfold State.slotEnds at hh ⊢
  split at hh
  · next j hj =>
    have hf := frame_endCause s j .allowance
    exact ⟨hh, hf.cells, hf.site, hf.mgmt, endCause_charge (by decide) s j,
      fun e he hk => mem_endCause he fun hw => (by rw [hk] at hw; cases hw),
      fun k => (hf.bind k).1, endCause_slot s j .allowance⟩
  · exact .refl s

/-- The turn of a slot when the allowance is exhausted (R98). -/
def State.exhaust (sl : SlotId) (s : State) : State :=
  if (s.slot sl).inStretch && (s.stretch sl).source then s.slotEnds sl .allowance else s

theorem allowanceExhausted_eq (s : State) : s.allowanceExhausted = (s.exhaust .A).exhaust .B := rfl

theorem spent_exhaust (s : State) (sl : SlotId) : s.Spent (s.exhaust sl) := by
  unfold State.exhaust
  split
  · exact spent_slotEnds s sl
  · exact .refl s

theorem spent_allowanceExhausted (s : State) : s.Spent s.allowanceExhausted :=
  (spent_exhaust s .A).trans (spent_exhaust _ .B)

/-- No round that ALLOWANCE can end has called for the string's water. -/
def State.Spares (s : State) (i : Str) : Prop :=
  ∀ sl j k, (s.slot sl).inStretch = true → (s.slot sl).string = some j → (s.control j).slot = some k →
    (s.slot k).waterCalled = true → (s.slot k).string ≠ some i

theorem State.Spent.spares (h : s.Spent t) (k : s.Spares i) : t.Spares i := by
  intro sl j x hin hj hx hw
  have hsl : t.slot sl = s.slot sl := (h.slot sl).resolve_right fun e => by rw [e] at hin; cases hin
  have hsx : t.slot x = s.slot x := (h.slot x).resolve_right fun e => by rw [e] at hw; cases hw
  rw [hsl] at hin hj
  rw [h.handed.slotOf] at hx
  rw [hsx] at hw ⊢
  exact k sl j x hin hj hx hw

theorem mem_exhaust {sl : SlotId} {e : Entry} (h : s.Spares e.string) (he : e ∈ s.queue) : e ∈ (s.exhaust sl).queue := by
  unfold State.exhaust
  split
  · next hc =>
    rw [Bool.and_eq_true] at hc
    unfold State.slotEnds
    split
    · next j hj => exact mem_endCause he fun _ k hk hw => h sl j k hc.1 hj hk hw
    · exact he
  · exact he

theorem mem_allowanceExhausted {e : Entry} (h : s.Spares e.string) (he : e ∈ s.queue) : e ∈ s.allowanceExhausted.queue :=
  mem_exhaust ((spent_exhaust s .A).spares h) (mem_exhaust h he)

/-- Slot `o` ends no round of `i` (R98). -/
def State.Apart (s : State) (o : SlotId) (i : Str) : Prop :=
  (s.slot o).entryState = none ∨ ∀ j, (s.slot o).string = some j → j ≠ i ∧ (s.control j).slot = some o

theorem exhaust_apart {sl o : SlotId} (ho : o ≠ sl) (h : s.Apart o i) :
    (s.exhaust o).str i = s.str i ∧ (s.exhaust o).slot sl = s.slot sl ∧ (s.exhaust o).images = s.images := by
  unfold State.exhaust
  split
  · next hc =>
    rw [Bool.and_eq_true] at hc
    unfold State.slotEnds
    split
    · next j hj =>
      obtain ⟨hne, hslot⟩ := h.resolve_left (fun e => by simp [SlotRec.inStretch, SlotRec.active, e] at hc) j hj
      have hf := frame_endCause s j .allowance
      rw [hslot] at hf
      exact ⟨hf.str i hne.symm, hf.slot sl (by simp [ho]), hf.images⟩
    · exact ⟨rfl, rfl, rfl⟩
  · exact ⟨rfl, rfl, rfl⟩

/-- The round of a source-needing stretch ends with ALLOWANCE (R98). -/
theorem exhaust_ends {sl : SlotId} (h : s.holds sl i) (hq : (s.control i).state = .equalising)
    (hin : (s.slot sl).inStretch = true) (hsrc : (s.stretch sl).source = true) :
    s.exhaust sl = s.endRound i .allowance := by
  unfold State.exhaust State.slotEnds
  rw [hin, hsrc, h.1]
  exact endCause_away (.inr hq) _

/-- ALLOWANCE ends the round of a source-needing stretch, whichever slot is first (R98). -/
theorem allowanceExhausted_ends {sl : SlotId} (h : s.holds sl i) (hq : (s.control i).state = .equalising)
    (ha : ∀ o, o ≠ sl → s.Apart o i) (hin : (s.slot sl).inStretch = true) (hsrc : (s.stretch sl).source = true) :
    (s.allowanceExhausted.control i).state = .returning ∧ (s.allowanceExhausted.control i).endReason = some .allowance
      ∧ (s.allowanceExhausted.slot sl).entryState = none := by
  have hend : ∀ u : State, u.holds sl i → (u.control i).state = .equalising → (u.slot sl).inStretch = true →
      (u.stretch sl).source = true → ((u.exhaust sl).control i).state = .returning
        ∧ ((u.exhaust sl).control i).endReason = some .allowance ∧ ((u.exhaust sl).slot sl).entryState = none := by
    intro u h1 h2 h3 h4
    have he := endRound_ended u i .allowance
    rw [exhaust_ends h1 h2 h3 h4]
    exact ⟨he.state, he.endReason, (he.stopped sl h1.2).1⟩
  rw [allowanceExhausted_eq]
  cases sl with
  | A =>
    have hf := frame_endRound s i .allowance
    rw [h.2] at hf
    have hB : (s.exhaust .A).Apart .B i := by
      rw [exhaust_ends h hq hin hsrc]
      rcases ha .B (by decide) with hi | hi
      · exact .inl (by rw [hf.slot .B (by decide)]; exact hi)
      · refine .inr fun j hj => ?_
        rw [hf.slot .B (by decide)] at hj
        obtain ⟨h1, h2⟩ := hi j hj
        exact ⟨h1, by unfold State.control; rw [hf.str j h1]; exact h2⟩
    obtain ⟨h1, h2, -⟩ := exhaust_apart (sl := .A) (by decide) hB
    unfold State.control
    rw [h1, h2]
    exact hend s h hq hin hsrc
  | B =>
    obtain ⟨h1, h2, h3⟩ := exhaust_apart (sl := .B) (by decide) (ha .A (by decide))
    have hc : (s.exhaust .A).control i = s.control i := by unfold State.control; rw [h1]
    refine hend _ ⟨by rw [h2]; exact h.1, by rw [hc]; exact h.2⟩ (by rw [hc]; exact hq) (by rw [h2]; exact hin) ?_
    rw [← hsrc]
    unfold State.stretch State.slotEntry State.lim State.phase
    rw [h2, h3]

/-- The allowance once the minute is counted (R147, R148). -/
def State.allowanceTaken (s : State) (rollover : Bool) : State :=
  s.modSite fun t => { t with allowance :=
    if rollover then s.lim.allowanceMin else if s.site.spendMark then s.site.allowance - 1 else s.site.allowance }

/-- The Site Line Unit's part of a site-minute: the allowance, its end, and the mark of the next minute (R147, R148). -/
theorem allowanceMinute_eq (s : State) (b : Bool) : ∃ v, (s.allowanceTaken b).Spent v
    ∧ s.allowanceMinute b = v.modSite (fun t => { t with spendMark := t.src.level && v.judgeSpending })
    ∧ (v = s.allowanceTaken b ∨ v = (s.allowanceTaken b).allowanceExhausted)
    ∧ (b = false → s.site.spendMark = true → s.site.allowance = 1 → v = (s.allowanceTaken b).allowanceExhausted) := by
  cases b with
  | true => exact ⟨_, .refl _, rfl, .inl rfl, fun h => by cases h⟩
  | false =>
    unfold State.allowanceMinute
    rw [if_neg (by decide)]
    by_cases hs : s.site.spendMark = true ∧ 0 < s.site.allowance
    · have ht : s.allowanceTaken false = s.modSite fun t => { t with allowance := t.allowance - 1 } := by
        unfold State.allowanceTaken
        rw [if_neg (by decide), if_pos hs.1]
        rfl
      rw [if_pos hs, ← ht]
      have ha : (s.allowanceTaken false).site.allowance = s.site.allowance - 1 := by rw [ht]; rfl
      by_cases hz : (s.allowanceTaken false).site.allowance = 0
      · exact ⟨_, spent_allowanceExhausted _, by dsimp only; rw [if_pos hz], .inr rfl, fun _ _ _ => rfl⟩
      · refine ⟨_, .refl _, by dsimp only; rw [if_neg hz], .inl rfl, fun _ _ h1 => absurd ?_ hz⟩
        rw [ha, h1]
    · have ht : s.allowanceTaken false = s := by
        unfold State.allowanceTaken
        rw [if_neg (by decide)]
        split
        · next hm =>
          have hz : s.site.allowance = 0 := by
            by_contra hz
            exact hs ⟨hm, Nat.pos_of_ne_zero hz⟩
          rw [hz, Nat.zero_sub, ← hz]
          rfl
        · rfl
      rw [if_neg hs, ht]
      exact ⟨s, .refl s, rfl, .inl rfl, fun _ hm h1 => absurd ⟨hm, by omega⟩ hs⟩

end

end Sys2Proof.Machine

namespace Sys2Proof.Machine

/-! ### What is judged at a site-minute (R35 to R37, R39) -/

section
variable {s t : State} {i : Str}

theorem evaluated_iff (s : State) (i : Str) : s.evaluated i = true ↔ s.mgmt.loaded.limits = true ∧ s.mgmt.mode = .engaged
    ∧ (s.cfg i).present = true ∧ (s.control i).state = .onBus ∧ (s.control i).holdoffUntil = none
    ∧ s.recipeIsEmpty (s.cfg i).autoRecipe = false ∧ (∀ e ∈ s.queue, e.string = i → e.kind ≠ .equalise)
    ∧ (s.control i).slot = none := by
  have hq : s.queued i .equalise = false ↔ ∀ e ∈ s.queue, e.string = i → e.kind ≠ .equalise := by
    rw [Bool.eq_false_iff, ne_eq, State.queued_iff]
    simp only [Entry.named_iff, not_exists, not_and, ne_eq]
  unfold State.evaluated State.limitsLoaded State.engaged State.present State.inState State.bound
  simp only [Bool.and_eq_true, Bool.not_eq_true', beq_iff_eq, Option.isNone_iff_eq_none, Option.isSome_eq_false_iff, hq]
  tauto

/-- The first due reason that holds (R35 to R37). -/
theorem dueReason_first {d p q : Prop} (hd : ((s.cfg i).dueDays ≠ 0 ∧ (s.cfg i).dueDays ≤ (s.charge i).daysSinceEq) ↔ d)
    (hp : s.reached ((s.charge i).spreadTimer.map (· + (s.cfg i).spreadMin * 60000)) = true ↔ p)
    (hq : ((s.cfg i).throughputPct ≠ 0 ∧ (s.cfg i).throughputC ≤ (s.charge i).dDis) ↔ q) :
    (d ∨ p ∨ q → ∃ r, s.dueReason i = some r ∧ (d → r = .dueDays) ∧ (¬ d → p → r = .dueSpread)
      ∧ (¬ d → ¬ p → r = .dueThroughput))
    ∧ (¬ d ∧ ¬ p ∧ ¬ q → s.dueReason i = none) := by
  unfold State.dueReason
  dsimp only
  by_cases h1 : d
  · rw [if_pos (hd.mpr h1)]
    exact ⟨fun _ => ⟨_, rfl, fun _ => rfl, fun h => absurd h1 h, fun h => absurd h1 h⟩, fun h => absurd h1 h.1⟩
  · rw [if_neg (mt hd.mp h1)]
    by_cases h2 : p
    · rw [if_pos (hp.mpr h2)]
      exact ⟨fun _ => ⟨_, rfl, fun h => absurd h h1, fun _ _ => rfl, fun _ h => absurd h2 h⟩, fun h => absurd h2 h.2.1⟩
    · rw [if_neg (mt hp.mp h2)]
      by_cases h3 : q
      · rw [if_pos (hq.mpr h3)]
        exact ⟨fun _ => ⟨_, rfl, fun h => absurd h h1, fun _ h => absurd h h2, fun _ _ => rfl⟩, fun h => absurd h3 h.2.2⟩
      · rw [if_neg (mt hq.mp h3)]
        exact ⟨fun h => by tauto, fun _ => rfl⟩

theorem mem_dueCells (s : State) (i : Str) (c : Cell) : c ∈ s.dueCells i ↔ ∃ p, s.cellDue i p ∧ s.cellAt i p = c := by
  unfold State.dueCells
  rw [List.mem_filter, List.mem_map]
  constructor
  · rintro ⟨⟨p, hp, rfl⟩, hd⟩
    unfold Cell.due at hd
    simp only [Bool.and_eq_true, Bool.not_eq_true', Bool.or_eq_true, beq_iff_eq, decide_eq_true_eq,
      Option.isNone_iff_eq_none] at hd
    exact ⟨p, ⟨(s.mem_positions i p).mp hp, hd.1.1, hd.1.2, or_assoc.mp hd.2⟩, rfl⟩
  · rintro ⟨p, ⟨hin, hf, hc, hw⟩, rfl⟩
    refine ⟨⟨p, (s.mem_positions i p).mpr hin, rfl⟩, ?_⟩
    unfold Cell.due
    simp only [Bool.and_eq_true, Bool.not_eq_true', Bool.or_eq_true, beq_iff_eq, decide_eq_true_eq,
      Option.isNone_iff_eq_none]
    exact ⟨⟨hf, hc⟩, or_assoc.mpr hw⟩

theorem dueCells_any (s : State) (i : Str) (l : Level) :
    ((s.dueCells i).any fun c => c.level == l) = true ↔ ∃ p, s.cellDue i p ∧ (s.cellAt i p).level = l := by
  simp only [List.any_eq_true, beq_iff_eq, mem_dueCells]
  constructor
  · rintro ⟨c, ⟨p, hp, rfl⟩, hl⟩; exact ⟨p, hp, hl⟩
  · rintro ⟨p, hp, hl⟩; exact ⟨_, ⟨p, hp, rfl⟩, hl⟩

theorem owesWater_iff (s : State) (i : Str) :
    s.owesWater i ↔ s.mgmt.loaded.limits = true ∧ s.mgmt.mode = .engaged ∧ s.waterOwed i := by
  have hd : s.dueCells i ≠ [] ↔ ∃ p, s.cellDue i p := by
    constructor
    · intro h
      obtain ⟨c, hc⟩ := List.exists_mem_of_ne_nil _ h
      obtain ⟨p, hp, -⟩ := (mem_dueCells s i c).mp hc
      exact ⟨p, hp⟩
    · rintro ⟨p, hp⟩
      exact List.ne_nil_of_mem ((mem_dueCells s i _).mpr ⟨p, hp, rfl⟩)
  have hj : s.waterJudged i = true ↔ s.mgmt.loaded.limits = true ∧ s.mgmt.mode = .engaged ∧ (s.cfg i).present = true
      ∧ (s.cfg i).autoWater = true ∧ (s.cfg i).manifoldAddr ≠ 0xFF ∧ (s.control i).state ≠ .out
      ∧ (s.water.state = .idle ∨ s.water.string ≠ some i) := by
    unfold State.waterJudged State.limitsLoaded State.engaged State.present StringCfg.hasManifold State.inState State.watering
    simp only [Bool.and_eq_true, Bool.not_eq_true', beq_iff_eq, bne_iff_ne, Bool.and_eq_false_iff, beq_eq_false_iff_ne,
      bne_eq_false_iff_eq, ne_eq]
    tauto
  unfold State.owesWater
  rw [hj, hd]
  constructor
  · rintro ⟨⟨h1, h2, h3, h4, h5, h6, h7⟩, h8⟩; exact ⟨h1, h2, h3, h4, h5, h6, h7, h8⟩
  · rintro ⟨h1, h2, h3, h4, h5, h6, h7, h8⟩; exact ⟨⟨h1, h2, h3, h4, h5, h6, h7⟩, h8⟩

/-- Reason and priority of the water owed (R39). -/
theorem waterDueEntry_spec (s : State) (i : Str) :
    ((∃ p, s.cellDue i p ∧ (s.cellAt i p).level = .dry) →
      (s.waterDueEntry i).priority = .urgent ∧ (s.waterDueEntry i).reason = .dry)
    ∧ ((∀ p, s.cellDue i p → (s.cellAt i p).level ≠ .dry) → (s.waterDueEntry i).priority = .normal
      ∧ ((∃ p, s.cellDue i p ∧ (s.cellAt i p).level = .low) → (s.waterDueEntry i).reason = .level)
      ∧ ((∀ p, s.cellDue i p → (s.cellAt i p).level ≠ .low) → (s.waterDueEntry i).reason = .deficit)) := by
  have hno : ∀ l, (∀ p, s.cellDue i p → (s.cellAt i p).level ≠ l) →
      ¬ ((s.dueCells i).any fun c => c.level == l) = true := fun l h hany => by
    obtain ⟨p, hp, hl⟩ := (dueCells_any s i l).mp hany
    exact h p hp hl
  unfold State.waterDueEntry waterReason
  refine ⟨fun h => ?_, fun h => ?_⟩
  · rw [if_pos ((dueCells_any s i .dry).mpr h)]
    exact ⟨rfl, rfl⟩
  · rw [if_neg (hno .dry h)]
    refine ⟨by split <;> rfl, fun hl => ?_, fun hl => ?_⟩
    · rw [if_pos ((dueCells_any s i .low).mpr hl)]
    · rw [if_neg (hno .low hl)]

/-- A cell is due by its record and the images alone (R39). -/
theorem cellDue_same (hi : t.images = s.images) (hc : t.cells = s.cells) (p : Pos) : t.cellDue i p ↔ s.cellDue i p := by
  have hcell : t.cellAt i p = s.cellAt i p := by unfold State.cellAt State.cell; rw [hc]
  have hlim : t.lim = s.lim := by unfold State.lim; rw [hi]
  have hcfg : t.cfg i = s.cfg i := by unfold State.cfg; rw [hi]
  constructor
  · rintro ⟨h1, h2, h3, h4⟩
    rw [hcell] at h2 h3 h4
    exact ⟨by rw [← hcfg]; exact h1, h2, h3, by rw [← hlim]; exact h4⟩
  · rintro ⟨h1, h2, h3, h4⟩
    rw [← hcell] at h2 h3 h4
    exact ⟨by rw [hcfg]; exact h1, h2, h3, by rw [hlim]; exact h4⟩

theorem waterOwed_same (hi : t.images = s.images) (hc : t.cells = s.cells) (hw : t.water = s.water)
    (hst : (t.control i).state = (s.control i).state) (h : s.waterOwed i) : t.waterOwed i := by
  have hcfg : t.cfg i = s.cfg i := by unfold State.cfg; rw [hi]
  obtain ⟨h1, h2, h3, h4, h5, p, h6⟩ := h
  exact ⟨by rw [hcfg]; exact h1, by rw [hcfg]; exact h2, by rw [hcfg]; exact h3, by rw [hst]; exact h4, by rw [hw]; exact h5,
    p, (cellDue_same hi hc p).mpr h6⟩

end

end Sys2Proof.Machine

namespace Sys2Proof.Machine

/-! ### What the Site Line Unit's part of a site-minute leaves (R147, R148) -/

section
variable {s : State} {i : Str}

/-- The blocks, the accounts and the holdoffs that it leaves. -/
theorem allowanceMinute_fixed (s : State) (b : Bool) : (s.allowanceMinute b).cells = s.cells
    ∧ (s.allowanceMinute b).water = s.water ∧ (s.allowanceMinute b).images = s.images
    ∧ (s.allowanceMinute b).mgmt = s.mgmt ∧ (∀ i, (s.allowanceMinute b).charge i = s.charge i)
    ∧ ∀ i, ((s.allowanceMinute b).control i).holdoffUntil = (s.control i).holdoffUntil := by
  obtain ⟨v, hv, heq, -⟩ := allowanceMinute_eq s b
  rw [heq]
  exact ⟨hv.cells, hv.handed.water, hv.handed.images, hv.mgmt, hv.charge, hv.handed.holdoffUntil⟩

/-- The allowance and the mark of the next minute (R147, R148). -/
theorem allowanceMinute_site (s : State) (b : Bool) :
    (s.allowanceMinute b).site.allowance = (if b then s.lim.allowanceMin
      else if s.site.spendMark then s.site.allowance - 1 else s.site.allowance)
    ∧ ((s.allowanceMinute b).site.spendMark = true ↔ s.site.src.level = true ∧ ∃ sl,
      (((s.allowanceMinute b).slot sl).entryState = some .run ∨ ((s.allowanceMinute b).slot sl).entryState = some .direct)
        ∧ ((s.allowanceMinute b).stretch sl).source = true) := by
  obtain ⟨v, hv, heq, -⟩ := allowanceMinute_eq s b
  have hslot : ∀ x, (s.allowanceMinute b).slot x = v.slot x := fun x => by rw [heq, State.modSite_slot]
  have himgs : (s.allowanceMinute b).images = v.images := by rw [heq]; rfl
  have hstretch : ∀ x, (s.allowanceMinute b).stretch x = v.stretch x := fun x => by
    unfold State.stretch State.slotEntry State.lim State.phase
    rw [hslot, himgs]
  have hmark : (s.allowanceMinute b).site.spendMark = (v.site.src.level && v.judgeSpending) := by rw [heq]; rfl
  refine ⟨?_, ?_⟩
  · rw [heq]
    exact congrArg Site.allowance hv.site
  · have hsrc : v.site.src = s.site.src := (congrArg Site.src hv.site).trans rfl
    rw [hmark, Bool.and_eq_true, hsrc]
    simp only [hslot, hstretch]
    unfold State.judgeSpending
    rw [List.any_eq_true]
    simp only [SlotRec.active, Bool.and_eq_true, Bool.or_eq_true, beq_iff_eq]
    exact and_congr_right fun _ => ⟨fun ⟨x, _, h⟩ => ⟨x, h⟩, fun ⟨x, h⟩ => ⟨x, by cases x <;> decide, h⟩⟩

/-- It brings no entry, and withdraws none but WATER that a round which it ends had called for (R98, R100). -/
theorem allowanceMinute_queue (s : State) (b : Bool) : (∀ e ∈ (s.allowanceMinute b).queue, e ∈ s.queue)
    ∧ (∀ e ∈ s.queue, e.kind = .equalise ∨ s.Spares e.string → e ∈ (s.allowanceMinute b).queue) := by
  obtain ⟨v, hv, heq, hor, -⟩ := allowanceMinute_eq s b
  rw [heq]
  refine ⟨hv.handed.queue rfl, fun e he hk => ?_⟩
  rw [State.modSite_queue]
  rcases hk with hk | hk
  · exact hv.equalise e he hk
  · rcases hor with h | h <;> rw [h]
    · exact he
    · refine mem_allowanceExhausted (fun sl j k => ?_) he
      unfold State.allowanceTaken
      rw [State.modSite_slot, State.modSite_slot, State.modSite_control]
      exact hk sl j k

/-- The last minute of the allowance ends the round of a source-needing stretch (R98, R147). -/
theorem allowanceMinute_ends {sl : SlotId} (hm : s.site.spendMark = true) (h1 : s.site.allowance = 1) (h : s.holds sl i)
    (hq : (s.control i).state = .equalising) (ha : ∀ o, o ≠ sl → s.Apart o i) (hin : (s.slot sl).inStretch = true)
    (hsrc : (s.stretch sl).source = true) :
    ((s.allowanceMinute false).control i).state = .returning
      ∧ ((s.allowanceMinute false).control i).endReason = some .allowance
      ∧ ((s.allowanceMinute false).slot sl).entryState = none := by
  obtain ⟨v, -, heq, -, hend⟩ := allowanceMinute_eq s false
  have hslot : ∀ x, (s.allowanceTaken false).slot x = s.slot x := fun x => by
    unfold State.allowanceTaken; rw [State.modSite_slot]
  have hstretch : (s.allowanceTaken false).stretch sl = s.stretch sl := by
    unfold State.stretch State.slotEntry
    rw [hslot]
    rfl
  rw [heq, hend rfl hm h1, State.modSite_slot, State.modSite_control]
  refine allowanceExhausted_ends ⟨by rw [hslot]; exact h.1, h.2⟩ hq (fun o ho => ?_) (by rw [hslot]; exact hin)
    (by rw [hstretch]; exact hsrc)
  unfold State.Apart
  rw [hslot]
  exact ha o ho

end

/-! ### A site-minute as a whole (R186) -/

/-- The site clock has advanced (R186). -/
def State.minuteTicked (s : State) : State :=
  s.modMgmt fun m => { m with clock := m.clock.next, minuteEnd := m.minuteEnd + 60000 }

/-- The minute that begins is the first of a day (R34). -/
def State.rollsOver (s : State) : Bool := s.minuteTicked.mgmt.clock.minute == 0

/-- The state in which the site-minute's due reasons are judged (R37, R39). -/
def State.minuteDue (s : State) : State := s.minuteTicked.minuteCounted s.rollsOver

/-- The state after the Charge Account Unit's part of the site-minute. -/
def State.minuteAccounted (s : State) : State := s.minuteTicked.accountMinute s.rollsOver

theorem minutePasses_eq (s : State) :
    s.minutePasses = (s.minuteAccounted.allowanceMinute s.rollsOver).markScan := rfl

section
variable {s : State} {i : Str}

theorem rollsOver_iff (s : State) : s.rollsOver = true ↔ s.mgmt.clock.minute = 1439 := by
  unfold State.rollsOver State.minuteTicked State.modMgmt Stamp.next
  dsimp only
  rw [beq_iff_eq]
  split
  · next h => exact ⟨fun _ => h, fun _ => rfl⟩
  · next h => exact ⟨fun k => absurd k (Nat.succ_ne_zero _), fun k => absurd k h⟩

theorem strings_only {s t : State} (h : t = { s with strings := t.strings }) : t.now = s.now ∧ t.images = s.images
    ∧ t.cells = s.cells ∧ t.water = s.water ∧ t.queue = s.queue ∧ t.mgmt = s.mgmt ∧ t.site = s.site
    ∧ ∀ x, t.slot x = s.slot x := by
  rw [h]
  exact ⟨rfl, rfl, rfl, rfl, rfl, rfl, rfl, fun x => by cases x <;> rfl⟩

theorem minuteDue_fixed (s : State) : s.minuteDue.now = s.now ∧ s.minuteDue.images = s.images ∧ s.minuteDue.cells = s.cells
    ∧ s.minuteDue.water = s.water ∧ s.minuteDue.queue = s.queue ∧ s.minuteDue.mgmt = s.minuteTicked.mgmt
    ∧ s.minuteDue.site = s.site ∧ ∀ x, s.minuteDue.slot x = s.slot x := by
  obtain ⟨h1, h2, h3, h4, h5, h6, h7, h8⟩ := strings_only (minuteCounted_spec s.minuteTicked s.rollsOver 0).1
  exact ⟨h1, h2, h3, h4, h5, h6, h7, fun x => (h8 x).trans (State.modMgmt_slot ..)⟩

theorem minuteDue_control (s : State) (i : Str) :
    s.minuteDue.control i = (s.control i).heldOffAt s.minuteTicked.mgmt.clock := by
  exact (minuteCounted_spec s.minuteTicked s.rollsOver i).2.1

theorem minuteDue_charge (s : State) (i : Str) : s.minuteDue.charge i = if s.rollsOver = true ∧ s.present i = true then
    { s.charge i with daysSinceEq := satAdd sat16 (s.charge i).daysSinceEq 1 } else s.charge i := by
  exact (minuteCounted_spec s.minuteTicked s.rollsOver i).2.2

theorem State.Joins.fixed {P : Entry → Prop} {s t : State} (h : State.Joins P s t) : t.images = s.images
    ∧ t.cells = s.cells ∧ t.water = s.water ∧ t.site = s.site ∧ t.mgmt = s.mgmt ∧ (∀ x, t.slot x = s.slot x)
    ∧ (∀ i, t.control i = s.control i) ∧ ∀ i, t.charge i = s.charge i := by
  rw [h.eq]
  exact ⟨rfl, rfl, rfl, rfl, rfl, fun x => by cases x <;> rfl, fun _ => rfl, fun _ => rfl⟩

/-- What a string is owed does not depend on the queue (R39). -/
theorem State.Joins.owesWater {P : Entry → Prop} {s t : State} (h : State.Joins P s t) (i : Str) :
    (t.owesWater i ↔ s.owesWater i) ∧ t.waterDueEntry i = s.waterDueEntry i := by
  rw [h.eq]
  exact ⟨Iff.rfl, rfl⟩

/-- What the Charge Account Unit's part of a site-minute leaves once its due reasons have been judged. -/
theorem minuteAccounted_fixed (s : State) : s.minuteAccounted.images = s.images ∧ s.minuteAccounted.cells = s.cells
    ∧ s.minuteAccounted.water = s.water ∧ s.minuteAccounted.site = s.site ∧ s.minuteAccounted.mgmt = s.minuteTicked.mgmt
    ∧ (∀ x, s.minuteAccounted.slot x = s.slot x) ∧ (∀ i, s.minuteAccounted.control i = s.minuteDue.control i)
    ∧ ∀ i, s.minuteAccounted.charge i = s.minuteDue.charge i := by
  have h : State.Joins (fun _ => False) s.minuteDue s.minuteAccounted := accountMinute_joins s.minuteTicked s.rollsOver
  obtain ⟨k1, k2, k3, k4, k5, k6, k7, k8⟩ := h.fixed
  obtain ⟨-, d1, d2, d3, -, d5, d4, d6⟩ := minuteDue_fixed s
  exact ⟨k1.trans d1, k2.trans d2, k3.trans d3, k4.trans d4, k5.trans d5, fun x => (k6 x).trans (d6 x), k7, k8⟩

/-- The blocks that a site-minute leaves, the clock that it moves and the scan that it starts. -/
theorem minutePasses_fixed (s : State) : s.minutePasses.cells = s.cells ∧ s.minutePasses.water = s.water
    ∧ s.minutePasses.images = s.images ∧ s.minutePasses.mgmt = s.minuteTicked.mgmt ∧ s.minutePasses.marks.scan = true := by
  obtain ⟨k1, k2, k3, -, k5, -⟩ := minuteAccounted_fixed s
  obtain ⟨h1, h2, h3, h4, -⟩ := allowanceMinute_fixed s.minuteAccounted s.rollsOver
  rw [minutePasses_eq]
  exact ⟨h1.trans k2, h2.trans k3, h3.trans k1, h4.trans k5, rfl⟩

/-- The day count and the holdoff of a string after a site-minute (R34, R37). -/
theorem minutePasses_records (s : State) (i : Str) : s.minutePasses.charge i = s.minuteDue.charge i
    ∧ (s.minutePasses.control i).holdoffUntil = (s.minuteDue.control i).holdoffUntil := by
  obtain ⟨-, -, -, -, -, -, k7, k8⟩ := minuteAccounted_fixed s
  obtain ⟨-, -, -, -, h5, h6⟩ := allowanceMinute_fixed s.minuteAccounted s.rollsOver
  rw [minutePasses_eq, markScan_charge, markScan_control]
  exact ⟨(h5 i).trans (k8 i), (h6 i).trans (congrArg Control.holdoffUntil (k7 i))⟩

/-- The allowance and the mark of the next minute (R147, R148). -/
theorem minutePasses_site (s : State) :
    s.minutePasses.site.allowance = (if s.rollsOver then s.lim.allowanceMin
      else if s.site.spendMark then s.site.allowance - 1 else s.site.allowance)
    ∧ (s.minutePasses.site.spendMark = true ↔ s.site.src.level = true ∧ ∃ sl,
      ((s.minutePasses.slot sl).entryState = some .run ∨ (s.minutePasses.slot sl).entryState = some .direct)
        ∧ (s.minutePasses.stretch sl).source = true) := by
  obtain ⟨himg, -, -, hsite, -⟩ := minuteAccounted_fixed s
  have hlim : s.minuteAccounted.lim = s.lim := by unfold State.lim; rw [himg]
  have h := allowanceMinute_site s.minuteAccounted s.rollsOver
  rw [minutePasses_eq]
  rw [hlim, hsite] at h
  generalize s.minuteAccounted.allowanceMinute s.rollsOver = u at h
  refine ⟨h.1, ?_⟩
  simp only [markScan_slot]
  exact h.2

/-- The entries of the Round Queue after a site-minute: those that the Charge Account Unit left but for withdrawn WATER (R100). -/
theorem minutePasses_queue (s : State) : (∀ e ∈ s.minutePasses.queue, e ∈ s.minuteAccounted.queue)
    ∧ (∀ e ∈ s.minuteAccounted.queue, e.kind = .equalise ∨ s.minuteAccounted.Spares e.string →
      e ∈ s.minutePasses.queue) := by
  have h := allowanceMinute_queue s.minuteAccounted s.rollsOver
  rw [minutePasses_eq]
  generalize s.minuteAccounted.allowanceMinute s.rollsOver = u at h
  exact h

/-- The Round Queue as the Charge Account Unit leaves it: the EQUALISE requests of all strings, then the WATER requests (log 34). -/
theorem minuteAccounted_eq (s : State) : ∃ q, q = (s.minuteDue.eachStr fun i s => s.evaluateDue i)
    ∧ s.minuteAccounted = q.eachStr fun i s => s.judgeWaterDue i := ⟨_, rfl, rfl⟩

/-- A string's own due reasons decide on its EQUALISE entry (R37). -/
theorem minutePasses_equalise (s : State) (i : Str) :
    (∀ r, s.minuteDue.evaluated i = true → s.minuteDue.dueReason i = some r →
      s.minuteDue.dueEntry i r ∈ s.minutePasses.queue)
    ∧ ((s.minuteDue.evaluated i = true → s.minuteDue.dueReason i = none) → ∀ e ∈ s.minutePasses.queue, e.string = i →
      e.kind = .equalise → e ∈ s.queue) := by
  obtain ⟨hsub, hsup⟩ := minutePasses_queue s
  obtain ⟨hdue, hnone⟩ := eachStr_evaluateDue s.minuteDue i
  obtain ⟨-, -, -, -, hq, -⟩ := minuteDue_fixed s
  obtain ⟨q, hq', hacc⟩ := minuteAccounted_eq s
  rw [← hq'] at hdue hnone
  have hwater : State.Joins (fun e => e.kind = .equalise) q s.minuteAccounted := by
    rw [hacc]
    exact eachStr_rel (State.Joins.refl _) State.Joins.trans
      (fun k u => joins_judgeWaterDue u k fun e he => by rw [Entry.named, he]; exact Bool.and_false _) q
  refine ⟨fun r h1 h2 => ?_, fun h1 e he hs hk => ?_⟩
  · exact hsup _ ((hwater.kept _ rfl).mpr (hdue r h1 h2)) (.inl rfl)
  · rw [← hq]
    exact (hnone h1 e ((Entry.named_iff e i _).mpr ⟨hs, hk⟩)).mp ((hwater.kept e hk).mp (hsub e he))

/-- What a string is owed decides on its WATER entry (R39, R109). -/
theorem minutePasses_water (s : State) (i : Str) (hsp : s.minuteAccounted.Spares i) :
    (s.minuteDue.owesWater i → s.minuteDue.waterDueEntry i ∈ s.minutePasses.queue
        ∧ (∀ x ∈ s.queue, x.named i .water = false)
      ∨ ∃ o ∈ s.queue, o.named i .water = true ∧ o.merge (s.minuteDue.waterDueEntry i) ∈ s.minutePasses.queue)
    ∧ (¬ s.minuteDue.owesWater i → ∀ e ∈ s.minutePasses.queue, e.string = i → e.kind = .water → e ∈ s.queue) := by
  obtain ⟨hsub, hsup⟩ := minutePasses_queue s
  obtain ⟨-, -, -, -, hq, -⟩ := minuteDue_fixed s
  obtain ⟨q, hq', hacc⟩ := minuteAccounted_eq s
  have hequal : State.Joins (fun e => e.kind = .water) s.minuteDue q := by
    rw [hq']
    exact eachStr_rel (State.Joins.refl _) State.Joins.trans
      (fun k u => joins_evaluateDue u k fun e he => by rw [Entry.named, he]; exact Bool.and_false _) s.minuteDue
  obtain ⟨howed, hnone⟩ := eachStr_judgeWaterDue q i
  obtain ⟨how, hent⟩ := hequal.owesWater i
  rw [hent, ← hacc, how] at howed
  rw [← hacc, how] at hnone
  refine ⟨fun h => ?_, fun h e he hs hk => ?_⟩
  · rcases howed h with ⟨hin, hno⟩ | ⟨o, ho, hname, hin⟩
    · refine .inl ⟨hsup _ hin (.inr hsp), fun x hx => ?_⟩
      cases hb : x.named i .water with
      | false => rfl
      | true =>
        rw [← hq] at hx
        exact hb.symm.trans (hno x ((hequal.kept x ((Entry.named_iff x i _).mp hb).2).mpr hx))
    · obtain ⟨hos, hok⟩ := (Entry.named_iff o i _).mp hname
      refine .inr ⟨o, ?_, hname, hsup _ hin (.inr ?_)⟩
      · rw [← hq]; exact (hequal.kept o hok).mp ho
      · rw [Entry.merge_eq]
        dsimp only
        rw [hos]
        exact hsp
  · rw [← hq]
    exact (hequal.kept e hk).mp ((hnone h e ((Entry.named_iff e i _).mpr ⟨hs, hk⟩)).mp (hsub e he))

end

end Sys2Proof.Machine

namespace Sys2Proof.Machine

/-! ### The site-minute of a state whose time has come -/

section
variable {s : State} {dt : Nat} {i : Str}

/-- The passing of time moves the tallies of a slot alone (R85, R96, R101). -/
theorem SlotRec.elapse_eq (dt : Nat) (r : SlotRec) :
    ∃ a b, r.elapse dt = { r with runElapsed := a, suspendedTotal := b } := by
  unfold SlotRec.elapse
  split <;> exact ⟨_, _, rfl⟩

theorem minuteAccounted_slot (s : State) (dt : Nat) (x : SlotId) : ∃ a b, (s.begin dt).minuteAccounted.slot x =
    { s.slot x with runElapsed := a, suspendedTotal := b } := by
  obtain ⟨-, -, -, -, -, h, -⟩ := minuteAccounted_fixed (s.begin dt)
  rw [h, State.begin_slot]
  exact SlotRec.elapse_eq ..

/-- The record of a string in which its due reasons are judged. -/
theorem minuteDue_of_begin (s : State) (dt : Nat) (i : Str) :
    ((s.begin dt).minuteDue.control i).state = (s.control i).state
    ∧ ((s.begin dt).minuteDue.control i).slot = (s.control i).slot
    ∧ ((s.begin dt).minuteDue.control i).holdoffUntil
      = (s.control i).holdoffUntil.filter fun t => !t.atOrBefore s.minuteTicked.mgmt.clock := by
  have hm : (s.begin dt).minuteTicked.mgmt = s.minuteTicked.mgmt := by
    unfold State.minuteTicked State.modMgmt
    rw [State.begin_mgmt]
  rw [minuteDue_control, State.begin_control_eq, hm]
  exact ⟨rfl, rfl, rfl⟩

theorem minuteDue_images (s : State) (dt : Nat) : (s.begin dt).minuteDue.images = s.images :=
  (minuteDue_fixed (s.begin dt)).2.1.trans (State.begin_images s dt)

/-- The due reasons of a string are evaluated just where R37 says. -/
theorem minuteDue_evaluated (hl : s.mgmt.loaded.limits = true) (he : s.mgmt.mode = .engaged) :
    (s.begin dt).minuteDue.evaluated i = true ↔ s.equaliseJudged (s.begin dt).minutePasses i := by
  obtain ⟨-, -, -, -, hq, hm, -⟩ := minuteDue_fixed (s.begin dt)
  have himg := minuteDue_images s dt
  obtain ⟨hst, hsl, -⟩ := minuteDue_of_begin s dt i
  have hcfg : (s.begin dt).minuteDue.cfg i = s.cfg i := by unfold State.cfg; rw [himg]
  have hrec : ∀ r, (s.begin dt).minuteDue.recipeIsEmpty r = s.recipeIsEmpty r := fun r => by
    unfold State.recipeIsEmpty; rw [himg]
  have hl' : (s.begin dt).minuteTicked.mgmt.loaded.limits = true := by
    unfold State.minuteTicked State.modMgmt; rw [State.begin_mgmt]; exact hl
  have he' : (s.begin dt).minuteTicked.mgmt.mode = .engaged := by
    unfold State.minuteTicked State.modMgmt; rw [State.begin_mgmt]; exact he
  rw [evaluated_iff, hm, hcfg, hst, hsl, hq, hrec, State.begin_queue, ← (minutePasses_records _ i).2]
  constructor
  · rintro ⟨-, -, h1, h2, h3, h4, h5, h6⟩; exact ⟨h1, h2, h3, h4, h5, h6⟩
  · rintro ⟨h1, h2, h3, h4, h5, h6⟩; exact ⟨hl', he', h1, h2, h3, h4, h5, h6⟩

/-- The first due reason that holds at the site-minute (R35 to R37). -/
theorem minuteDue_reason (s : State) (dt : Nat) (i : Str) :
    (s.daysDue (s.begin dt).minutePasses i ∨ s.spreadDue dt i ∨ s.throughputDue i →
      ∃ r, (s.begin dt).minuteDue.dueReason i = some r ∧ (s.daysDue (s.begin dt).minutePasses i → r = .dueDays)
        ∧ (¬ s.daysDue (s.begin dt).minutePasses i → s.spreadDue dt i → r = .dueSpread)
        ∧ (¬ s.daysDue (s.begin dt).minutePasses i → ¬ s.spreadDue dt i → r = .dueThroughput))
    ∧ (¬ s.daysDue (s.begin dt).minutePasses i ∧ ¬ s.spreadDue dt i ∧ ¬ s.throughputDue i →
      (s.begin dt).minuteDue.dueReason i = none) := by
  obtain ⟨hnow, -⟩ := minuteDue_fixed (s.begin dt)
  have himg := minuteDue_images s dt
  have hcfg : (s.begin dt).minuteDue.cfg i = s.cfg i := by unfold State.cfg; rw [himg]
  have hcha : ((s.begin dt).minuteDue.charge i).spreadTimer = (s.charge i).spreadTimer
      ∧ ((s.begin dt).minuteDue.charge i).dDis = (s.charge i).dDis := by
    rw [minuteDue_charge, State.begin_charge]
    split <;> exact ⟨rfl, rfl⟩
  refine dueReason_first ?_ ?_ ?_
  · rw [hcfg, ← (minutePasses_records _ i).1]
    exact Iff.rfl
  · rw [State.reached_map_iff, hcfg, hcha.1, hnow, State.begin_now]
    exact Iff.rfl
  · rw [hcfg, hcha.2]
    exact Iff.rfl

/-- The entry of a due reason, as the site-minute enqueues it (R37). -/
theorem minuteDue_dueEntry (s : State) (dt : Nat) (i : Str) (r : Reason) : (s.begin dt).minuteDue.dueEntry i r =
    ⟨i, .equalise, (s.cfg i).autoRecipe, r, .normal, .auto, (s.begin dt).minutePasses.mgmt.clock⟩ := by
  obtain ⟨-, -, -, hm, -⟩ := minutePasses_fixed (s.begin dt)
  obtain ⟨-, -, -, -, -, hm', -⟩ := minuteDue_fixed (s.begin dt)
  have hcfg : (s.begin dt).minuteDue.cfg i = s.cfg i := by unfold State.cfg; rw [minuteDue_images]
  unfold State.dueEntry
  rw [hcfg, hm, hm']

/-- A string is owed water just where R39 says. -/
theorem minuteDue_owesWater (hl : s.mgmt.loaded.limits = true) (he : s.mgmt.mode = .engaged) :
    (s.begin dt).minuteDue.owesWater i ↔ s.waterOwed i := by
  obtain ⟨-, -, hc, hw, -, hm, -⟩ := minuteDue_fixed (s.begin dt)
  have himg := minuteDue_images s dt
  obtain ⟨hst, -, -⟩ := minuteDue_of_begin s dt i
  rw [State.begin_cells] at hc
  rw [State.begin_water] at hw
  have hl' : (s.begin dt).minuteTicked.mgmt.loaded.limits = true := by
    unfold State.minuteTicked State.modMgmt; rw [State.begin_mgmt]; exact hl
  have he' : (s.begin dt).minuteTicked.mgmt.mode = .engaged := by
    unfold State.minuteTicked State.modMgmt; rw [State.begin_mgmt]; exact he
  rw [owesWater_iff, hm]
  exact ⟨fun h => waterOwed_same himg.symm hc.symm hw.symm hst.symm h.2.2,
    fun h => ⟨hl', he', waterOwed_same himg hc hw hst h⟩⟩

/-- The WATER entry of a string that is owed water (R39). -/
theorem minuteDue_waterEntry (s : State) (dt : Nat) (i : Str) : ∃ r pr,
    (s.begin dt).minuteDue.waterDueEntry i = ⟨i, .water, 0, r, pr, .auto, (s.begin dt).minutePasses.mgmt.clock⟩
    ∧ ((∃ p, s.cellDue i p ∧ (s.cellAt i p).level = .dry) → pr = .urgent ∧ r = .dry)
    ∧ ((∀ p, s.cellDue i p → (s.cellAt i p).level ≠ .dry) → pr = .normal
      ∧ ((∃ p, s.cellDue i p ∧ (s.cellAt i p).level = .low) → r = .level)
      ∧ ((∀ p, s.cellDue i p → (s.cellAt i p).level ≠ .low) → r = .deficit)) := by
  obtain ⟨-, -, -, hm, -⟩ := minutePasses_fixed (s.begin dt)
  obtain ⟨-, -, hc, -, -, hm', -⟩ := minuteDue_fixed (s.begin dt)
  rw [State.begin_cells] at hc
  have hcell : ∀ p, (s.begin dt).minuteDue.cellAt i p = s.cellAt i p := fun p => by
    unfold State.cellAt State.cell; rw [hc]
  have h := waterDueEntry_spec (s.begin dt).minuteDue i
  simp only [cellDue_same (minuteDue_images s dt) hc, hcell] at h
  rw [hm, ← hm']
  generalize (s.begin dt).minuteDue = u at h
  exact ⟨(u.waterDueEntry i).reason, (u.waterDueEntry i).priority, rfl, h⟩

/-- No round of another string, and none of a state whose bindings agree, withdraws the string's water at a site-minute. -/
theorem minuteAccounted_spares (h : (∀ sl, (s.slot sl).string ≠ some i) ∨ s.BoundOk) :
    (s.begin dt).minuteAccounted.Spares i := by
  intro sl j k hin hj hk hw
  obtain ⟨-, -, -, -, -, -, hcon, -⟩ := minuteAccounted_fixed (s.begin dt)
  rw [hcon, (minuteDue_of_begin s dt j).2.1] at hk
  obtain ⟨a, b, hsl⟩ := minuteAccounted_slot s dt sl
  obtain ⟨c, d, hsk⟩ := minuteAccounted_slot s dt k
  rw [hsl] at hin hj
  rw [hsk] at hw ⊢
  rcases h with h | h
  · exact h k
  · have hsk' : k = sl := Option.some.inj (hk.symm.trans ((h.agree sl j).mp hj))
    rw [hsk'] at hw
    have hww := h.calls sl hw
    exfalso
    revert hin
    unfold SlotRec.inStretch SlotRec.active
    dsimp only
    rw [hww]
    decide

/-- The last minute of the allowance ends the round of a source-needing stretch (R98, R147). -/
theorem minutePasses_ends {sl : SlotId} (hmin : s.mgmt.clock.minute ≠ 1439) (hm : s.site.spendMark = true)
    (h1 : s.site.allowance = 1) (h : s.holds sl i) (ho : s.otherIdle sl ∨ s.BoundOk)
    (hq : (s.control i).state = .equalising) (hin : (s.slot sl).inStretch = true) (hsrc : (s.stretch sl).source = true) :
    ((s.begin dt).minutePasses.control i).state = .returning
      ∧ ((s.begin dt).minutePasses.control i).endReason = some .allowance
      ∧ ((s.begin dt).minutePasses.slot sl).entryState = none := by
  obtain ⟨himg, -, -, hsite, -, -, hcon, -⟩ := minuteAccounted_fixed (s.begin dt)
  rw [State.begin_images] at himg
  rw [State.begin_site] at hsite
  have hslotOf : ∀ j, ((s.begin dt).minuteAccounted.control j).slot = (s.control j).slot := fun j => by
    rw [hcon]; exact (minuteDue_of_begin s dt j).2.1
  have hstate : ((s.begin dt).minuteAccounted.control i).state = (s.control i).state := by
    rw [hcon]; exact (minuteDue_of_begin s dt i).1
  obtain ⟨a, b, hsl⟩ := minuteAccounted_slot s dt sl
  have hroll : (s.begin dt).rollsOver = false := by
    rw [Bool.eq_false_iff, ne_eq, rollsOver_iff, State.begin_mgmt]; exact hmin
  have hstretch : (s.begin dt).minuteAccounted.stretch sl = s.stretch sl := by
    unfold State.stretch State.slotEntry State.lim State.phase
    rw [himg, hsl]
  have hapart : ∀ o, o ≠ sl → (s.begin dt).minuteAccounted.Apart o i := fun o hne => by
    obtain ⟨c, d, hslo⟩ := minuteAccounted_slot s dt o
    unfold State.Apart
    rw [hslo]
    rcases ho with ho | ho
    · exact .inl (ho o hne)
    · refine .inr fun j hj => ?_
      have hjo := (ho.agree o j).mp hj
      refine ⟨?_, by rw [hslotOf]; exact hjo⟩
      rintro rfl
      exact hne (Option.some.inj (hjo.symm.trans h.2))
  have hends := allowanceMinute_ends (s := (s.begin dt).minuteAccounted) (i := i) (sl := sl) (by rw [hsite]; exact hm)
    (by rw [hsite]; exact h1) ⟨by rw [hsl]; exact h.1, by rw [hslotOf]; exact h.2⟩ (by rw [hstate]; exact hq) hapart
    (by rw [hsl]; exact hin) (by rw [hstretch]; exact hsrc)
  rw [minutePasses_eq, hroll, markScan_control, markScan_slot]
  exact hends

end

end Sys2Proof.Machine

namespace Sys2Proof.Machine

/-- The answer of a SET_TIME (R186). -/
theorem State.act_setTime (s : State) (src : Byte) (d m : Nat) : (s.heldFor src).act (.setTime d m)
    = if 1439 < m then (s.heldFor src).refuse .badArg
      else ⟨(s.modMgmt fun x => { x with clock := ⟨d, m⟩, minuteEnd := s.now + 60000 }).heldFor src, .ok, 0, []⟩ := by
  show (s.heldFor src).askSetTime d m = _
  unfold State.askSetTime
  rfl

/-- SET_TIME (R186). -/
theorem exec_setTime {s : State} {src : Byte} (dt : Nat) (day minute : Word16) (h : s.takesFrom src) :
    (minute.toNat ≤ 1439 → exec (.setTime dt src day minute) s = .next (((s.begin dt).modMgmt fun m =>
        { m with clock := ⟨day.toNat, minute.toNat⟩, minuteEnd := s.now + dt + 60000 }).replied src 0x50 .ok 0 []).quietEnd)
    ∧ (1439 < minute.toNat →
      exec (.setTime dt src day minute) s = .next ((s.begin dt).replied src 0x50 .badArg 0 []).quietEnd) := by
  refine ⟨fun hm => ?_, fun hm => ?_⟩
  · refine exec_mgmt (c := .setTime dt src day minute) (r := .setTime day.toNat minute.toNat)
      (fun m => { m with clock := ⟨day.toNat, minute.toNat⟩, minuteEnd := s.now + dt + 60000 }) rfl rfl h ?_
    rw [State.act_setTime, if_neg (by omega), State.begin_now]
  · refine exec_refused (c := .setTime dt src day minute) (r := .setTime day.toNat minute.toNat) rfl rfl h ?_
    rw [State.act_setTime, if_pos hm]

/-- The site clock after its minute, and the minute at which the day turns (R186). -/
theorem minutePasses_mgmt (s : State) (dt : Nat) : (s.begin dt).minutePasses.mgmt = { s.mgmt with
    clock := if s.mgmt.clock.minute = 1439 then ⟨(s.mgmt.clock.day + 1) % 65536, 0⟩
      else ⟨s.mgmt.clock.day, s.mgmt.clock.minute + 1⟩
    minuteEnd := s.mgmt.minuteEnd + 60000 } := by
  obtain ⟨-, -, -, hm, -⟩ := minutePasses_fixed (s.begin dt)
  rw [hm]
  unfold State.minuteTicked State.modMgmt Stamp.next
  rw [State.begin_mgmt]

theorem begin_rollsOver (s : State) (dt : Nat) : (s.begin dt).rollsOver = decide (s.mgmt.clock.minute = 1439) := by
  rw [Bool.eq_iff_iff, rollsOver_iff, State.begin_mgmt, decide_eq_true_eq]

theorem Stamp.atOrBefore_iff (a b : Stamp) :
    a.atOrBefore b = true ↔ a.day < b.day ∨ (a.day = b.day ∧ a.minute ≤ b.minute) := by
  simp [Stamp.atOrBefore]

/-- A holdoff that the clock has reached is cleared, and no other (R37). -/
theorem minutePasses_holdoff (s : State) (dt : Nat) {i : Str} {h : Stamp} (hh : (s.control i).holdoffUntil = some h) :
    ((s.begin dt).minutePasses.control i).holdoffUntil =
      if h.day < (s.begin dt).minutePasses.mgmt.clock.day ∨ (h.day = (s.begin dt).minutePasses.mgmt.clock.day
        ∧ h.minute ≤ (s.begin dt).minutePasses.mgmt.clock.minute) then none else some h := by
  obtain ⟨-, -, -, hm, -⟩ := minutePasses_fixed (s.begin dt)
  have hm' : (s.begin dt).minuteTicked.mgmt = s.minuteTicked.mgmt := by
    unfold State.minuteTicked State.modMgmt
    rw [State.begin_mgmt]
  rw [(minutePasses_records _ i).2, (minuteDue_of_begin s dt i).2.2, hh, hm, hm', Option.filter_some]
  generalize s.minuteTicked.mgmt.clock = c
  by_cases hr : h.day < c.day ∨ (h.day = c.day ∧ h.minute ≤ c.minute)
  · rw [if_pos hr, (h.atOrBefore_iff c).mpr hr]
    rfl
  · rw [if_neg hr, Bool.eq_false_iff.mpr (mt (h.atOrBefore_iff c).mp hr)]
    rfl

/-- Settles O36: the Charge Account Unit's part (`minuteDue`, `eachStr_evaluateDue`, `eachStr_judgeWaterDue`) and the Site Line
Unit's (`allowanceMinute_eq`) of one site-minute; an end with ALLOWANCE touches no entry but WATER its own slot called for. -/
theorem siteClockAdvances : Obligations.SiteClockAdvances := by
  intro s dt
  refine ⟨fun src day minute h => exec_setTime dt day minute h, fun hdue => ?_⟩
  obtain ⟨hcells, hwater, himages, -, hscan⟩ := minutePasses_fixed (s.begin dt)
  obtain ⟨hallow, hmark⟩ := minutePasses_site (s.begin dt)
  obtain ⟨hsub, -⟩ := minutePasses_queue (s.begin dt)
  refine ⟨(s.begin dt).minutePasses, ?_, hscan, minutePasses_mgmt s dt, fun i => ?_, fun i h hh => minutePasses_holdoff s dt hh,
    ?_, ?_, fun i hl he => ⟨?_, ?_⟩, fun i hl he hsp => ?_, fun htr e hin => ?_,
    fun sl i hm1 hm2 hm3 hb ho hq hst hsrc => ?_, ?_, ?_, ?_⟩
  · refine eventIf_due (cond := fun s => s.mgmt.minuteEnd ≤ s.now) ?_ State.minutePasses
    rw [State.begin_mgmt, State.begin_now]
    exact decide_eq_true hdue
  · rw [(minutePasses_records _ i).1, minuteDue_charge, begin_rollsOver, State.begin_charge, State.begin_present]
    simp only [decide_eq_true_eq]
    split <;> rename_i hc
    · exact (if_pos hc).symm
    · exact (if_neg hc).symm
  · rw [hallow, begin_rollsOver, State.begin_lim, State.begin_site]
    simp only [decide_eq_true_eq]
  · rw [hmark, State.begin_site]
  · intro hj hwhy
    obtain ⟨r, hr, h1, h2, h3⟩ := (minuteDue_reason s dt i).1 hwhy
    have hin := (minutePasses_equalise (s.begin dt) i).1 r ((minuteDue_evaluated hl he).mpr hj) hr
    rw [minuteDue_dueEntry] at hin
    exact ⟨r, hin, h1, h2, h3⟩
  · intro hno e hin hs hk
    have hq := (minutePasses_equalise (s.begin dt) i).2 (fun hev => ?_) e hin hs hk
    · rwa [State.begin_queue] at hq
    · exact (minuteDue_reason s dt i).2 (hno.resolve_left fun h => h ((minuteDue_evaluated hl he).mp hev))
  · obtain ⟨howed, hnot⟩ := minutePasses_water (s.begin dt) i (minuteAccounted_spares hsp)
    rw [minuteDue_owesWater hl he, State.begin_queue] at howed hnot
    obtain ⟨r, pr, hent, hdry, hwet⟩ := minuteDue_waterEntry s dt i
    rw [hent] at howed
    refine ⟨fun h => ?_, hnot⟩
    rcases howed h with ⟨hin, -⟩ | ⟨o, ho, hname, hin⟩
    · exact ⟨_, hin, rfl, rfl, fun hd => (hdry hd).1, fun _ => ⟨r, pr, rfl, fun hd => (hdry hd).2, hwet⟩⟩
    · obtain ⟨hos, hok⟩ := (Entry.named_iff o i .water).mp hname
      rw [Entry.merge_eq] at hin
      refine ⟨_, hin, hos, hok, fun hd => ?_, fun hnone => absurd hok (hnone o ho hos)⟩
      exact if_pos (hdry hd).1
  · have hx := hsub e hin
    have hne : (s.begin dt).minuteTicked.engaged = false := by
      unfold State.engaged State.minuteTicked State.modMgmt
      rw [State.begin_mgmt]
      show (s.mgmt.mode == .engaged) = false
      rw [htr]
      rfl
    unfold State.minuteAccounted at hx
    rw [accountMinute_transparent _ _ hne] at hx
    obtain ⟨-, -, -, -, hq, -⟩ := minuteDue_fixed (s.begin dt)
    rw [← State.begin_queue s dt, ← hq]
    exact hx
  · refine minutePasses_ends hm1 hm2 hm3 hb ho hq ?_ hsrc
    rcases hst with h | h | h <;> simp [SlotRec.inStretch, SlotRec.active, h]
  · rw [hcells, State.begin_cells]
  · rw [hwater, State.begin_water]
  · rw [himages, State.begin_images]

end Sys2Proof.Machine

/-! ## A warm restart (R42, R80, R105, R112, R141, R172, R187) -/

namespace Sys2Proof.Machine

/-! ### The frames that wait in the order queue (R164) -/

def State.frames (s : State) : List Frame := s.ring.orders.map fun o => o.frame

/-- A frame joins those that wait: in the place of the one to its destination, else behind them (R164). -/
def joinFrames (f : Frame) (q : List Frame) : List Frame :=
  if (q.any fun w => w.dst == f.dst) = true then q.map fun w => if w.dst == f.dst then f else w else q ++ [f]

theorem handOrder_frames {s : State} {f : Frame} (h : s.frames.length < orderCap) :
    (s.handOrder f).frames = joinFrames (gasStopped s.ring.gasStop f) s.frames := by
  have hlen : s.ring.orders.length < orderCap := by unfold State.frames at h; rwa [List.length_map] at h
  show (placeOrder s.bindingsName ⟨gasStopped s.ring.gasStop f, s.ring.orderCount⟩ s.ring.orders).1.map (fun o => o.frame) = _
  unfold joinFrames placeOrder State.frames
  rw [List.any_map]
  by_cases hany : (s.ring.orders.any fun w => w.frame.dst == (gasStopped s.ring.gasStop f).dst) = true
  · rw [if_pos hany]
    refine Eq.trans ?_ (if_pos hany).symm
    rw [List.map_map, List.map_map]
    refine List.map_congr_left fun w _ => ?_
    dsimp only [Function.comp]
    split <;> rfl
  · rw [if_neg hany, if_pos hlen]
    refine Eq.trans ?_ (if_neg hany).symm
    rw [List.map_append]
    rfl

/-- The RECT order `o` of a slot, as the queue takes it (R165). -/
def State.rectStands (s : State) (sl : SlotId) (o : RectOrder) : Frame :=
  gasStopped s.ring.gasStop (rectFrame (s.rectAddr sl) s.ring.ownAddress o)

/-- The CONTACTOR BUS order of a string. -/
def State.busStands (s : State) (i : Str) : Frame := contactorFrame (s.cfg i).contactorAddr s.ring.ownAddress targetBus

section
variable {s t : State} {i : Str} {sl : SlotId} {o : RectOrder}

theorem rectStands_dst (s : State) (sl : SlotId) (o : RectOrder) : (s.rectStands sl o).dst = s.rectAddr sl := by
  unfold State.rectStands
  rw [gasStopped_dst]
  cases o <;> rfl

theorem State.RoundFrame.rectStands {j : Str} {m : Option SlotId} (h : State.RoundFrame j m s t) (sl : SlotId)
    (o : RectOrder) : t.rectStands sl o = s.rectStands sl o := by
  have hgas : t.ring.gasStop = s.ring.gasStop := by rw [h.ring]
  have hown : t.ring.ownAddress = s.ring.ownAddress := by rw [h.ring]
  have haddr : t.rectAddr sl = s.rectAddr sl := by unfold State.rectAddr State.lim; rw [h.images]
  unfold State.rectStands
  rw [hgas, hown, haddr]

theorem State.RoundFrame.busStands {j : Str} {m : Option SlotId} (h : State.RoundFrame j m s t) (i : Str) :
    t.busStands i = s.busStands i := by
  have hown : t.ring.ownAddress = s.ring.ownAddress := by rw [h.ring]
  have hcfg : t.cfg i = s.cfg i := by unfold State.cfg; rw [h.images]
  unfold State.busStands
  rw [hown, hcfg]

theorem stringRect_frames (hs : (s.control i).slot = some sl) (hl : s.frames.length < orderCap) :
    (s.stringRect i o).frames = joinFrames (s.rectStands sl o) s.frames := by
  unfold State.stringRect State.handRect
  rw [hs]
  dsimp only
  rw [handOrder_frames (by unfold State.frames; rw [State.modControl_ring]; exact hl)]
  rfl

theorem handBus_frames (hl : s.frames.length < orderCap) :
    (s.handContactor i targetBus).frames = joinFrames (s.busStands i) s.frames := by
  unfold State.handContactor
  rw [handOrder_frames hl]
  unfold gasStopped
  rw [if_neg (by simp [Frame.isRectOn, contactorFrame, kindContactor, kindRect])]
  rfl

theorem toConfirm_frames (hl : s.frames.length < orderCap) : (s.toConfirm i).frames = joinFrames (s.busStands i) s.frames := by
  unfold State.toConfirm State.frames
  rw [State.modControl_ring]
  exact handBus_frames hl

theorem joinFrames_nil (f : Frame) : joinFrames f [] = [f] := rfl

theorem joinFrames_new {f : Frame} {q : List Frame} (h : ∀ w ∈ q, w.dst ≠ f.dst) : joinFrames f q = q ++ [f] := by
  unfold joinFrames
  rw [if_neg]
  simpa [List.any_eq_true] using h

/-- A frame that waits already stands where it did. -/
theorem joinFrames_same {f : Frame} {q : List Frame} (hf : f ∈ q) (h : ∀ w ∈ q, w.dst = f.dst → w = f) :
    joinFrames f q = q := by
  unfold joinFrames
  rw [if_pos (List.any_eq_true.mpr ⟨f, hf, by simp⟩)]
  refine (List.map_congr_left fun w hw => ?_).trans (List.map_id q)
  split
  · next hd => exact (h w hw (by simpa using hd)).symm
  · rfl

/-- The orders of a return that begins stand as its record says (R68, R71 to R73, R79). -/
theorem startReturn_told (hs : (s.control i).slot = some sl) (h0 : s.frames = [])
    (hne : s.rectAddr sl ≠ (s.cfg i).contactorAddr) (v : Variant) (b : Bool) :
    ∃ o, ((s.startReturn i v b).control i).rectOrder = some o
      ∧ (s.startReturn i v b).frames = s.rectStands sl o ::
        if ((s.startReturn i v b).control i).step = some .confirm then [s.busStands i] else [] := by
  have hcon : ∀ (u : State) (o : RectOrder), State.RoundFrame i none s u → u.frames = [s.rectStands sl o] →
      (u.control i).rectOrder = some o → ((u.toConfirm i).control i).rectOrder = some o
        ∧ (u.toConfirm i).frames = s.rectStands sl o ::
          if ((u.toConfirm i).control i).step = some .confirm then [s.busStands i] else [] := fun u o hu hf ho => by
    rw [toConfirm_control, toConfirm_frames (by rw [hf]; show 1 < 18; omega), hf, hu.busStands]
    refine ⟨ho, ?_⟩
    rw [joinFrames_new]
    · exact congrArg (s.rectStands sl o :: ·) (if_pos rfl).symm
    · intro w hw
      rw [List.mem_singleton.mp hw, rectStands_dst]
      exact hne
  unfold State.startReturn
  dsimp only
  set u := (s.modControl i fun c =>
    { c with state := .returning, variant := some v, step := none, matchDeadline := none, confirmLeft := none }).markScan
    with hu
  have fu : State.RoundFrame i none s u := (frame_modControl ..).trans (frame_markScan ..)
  have su : (u.control i).slot = some sl := by rw [hu, markScan_control, State.modControl_control]; exact hs
  have hu0 : u.frames = [] := h0
  have hrect : ∀ o, State.RoundFrame i none s (u.stringRect i o) ∧ (u.stringRect i o).frames = [s.rectStands sl o]
      ∧ ((u.stringRect i o).control i).rectOrder = some o := fun o => by
    refine ⟨fu.trans (frame_stringRect ..), ?_, ?_⟩
    · rw [stringRect_frames su (by rw [hu0]; decide), hu0, joinFrames_nil, fu.rectStands]
    · rw [stringRect_control]
      unfold Control.ordered
      rw [if_neg (by rw [su]; simp)]
  split
  · obtain ⟨f1, f2, f3⟩ := hrect .off
    exact ⟨_, hcon _ _ f1 f2 f3⟩
  · obtain ⟨f1, f2, f3⟩ := hrect (.on (u.matchVolts i) u.lim.iFloor)
    split
    · exact ⟨_, hcon _ _ f1 f2 f3⟩
    · set x := (u.stringRect i (.on (u.matchVolts i) u.lim.iFloor)).modControl i fun c =>
        { c with step := some .matching
                 matchDeadline := some ((u.stringRect i (.on (u.matchVolts i) u.lim.iFloor)).now
                   + (u.stringRect i (.on (u.matchVolts i) u.lim.iFloor)).lim.returnWaitMin * 60000) } with hx
      have fx : State.RoundFrame i none s x := f1.trans (frame_modControl ..)
      have hxf : x.frames = [s.rectStands sl (.on (u.matchVolts i) u.lim.iFloor)] := by
        rw [hx]; unfold State.frames; rw [State.modControl_ring]; exact f2
      have hxo : (x.control i).rectOrder = some (.on (u.matchVolts i) u.lim.iFloor) := by
        rw [hx, State.modControl_control]; exact f3
      have hxs : (x.control i).step = some .matching := by rw [hx, State.modControl_control]
      unfold State.judgeWindow
      split
      · exact ⟨_, hcon x _ fx hxf hxo⟩
      · exact ⟨_, hxo, by rw [hxf, hxs]; rfl⟩

end

end Sys2Proof.Machine

namespace Sys2Proof.Machine

/-! ### The ends and the standing orders of a restart (R80, R172) -/

section
variable {s t u : State} {i : Str} {sl : SlotId}

theorem endCause_restart_other (h : ¬ ((s.control i).state = .called ∨ (s.control i).state = .equalising)) :
    s.endCause i .restart = s := by
  unfold State.endCause
  split
  · next hc => exact absurd (.inl hc) h
  · next hc => exact absurd (.inr hc) h
  · rfl
  · rfl

theorem standingOrders_unbound (h : (s.control i).slot = none) : s.standingOrders i = s := by
  unfold State.standingOrders
  dsimp only
  rw [h]
  rfl

/-- The RECT order that stands for a string is handed (R80). -/
def State.standRect (s : State) (i : Str) : State :=
  match (s.control i).rectOrder with
  | some o => s.stringRect i o
  | none => s

theorem standingOrders_bound (h : (s.control i).slot ≠ none) : s.standingOrders i =
    if (s.control i).state = .faulted then s.stringRect i .off
    else if (s.control i).state = .returning ∧ (s.control i).step = some .confirm then
      (s.standRect i).handContactor i targetBus else s.standRect i := by
  have hn : ¬ (s.control i).slot.isNone = true := by rw [Option.isNone_iff_eq_none]; exact h
  unfold State.standingOrders State.standRect
  dsimp only
  exact (if_neg hn).trans rfl

theorem frame_standRect (s : State) (i : Str) (m : Option SlotId) : State.RoundFrame i m s (s.standRect i) := by
  unfold State.standRect
  split
  · exact frame_stringRect ..
  · exact .refl ..

theorem frame_standingOrders (s : State) (i : Str) (m : Option SlotId) : State.RoundFrame i m s (s.standingOrders i) := by
  by_cases h : (s.control i).slot = none
  · rw [standingOrders_unbound h]; exact .refl ..
  · rw [standingOrders_bound h]
    exact frame_ite (frame_stringRect ..) (frame_ite ((frame_standRect ..).trans (frame_handContactor ..)) (frame_standRect ..))

theorem standRect_slot (s : State) (i : Str) (k : SlotId) : (s.standRect i).slot k = s.slot k := by
  unfold State.standRect
  split
  · exact stringRect_slot ..
  · rfl

theorem standRect_charge (s : State) (i : Str) : (s.standRect i).charge i = s.charge i := by
  unfold State.standRect
  split
  · exact stringRect_charge ..
  · rfl

/-- The standing orders leave the slots, the account and the record but for the order that stands in it (R79, R80). -/
theorem standingOrders_kept (s : State) (i : Str) : (∀ k, (s.standingOrders i).slot k = s.slot k)
    ∧ (s.standingOrders i).charge i = s.charge i
    ∧ ∃ r l, (s.standingOrders i).control i = { s.control i with rectOrder := r, lastRectTime := l }
      ∧ ((s.control i).state ≠ .faulted → r = (s.control i).rectOrder) := by
  by_cases h : (s.control i).slot = none
  · rw [standingOrders_unbound h]; exact ⟨fun _ => rfl, rfl, _, _, rfl, fun _ => rfl⟩
  have hstand : ∃ l, (s.standRect i).control i = { s.control i with lastRectTime := l } := by
    unfold State.standRect
    split
    · next o ho =>
      refine ⟨some s.now, ?_⟩
      rw [stringRect_control, Control.ordered, if_neg h, ← ho]
    · exact ⟨_, rfl⟩
  obtain ⟨l, hl⟩ := hstand
  rw [standingOrders_bound h]
  split
  · next hf =>
    refine ⟨stringRect_slot s i _, stringRect_charge .., some .off, some s.now, ?_, fun hn => absurd hf hn⟩
    rw [stringRect_control, Control.ordered, if_neg h]
  · split
    · exact ⟨fun k => (handContactor_slot ..).trans (standRect_slot s i k), standRect_charge s i, _, l, hl, fun _ => rfl⟩
    · exact ⟨standRect_slot s i, standRect_charge s i, _, l, hl, fun _ => rfl⟩

/-- What the ends and the standing orders of a restart leave. -/
structure State.Around (s t : State) : Prop where
  now : t.now = s.now
  water : t.water = s.water
  site : t.site = s.site
  mgmt : t.mgmt = s.mgmt
  images : t.images = s.images
  ring : t.ring = { s.ring with orders := t.ring.orders, orderCount := t.ring.orderCount
                                counts := { s.ring.counts with orderDrop := t.ring.counts.orderDrop } }
  slot : ∀ k, t.slot k = s.slot k ∨ t.slot k = (s.slot k).stopped
  record : ∀ j, (t.control j).heldOrder = (s.control j).heldOrder ∧ (t.control j).slot = (s.control j).slot
    ∧ (t.control j).holdoffUntil = (s.control j).holdoffUntil
  charge : ∀ j, t.charge j = s.charge j

theorem State.Around.refl (s : State) : s.Around s :=
  ⟨rfl, rfl, rfl, rfl, rfl, rfl, fun _ => .inl rfl, fun _ => ⟨rfl, rfl, rfl⟩, fun _ => rfl⟩

theorem State.Around.trans (h : s.Around t) (k : t.Around u) : s.Around u where
  now := k.now.trans h.now
  water := k.water.trans h.water
  site := k.site.trans h.site
  mgmt := k.mgmt.trans h.mgmt
  images := k.images.trans h.images
  ring := by rw [k.ring, h.ring]
  slot x := by
    rcases k.slot x with hx | hx <;> rcases h.slot x with hy | hy <;> rw [hx, hy]
    · exact .inl rfl
    · exact .inr rfl
    · exact .inr rfl
    · exact .inr (SlotRec.stopped_stopped _)
  record j := by
    obtain ⟨h1, h2, h3⟩ := h.record j
    obtain ⟨k1, k2, k3⟩ := k.record j
    exact ⟨k1.trans h1, k2.trans h2, k3.trans h3⟩
  charge j := (k.charge j).trans (h.charge j)

theorem State.Around.idle (h : s.Around t) {k : SlotId} (hk : (s.slot k).entryState = none) : (t.slot k).entryState = none := by
  rcases h.slot k with hx | hx <;> rw [hx]
  · exact hk
  · rfl

theorem around_endCause (s : State) (i : Str) : s.Around (s.endCause i .restart) := by
  have hf := frame_endCause s i .restart
  have hh := handed_endCause (State.Handed.refl (joins := false) s) i .restart rfl (by decide)
  exact ⟨hf.now, hf.water, hf.site, hf.mgmt, hf.images, hf.ring, endCause_slot s i .restart,
    fun j => ⟨hh.heldOrder j, hh.slotOf j, hh.holdoffUntil j⟩, endCause_charge (by decide) s i⟩

theorem around_standingOrders (s : State) (i : Str) : s.Around (s.standingOrders i) := by
  have hf := frame_standingOrders s i none
  obtain ⟨hs, hc, r, l, hcon, -⟩ := standingOrders_kept s i
  refine ⟨hf.now, hf.water, hf.site, hf.mgmt, hf.images, hf.ring, fun k => .inl (hs k), fun j => ?_, fun j => ?_⟩
  · by_cases hj : j = i
    · rw [hj, hcon]; exact ⟨rfl, rfl, rfl⟩
    · unfold State.control; rw [hf.str j hj]; exact ⟨rfl, rfl, rfl⟩
  · by_cases hj : j = i
    · rw [hj, hc]
    · unfold State.charge; rw [hf.str j hj]

/-- The rounds end with RESTART, from S0 to S7 (R172). -/
def State.restartEnds (s : State) : State := s.eachStr fun i s => s.endCause i .restart

/-- The standing orders are handed, from S0 to S7 (R80). -/
def State.standAll (s : State) : State := s.eachStr fun i s => s.standingOrders i

theorem around_restartEnds (s : State) : s.Around s.restartEnds :=
  eachStr_rel State.Around.refl State.Around.trans (fun k u => around_endCause u k) s

theorem around_standAll (s : State) : s.Around s.standAll :=
  eachStr_rel State.Around.refl State.Around.trans (fun k u => around_standingOrders u k) s

/-- A round ends with RESTART; every other record stands (R172). -/
theorem restartEnds_control (s : State) (i : Str) :
    ((s.control i).state = .called ∨ (s.control i).state = .equalising →
      (s.restartEnds.control i).state = .returning ∧ (s.restartEnds.control i).endReason = some .restart)
    ∧ (¬ ((s.control i).state = .called ∨ (s.control i).state = .equalising) → s.restartEnds.control i = s.control i) := by
  obtain ⟨u, h, k⟩ := eachStr_endCause s i .restart
  have hk : s.restartEnds.control i = (u.endCause i .restart).control i := k.control
  rw [hk, ← h.control]
  refine ⟨fun hs => ?_, fun hs => ?_⟩
  · rw [endCause_away hs]
    exact ⟨(endRound_ended u i .restart).state, (endRound_ended u i .restart).endReason⟩
  · rw [endCause_restart_other hs]

/-- The record of a string whose standing orders have been handed (R79, R80). -/
theorem standAll_control (s : State) (i : Str) :
    ∃ r l, s.standAll.control i = { s.control i with rectOrder := r, lastRectTime := l }
      ∧ ((s.control i).state ≠ .faulted → r = (s.control i).rectOrder) := by
  obtain ⟨u, h, k⟩ := eachStr_turn (State.Beside.refl i) State.Beside.trans (f := fun i s => s.standingOrders i)
    (fun k u hk => (frame_standingOrders u k none).beside hk) s
  obtain ⟨-, -, r, l, hcon, hr⟩ := standingOrders_kept u i
  have hk : s.standAll.control i = (u.standingOrders i).control i := k.control
  rw [hk, hcon, ← h.control]
  exact ⟨r, l, rfl, hr⟩

/-- No entry runs once the rounds have ended (R100, R172). -/
theorem restartEnds_idle (hb : s.BoundOk) (k : SlotId) : (s.restartEnds.slot k).entryState = none := by
  by_cases h : (s.slot k).entryState = none
  · exact (around_restartEnds s).idle h
  · obtain ⟨i, hi, hq⟩ := hb.runs k h
    obtain ⟨u, ⟨hbe, -⟩, -, hv⟩ := eachStr_turn (f := fun i s => s.endCause i .restart) (i := i)
      (R := fun s t => State.Beside i s t ∧ s.Around t) (fun u => ⟨.refl i u, .refl u⟩)
      (fun h k => ⟨h.1.trans k.1, h.2.trans k.2⟩)
      (fun k u hk => ⟨(frame_endCause u k .restart).beside hk, around_endCause u k⟩) s
    refine State.Around.idle hv ?_
    have hq' : (u.control i).state = .equalising := by rw [hbe.control]; exact hq
    rw [endCause_away (.inr hq'), endRound_slot (by rw [hbe.control]; exact (hb.agree k i).mp hi)]
    rfl

end

/-! ### The orders that wait after a restart of at most one bound string (R80, R172; log 24) -/

section
variable {s : State} {i : Str} {sl : SlotId} {f : Str → State → State}

theorem eachStr_none (h : ∀ k, f k s = s) : s.eachStr f = s :=
  eachStr_preserves (P := fun t => t = s) (fun k t ht => by rw [ht]; exact h k) rfl

theorem foldl_fixed {l : List Str} (h : ∀ k ∈ l, f k s = s) : l.foldl (fun s k => f k s) s = s := by
  induction l with
  | nil => rfl
  | cons k l ih =>
    rw [List.foldl_cons, h k (by simp)]
    exact ih fun j hj => h j (by simp [hj])

theorem eachStr_one (h : ∀ k, k ≠ i → f k s = s) (h' : ∀ k, k ≠ i → f k (f i s) = f i s) : s.eachStr f = f i s := by
  obtain ⟨a, b, hab, ha, hb⟩ := allStrs_split i
  unfold State.eachStr
  rw [hab, List.foldl_append, List.foldl_cons, foldl_fixed fun k hk => h k (by rintro rfl; exact ha hk)]
  exact foldl_fixed fun k hk => h' k (by rintro rfl; exact hb hk)

/-- A string without a slot takes no part (R61, R80). -/
theorem endCause_restart_unbound (hb : s.BoundOk) (h : (s.control i).slot = none) :
    ¬ ((s.control i).state = .called ∨ (s.control i).state = .equalising) := by
  intro hs
  exact hb.away i (by tauto) h

theorem restart_unbound (hb : s.BoundOk) (h : ∀ j, (s.control j).slot = none) : s.restartEnds.standAll = s := by
  have h1 : s.restartEnds = s := eachStr_none fun k => endCause_restart_other (endCause_restart_unbound hb (h k))
  rw [h1]
  exact eachStr_none fun k => standingOrders_unbound (h k)

theorem restartEnds_one (hb : s.BoundOk) (h : ∀ j, j ≠ i → (s.control j).slot = none) :
    s.restartEnds = s.endCause i .restart := by
  have hf := frame_endCause s i .restart
  refine eachStr_one (f := fun i s => s.endCause i .restart)
    (fun k hk => endCause_restart_other (endCause_restart_unbound hb (h k hk))) fun k hk => endCause_restart_other ?_
  unfold State.control
  rw [hf.str k hk]
  exact endCause_restart_unbound hb (h k hk)

theorem standAll_one (h : ∀ j, j ≠ i → (s.control j).slot = none) : s.standAll = s.standingOrders i := by
  have hf := frame_standingOrders s i none
  refine eachStr_one (f := fun i s => s.standingOrders i) (fun k hk => standingOrders_unbound (h k hk))
    fun k hk => standingOrders_unbound ?_
  unfold State.control
  rw [hf.str k hk]
  exact h k hk

/-- The frames that stand for a string: its RECT order and, in the CONFIRM step of a return, CONTACTOR BUS (R80). -/
def State.standingFrames (s : State) (i : Str) (sl : SlotId) : List Frame :=
  (match if (s.control i).state = .faulted then some .off else (s.control i).rectOrder with
    | none => []
    | some o => [s.rectStands sl o])
  ++ if (s.control i).state = .returning ∧ (s.control i).step = some .confirm then [s.busStands i] else []

theorem standRect_frames (hs : (s.control i).slot = some sl) (hl : s.frames.length < orderCap) :
    (s.standRect i).frames = match (s.control i).rectOrder with
      | none => s.frames
      | some o => joinFrames (s.rectStands sl o) s.frames := by
  unfold State.standRect
  cases (s.control i).rectOrder with
  | none => rfl
  | some o => exact stringRect_frames hs hl

/-- What the end of a round leaves waiting, or nothing at all (R68, R71 to R73). -/
def State.Waits (s : State) (i : Str) (sl : SlotId) : Prop :=
  s.frames = [] ∨ ∃ o, (s.control i).rectOrder = some o ∧ (s.control i).state = .returning
    ∧ s.frames = s.rectStands sl o :: if (s.control i).step = some .confirm then [s.busStands i] else []

/-- The standing orders take the places of those that the end of the round left (R80, R164). -/
theorem standingOrders_frames (hs : (s.control i).slot = some sl) (hne : s.rectAddr sl ≠ (s.cfg i).contactorAddr)
    (hw : s.Waits i sl) (hfault : (s.control i).state = .faulted → s.frames = []) :
    (s.standingOrders i).frames = s.standingFrames i sl := by
  have hbus : (s.standRect i).busStands i = s.busStands i := (frame_standRect s i none).busStands i
  have hdst : ∀ o, (s.rectStands sl o).dst ≠ (s.busStands i).dst := fun o => by rw [rectStands_dst]; exact hne
  rw [standingOrders_bound (by rw [hs]; simp)]
  unfold State.standingFrames
  by_cases hf : (s.control i).state = .faulted
  · rw [if_pos hf, if_pos hf, stringRect_frames hs (by rw [hfault hf]; decide), hfault hf, if_neg (by rw [hf]; simp)]
    rfl
  rw [if_neg hf, if_neg hf]
  rcases hw with h0 | ⟨o, ho, hret, hw⟩
  · have hrect := standRect_frames hs (by rw [h0]; decide)
    rw [h0] at hrect
    cases ho : (s.control i).rectOrder with
    | none =>
      rw [ho] at hrect
      split
      · have hnil : (s.standRect i).frames = [] := hrect
        rw [handBus_frames (by rw [hnil]; decide), hnil, hbus]
        rfl
      · exact hrect
    | some o =>
      rw [ho] at hrect
      have hrect' : (s.standRect i).frames = [s.rectStands sl o] := hrect
      split
      · rw [handBus_frames (by rw [hrect']; show 1 < 18; omega), hrect', hbus, joinFrames_new]
        intro w hw
        rw [List.mem_singleton.mp hw]
        exact hdst o
      · exact hrect'
  · have hself : ∀ q, (∀ w ∈ q, w = s.busStands i) →
        joinFrames (s.rectStands sl o) (s.rectStands sl o :: q) = s.rectStands sl o :: q := fun q hq => by
      refine joinFrames_same (by simp) fun w hw hd => ?_
      rcases List.mem_cons.mp hw with rfl | hm
      · rfl
      · rw [hq w hm] at hd; exact absurd hd.symm (hdst o)
    rw [ho]
    by_cases hc : (s.control i).step = some .confirm
    · rw [if_pos hc] at hw
      have hrect := standRect_frames hs (by rw [hw]; show 2 < 18; omega)
      rw [ho, hw] at hrect
      have hrect' : (s.standRect i).frames = [s.rectStands sl o, s.busStands i] := hrect.trans (hself _ (by simp))
      rw [if_pos ⟨hret, hc⟩, if_pos ⟨hret, hc⟩, handBus_frames (by rw [hrect']; show 2 < 18; omega), hrect', hbus]
      refine joinFrames_same (by simp) fun w hw hd => ?_
      rcases List.mem_cons.mp hw with rfl | hm
      · exact absurd hd (hdst o)
      · exact List.mem_singleton.mp hm
    · rw [if_neg hc] at hw
      have hrect := standRect_frames hs (by rw [hw]; show 1 < 18; omega)
      rw [ho, hw] at hrect
      rw [if_neg fun h => hc h.2, if_neg fun h => hc h.2]
      exact hrect.trans (hself [] (by simp))

/-- What leads to a return hands no order (R67, R100). -/
theorem beforeReturn_ring (s : State) (i : Str) (c : EndReason) : (s.beforeReturn i c).ring = s.ring := by
  have hstop : ∀ (u : State) (k : SlotId), (u.stopSlot k).ring = u.ring := fun u k => by
    unfold State.stopSlot
    dsimp only
    split
    · unfold State.withdrawWater State.removeEntry
      split
      · exact State.modSlot_ring ..
      · exact State.modSlot_ring ..
    · exact State.modSlot_ring ..
  have hof : ((s.setEnd i c).stopSlotOf i).ring = s.ring := by
    unfold State.stopSlotOf
    split
    · exact hstop ..
    · rfl
  unfold State.beforeReturn State.completeEqualise State.setHoldoff
  dsimp only
  split <;> split <;> exact hof

/-- The end of a round of the string leaves its orders alone waiting (R67, R68). -/
theorem endCause_restart_waits (h0 : s.frames = []) (hs : (s.control i).slot = some sl)
    (hne : s.rectAddr sl ≠ (s.cfg i).contactorAddr) : (s.endCause i .restart).Waits i sl := by
  by_cases hq : (s.control i).state = .called ∨ (s.control i).state = .equalising
  · rw [endCause_away hq]
    have hret := (endRound_ended s i .restart).state
    have hf := frame_beforeReturn s i .restart
    have hend := frame_endRound s i .restart
    have hslot : ((s.beforeReturn i .restart).control i).slot = some sl := by
      rw [beforeReturn_control]
      unfold State.endedRecord
      dsimp only
      split <;> exact hs
    have hfr : (s.beforeReturn i .restart).frames = [] := by unfold State.frames; rw [beforeReturn_ring]; exact h0
    have haddr : (s.beforeReturn i .restart).rectAddr sl = s.rectAddr sl := by
      unfold State.rectAddr State.lim; rw [hf.images]
    have hcfg : (s.beforeReturn i .restart).cfg i = s.cfg i := by unfold State.cfg; rw [hf.images]
    obtain ⟨o, h1, h2⟩ := startReturn_told hslot hfr (by rw [haddr, hcfg]; exact hne)
      (s.variantFor (EndReason.restart == .gas) (EndReason.restart == .discharge)) (s.inState i .called)
    rw [← endRound_eq] at h1 h2
    rw [hf.rectStands, hf.busStands, ← hend.rectStands, ← hend.busStands] at h2
    exact .inr ⟨o, h1, hret, h2⟩
  · rw [endCause_restart_other hq]
    exact .inl h0

/-- The orders that wait once the standing orders of the one bound string have been handed (R80, R172). -/
theorem restart_frames (hb : s.BoundOk) (h0 : s.frames = []) (hs : (s.control i).slot = some sl)
    (hother : ∀ j, j ≠ i → (s.control j).slot = none) (hne : s.rectAddr sl ≠ (s.cfg i).contactorAddr) :
    s.restartEnds.standAll.frames = s.restartEnds.standingFrames i sl := by
  have hone := restartEnds_one hb hother
  have hx := around_endCause s i
  have haddr : (s.endCause i .restart).rectAddr sl = s.rectAddr sl := by unfold State.rectAddr State.lim; rw [hx.images]
  have hcfg : (s.endCause i .restart).cfg i = s.cfg i := by unfold State.cfg; rw [hx.images]
  rw [standAll_one fun j hj => by rw [(around_restartEnds s).record j |>.2.1]; exact hother j hj, hone]
  refine standingOrders_frames (by rw [(hx.record i).2.1]; exact hs) (by rw [haddr, hcfg]; exact hne)
    (endCause_restart_waits h0 hs hne) fun hfault => ?_
  by_cases hq : (s.control i).state = .called ∨ (s.control i).state = .equalising
  · rw [endCause_away hq, (endRound_ended s i .restart).state] at hfault
    cases hfault
  · rw [endCause_restart_other hq]
    exact h0

end

end Sys2Proof.Machine

namespace Sys2Proof.Machine

/-! ### The end of a watering round at a restart (R141; log 12) -/

section
variable {s : State}

theorem closings_group (g : List GroupItem) :
    closings (g.map fun g => g.pos) = g.map fun g => ⟨g.pos, false⟩ := by
  unfold closings
  rw [List.map_map]
  rfl

/-- The accounts of the open valves move the unit and the cells alone (R134). -/
theorem accountOpen_eq (s : State) (i : Str) : ∃ w c, s.accountOpen i = { s with water := w, cells := c } := by
  unfold State.accountOpen
  generalize (allPos.filter fun p => s.water.openSet.contains p) = l
  induction l generalizing s with
  | nil => exact ⟨_, _, rfl⟩
  | cons p l ih =>
    rw [List.foldl_cons]
    split
    · next g hg =>
      obtain ⟨w, c, h⟩ := ih (s.accountClose i p (g.dispensed s.lim.flowX10 s.now) false)
      exact ⟨w, c, by rw [h]; rfl⟩
    · exact ih s

theorem reportToSlot_idle (h : ∀ k, (s.slot k).entryState = none) (i : Str) : s.reportToSlot i = s := by
  unfold State.reportToSlot State.endWaterWait
  split
  · next k _ => exact if_neg (by rw [h k]; simp)
  · rfl

/-- A watering round ended by a restart, once no slot waits for it (R135, R141). -/
theorem endWatering_restart (h : ∀ k, (s.slot k).entryState = none) (i : Str) : s.endWatering i .restart =
    (((s.modWater Water.ended).modControl i fun c =>
      { c with lastWaterOutcome := some (s.water.outcome .restart s.mgmt.clock) }).markScan).markCommit := by
  unfold State.endWatering
  dsimp only
  rw [if_pos rfl, reportToSlot_idle fun k => by rw [State.modControl_slot, State.modWater_slot]; exact h k]

/-- What the end of the watering round leaves, when no entry runs. -/
structure State.Watered (s t : State) : Prop where
  now : t.now = s.now
  site : t.site = s.site
  mgmt : t.mgmt = s.mgmt
  images : t.images = s.images
  slot : ∀ k, t.slot k = s.slot k
  ring : t.ring = { s.ring with orders := t.ring.orders, orderCount := t.ring.orderCount
                                counts := { s.ring.counts with orderDrop := t.ring.counts.orderDrop } }
  control : ∀ j, ∃ o, t.control j = { s.control j with lastWaterOutcome := o }
  charge : ∀ j, t.charge j = s.charge j

theorem State.Watered.trans {s t u : State} (h : s.Watered t) (k : t.Watered u) : s.Watered u where
  now := k.now.trans h.now
  site := k.site.trans h.site
  mgmt := k.mgmt.trans h.mgmt
  images := k.images.trans h.images
  slot x := (k.slot x).trans (h.slot x)
  ring := by rw [k.ring, h.ring]
  control j := by
    obtain ⟨a, ha⟩ := h.control j
    obtain ⟨b, hb⟩ := k.control j
    exact ⟨b, by rw [hb, ha]⟩
  charge j := (k.charge j).trans (h.charge j)

theorem watered_modWater (s : State) (f : Water → Water) : s.Watered (s.modWater f) :=
  ⟨rfl, rfl, rfl, rfl, fun _ => State.modWater_slot .., rfl, fun _ => ⟨_, rfl⟩, fun _ => rfl⟩

theorem watered_handOrder (s : State) (f : Frame) : s.Watered (s.handOrder f) :=
  ⟨rfl, rfl, rfl, rfl, handOrder_slot s f, (frame_handOrder s 0 none f).ring, fun _ => ⟨_, rfl⟩, fun _ => rfl⟩

theorem watered_handValve (s : State) (i : Str) (a : List Alter) : s.Watered (s.handValve i a) := by
  unfold State.handValve
  exact (watered_handOrder s _).trans (watered_modWater _ _)

theorem watered_lastWaterOutcome (s : State) (i : Str) (o : Option OutcomeRecord) :
    s.Watered (s.modControl i fun c => { c with lastWaterOutcome := o }) := by
  refine ⟨rfl, rfl, rfl, rfl, fun k => State.modControl_slot .., rfl, fun j => ?_, fun j => State.modControl_charge ..⟩
  by_cases hj : i = j
  · rw [← hj]; exact ⟨o, State.modControl_control ..⟩
  · exact ⟨(s.control j).lastWaterOutcome, State.modControl_control_ne s hj _⟩

theorem watered_marks (s : State) : s.Watered s.markScan.markCommit :=
  ⟨rfl, rfl, rfl, rfl, fun k => by cases k <;> rfl, rfl, fun _ => ⟨_, rfl⟩, fun _ => rfl⟩

/-- A VALVE order that carries no unsent alteration (R128). -/
theorem handValve_frames {s : State} {i : Str} {a : List Alter} (hu : s.water.unsent = []) (hl : s.frames.length < orderCap) :
    (s.handValve i a).frames = joinFrames (valveFrame (s.cfg i).manifoldAddr s.ring.ownAddress a) s.frames := by
  have hall : (if s.water.lastValveDst = some (s.cfg i).manifoldAddr then mergeAlters s.water.unsent a else a) = a := by
    rw [hu]
    split <;> rfl
  unfold State.handValve
  dsimp only
  rw [hall]
  show (s.handOrder (valveFrame (s.cfg i).manifoldAddr s.ring.ownAddress a)).frames = _
  rw [handOrder_frames hl]
  unfold gasStopped
  rw [if_neg (by simp [Frame.isRectOn, valveFrame, kindValve, kindRect])]

theorem watered_accountOpen (s : State) (i : Str) : s.Watered (s.accountOpen i) := by
  obtain ⟨w, c, h⟩ := accountOpen_eq s i
  rw [h]
  exact ⟨rfl, rfl, rfl, rfl, fun k => by cases k <;> rfl, rfl, fun _ => ⟨_, rfl⟩, fun _ => rfl⟩

theorem watered_endWatering (h : ∀ k, (s.slot k).entryState = none) (i : Str) : s.Watered (s.endWatering i .restart) := by
  rw [endWatering_restart h]
  exact ((watered_modWater s _).trans (watered_lastWaterOutcome _ i _)).trans (watered_marks _)

/-- The unit is as it was, or idle with its pump off, and one order that closes the group joins the orders (R141). -/
theorem restartWatering_spec (h : ∀ k, (s.slot k).entryState = none) :
    s.Watered (s.modWater fun w => { w with unsent := [] }).restartWatering
    ∧ (s.water.string ≠ none → s.water.state ≠ .idle →
      (s.modWater fun w => { w with unsent := [] }).restartWatering.water.state = .idle
      ∧ (s.modWater fun w => { w with unsent := [] }).restartWatering.water.pump = false)
    ∧ (s.water.state = .idle →
      (s.modWater fun w => { w with unsent := [] }).restartWatering.frames = s.frames)
    ∧ (∀ j, s.water.string = some j → s.water.state ≠ .idle → s.frames.length < orderCap →
      (s.modWater fun w => { w with unsent := [] }).restartWatering.frames
        = joinFrames ⟨(s.cfg j).manifoldAddr, s.ring.ownAddress, kindValve,
            valvePayload (s.water.group.map fun g => ⟨g.pos, false⟩)⟩ s.frames) := by
  set z := s.modWater fun w => { w with unsent := [] } with hz
  have hzs : s.Watered z := watered_modWater ..
  unfold State.restartWatering
  rw [show z.water.string = s.water.string from rfl, show z.water.state = s.water.state from rfl]
  cases hj : s.water.string with
  | none => exact ⟨hzs, fun hn => absurd rfl hn, fun _ => rfl, fun j hn => by cases hn⟩
  | some j =>
    by_cases hidle : s.water.state = .idle
    · dsimp only
      rw [if_pos hidle]
      exact ⟨hzs, fun _ hn => absurd hidle hn, fun _ => rfl, fun _ _ hn => absurd hidle hn⟩
    · dsimp only
      rw [if_neg hidle]
      set v := (z.modWater fun w => { w with unsent := [] }).handValve j
        (closings ((z.modWater fun w => { w with unsent := [] }).water.group.map fun g => g.pos)) with hv
      have hvs : s.Watered v := (hzs.trans (watered_modWater ..)).trans (watered_handValve ..)
      have has : s.Watered (v.accountOpen j) := hvs.trans (watered_accountOpen v j)
      have hslots : ∀ k, ((v.accountOpen j).slot k).entryState = none := fun k => by rw [has.slot]; exact h k
      obtain ⟨w, c, hacc⟩ := accountOpen_eq v j
      have hwater : ((v.accountOpen j).endWatering j .restart).water = (v.accountOpen j).water.ended := by
        rw [endWatering_restart hslots]; rfl
      refine ⟨has.trans (watered_endWatering hslots j), fun _ _ => ?_, fun hn => absurd hn hidle, fun k hk _ hl => ?_⟩
      · rw [hwater]; exact ⟨rfl, rfl⟩
      · cases hk
        have hfr : ((v.accountOpen j).endWatering j .restart).frames = v.frames := by
          rw [endWatering_restart hslots, hacc]; rfl
        rw [hfr, hv, handValve_frames (by rfl) (by exact hl), closings_group]
        rfl

end

end Sys2Proof.Machine

namespace Sys2Proof.Machine

/-! ### What else a restart clears (R42, R105, R146, R172) -/

/-- The last times of measurement are forgotten (R42). -/
def State.forgetTimes (s : State) : State := s.eachStr fun i s => s.modCharge i fun c => { c with tPrev := none }

/-- The queue, staging, the cursor and the counters are cleared (R112, R172). -/
def State.restartCleared (s : State) : State :=
  (({ s with queue := [] } : State).discardStaging.modMgmt fun m =>
    { m with cursor := {}, held := false, mark := none }).modRing Ring.countersCleared

/-- The rest of a warm restart, once the rounds have ended and the orders have been handed (R42, R105, R146, R172). -/
def State.restartRest (s : State) : State :=
  let s := s.genIdle.forgetTimes.restartCleared.restoreSight false
  s.modRing fun r => { r with lastGood := some s.now, repeatDue := none }

theorem warmRestart_eq (s : State) : s.warmRestart = (((s.modRing Ring.emptied).restartEnds.standAll.modWater
    fun w => { w with unsent := [] }).restartWatering).restartRest := rfl

section
variable {s : State}

theorem reviewReasons_idle (h : ∀ k, (s.slot k).entryState = none) : (s.eachSlot fun sl s => s.reviewReasons sl) = s := by
  have hrev : ∀ k, s.reviewReasons k = s := fun k => by
    unfold State.reviewReasons
    rw [h k]
    rfl
  show (s.reviewReasons .A).reviewReasons .B = s
  rw [hrev, hrev]

theorem followSite_kept (s : State) : s.followSite.site.genState = s.site.genState
    ∧ s.followSite.site.genreq = s.site.genreq ∧ s.followSite.site.genEnd = s.site.genEnd
    ∧ s.followSite.site.gasLatch = s.site.gasLatch ∧ s.followSite.site.allowance = s.site.allowance :=
  ⟨rfl, rfl, rfl, rfl, rfl⟩

/-- Sight restored while no entry runs moves sight and what the Site Line Unit judges alone (R169). -/
theorem restoreSight_idle (h : ∀ k, (s.slot k).entryState = none) :
    (∃ x r m, s.restoreSight false = { s with site := x, ring := r, marks := m })
    ∧ ((s.restoreSight false).site.genState = s.site.genState ∧ (s.restoreSight false).site.genreq = s.site.genreq
      ∧ (s.restoreSight false).site.genEnd = s.site.genEnd ∧ (s.restoreSight false).site.gasLatch = s.site.gasLatch
      ∧ (s.restoreSight false).site.allowance = s.site.allowance)
    ∧ ∃ d, (s.restoreSight false).ring = { s.ring with sight := .seeing, repeatDue := d } := by
  unfold State.restoreSight
  split
  · next hs =>
    refine ⟨⟨_, _, _, rfl⟩, ⟨rfl, rfl, rfl, rfl, rfl⟩, s.ring.repeatDue, ?_⟩
    rw [← hs]
  · dsimp only
    set u := (s.modRing fun r => { r with sight := .seeing, repeatDue := none }) with hu
    have hidle : ∀ x, (u.followSite.slot x).entryState = none := fun x => by
      rw [followSite_slot, hu, State.modRing_slot]; exact h x
    rw [if_neg (by simp), reviewReasons_idle hidle]
    exact ⟨⟨_, _, _, by rw [followSite_fixed u, hu]; rfl⟩, followSite_kept u, none, rfl⟩

theorem forgetTimes_spec (s : State) (i : Str) : s.forgetTimes = { s with strings := s.forgetTimes.strings }
    ∧ s.forgetTimes.control i = s.control i ∧ s.forgetTimes.charge i = { s.charge i with tPrev := none } := by
  obtain ⟨u, ⟨hu, hui⟩, ⟨hv, hvi⟩⟩ := eachStr_turn (State.StrActs.refl i) State.StrActs.trans
    (f := fun i s => s.modCharge i fun c => { c with tPrev := none }) (fun k u hk => strActs_modCharge u hk _) s
  change s.forgetTimes = _ at hv
  change s.forgetTimes.str i = _ at hvi
  refine ⟨?_, ?_, ?_⟩
  · have hmod : (u.modCharge i fun c => { c with tPrev := none })
        = { u with strings := (u.modCharge i fun c => { c with tPrev := none }).strings } := rfl
    rw [hv, hmod, hu]
  · unfold State.control
    rw [hvi]
    exact (State.modCharge_control u i i _).trans (by unfold State.control; rw [hui])
  · unfold State.charge
    rw [hvi]
    exact (State.modCharge_charge u i _).trans (by unfold State.charge; rw [hui])

theorem restartCleared_eq (s : State) : ∃ m, s.restartCleared = { s with
    queue := [], ring := s.ring.countersCleared, marks := m
    mgmt := { s.mgmt.emptied with cursor := {}, held := false, mark := none } } := by
  unfold State.restartCleared State.discardStaging
  dsimp only
  split <;> exact ⟨_, rfl⟩

/-- What a restart clears and what it keeps, after its orders (R42, R105, R146, R172). -/
theorem restartRest_spec (h : ∀ k, (s.slot k).entryState = none) :
    (∀ i, s.restartRest.control i = s.control i ∧ s.restartRest.charge i = { s.charge i with tPrev := none })
    ∧ s.restartRest.water = s.water ∧ s.restartRest.images = s.images ∧ s.restartRest.queue = []
    ∧ (s.restartRest.site.genState = .idle ∧ s.restartRest.site.genreq = false ∧ s.restartRest.site.genEnd = none
      ∧ s.restartRest.site.gasLatch = s.site.gasLatch ∧ s.restartRest.site.allowance = s.site.allowance)
    ∧ s.restartRest.mgmt = { s.mgmt with staging := .empty, stagedTable := none, stagedTotal := none, staged := [],
                                         cursor := ⟨.cell, 0⟩, held := false, mark := none }
    ∧ s.restartRest.ring = { s.ring.countersCleared with sight := .seeing, lastGood := some s.now, repeatDue := none } := by
  obtain ⟨hstr, -⟩ := forgetTimes_spec s.genIdle 0
  have hrec : ∀ i, s.genIdle.forgetTimes.control i = s.control i
      ∧ s.genIdle.forgetTimes.charge i = { s.charge i with tPrev := none } := fun i => (forgetTimes_spec s.genIdle i).2
  unfold State.restartRest
  generalize s.genIdle.forgetTimes = a at hstr hrec
  obtain ⟨m, hm⟩ := restartCleared_eq a
  generalize a.restartCleared = b at hm
  have hidle : ∀ k, (b.slot k).entryState = none := fun k => by
    have hk : b.slot k = s.slot k := by rw [hm, hstr]; cases k <;> rfl
    rw [hk]; exact h k
  obtain ⟨⟨x, r, m', heq⟩, ⟨h1, h2, h3, h4, h5⟩, d, hring⟩ := restoreSight_idle hidle
  generalize b.restoreSight false = w at heq h1 h2 h3 h4 h5 hring
  have hsite : b.site = s.genIdle.site := by rw [hm, hstr]
  have hbring : b.ring = s.ring.countersCleared := by rw [hm, hstr]; rfl
  have hnow : w.now = s.now := by rw [heq, hm, hstr]; rfl
  rw [hsite] at h1 h2 h3 h4 h5
  refine ⟨fun i => ?_, ?_, ?_, ?_, ⟨h1, h2, h3, h4, h5⟩, ?_, ?_⟩
  · have hcon : w.control i = a.control i ∧ w.charge i = a.charge i := by rw [heq, hm]; exact ⟨rfl, rfl⟩
    exact ⟨hcon.1.trans (hrec i).1, hcon.2.trans (hrec i).2⟩
  · show w.water = _; rw [heq, hm, hstr]; rfl
  · show w.images = _; rw [heq, hm, hstr]; rfl
  · show w.queue = _; rw [heq, hm]
  · show w.mgmt = _; rw [heq, hm, hstr]; rfl
  · show ({ w.ring with lastGood := some w.now, repeatDue := none } : Ring) = _
    rw [hring, hbring, hnow]

end

end Sys2Proof.Machine

namespace Sys2Proof.Machine

/-! ### RESTART as a request (R187) -/

section
variable {s : State} {dt : Nat} {src : Byte}

/-- The state in which a restart ends the rounds: its time has passed and the Ring Port is empty (R172). -/
def State.restartBegun (s : State) (dt : Nat) : State := (s.begin dt).modRing Ring.emptied

/-- The state in which a restart ends the watering round: the rounds have ended and the standing orders wait. -/
def State.restartStood (s : State) (dt : Nat) : State := (s.restartBegun dt).restartEnds.standAll

/-- The state after the end of the watering round. -/
def State.restartWatered (s : State) (dt : Nat) : State :=
  ((s.restartStood dt).modWater fun w => { w with unsent := [] }).restartWatering

/-- A restart whose state holds no reply leaves its own alone (R172, R187). -/
theorem exec_restart (h : s.takesFrom src) (hr : (s.restartWatered dt).restartRest.ring.replies = []) :
    exec (.restart dt src) s = .next (((s.restartWatered dt).restartRest.modRing fun r =>
      { r with replies := [⟨src, s.ring.ownAddress, 0x31, [0x53, 0]⟩] })).settle := by
  have hact : ((s.begin dt).heldFor src).act .restart = (s.restartWatered dt).restartRest.accept := by
    show ((s.begin dt).heldFor src).warmRestart.accept = _
    rw [warmRestart_eq]
    rfl
  have htake : (s.begin dt).offer src (.request .restart) = (s.restartWatered dt).restartRest.modRing fun r =>
      { r with replies := [⟨src, s.ring.ownAddress, 0x31, [0x53, 0]⟩] } := by
    unfold State.offer
    rw [if_pos (State.begin_takesFrom h dt).1]
    unfold State.takeRequest
    have hans := (State.answer_request (State.begin_takesFrom h dt) .restart).trans hact
    unfold State.heldFor at hans
    dsimp only
    rw [hans]
    unfold State.accept State.modRing
    dsimp only
    rw [hr, State.begin_ring]
    rfl
  rw [exec_request (c := .restart dt src) rfl, ← htake]
  rfl

theorem restartBegun_fixed (s : State) (dt : Nat) : (s.restartBegun dt).now = s.now + dt
    ∧ (s.restartBegun dt).water = s.water ∧ (s.restartBegun dt).site = s.site ∧ (s.restartBegun dt).mgmt = s.mgmt
    ∧ (s.restartBegun dt).images = s.images ∧ (s.restartBegun dt).queue = s.queue
    ∧ (s.restartBegun dt).ring = s.ring.emptied
    ∧ (∀ i, (s.restartBegun dt).control i = (s.begin dt).control i)
    ∧ (∀ i, (s.restartBegun dt).charge i = s.charge i)
    ∧ ∀ k, (s.restartBegun dt).slot k = (s.slot k).elapse dt := by
  unfold State.restartBegun
  refine ⟨State.begin_now .., State.begin_water .., State.begin_site .., State.begin_mgmt .., State.begin_images ..,
    State.begin_queue .., ?_, fun i => State.modRing_control .., fun i => ?_, fun k => ?_⟩
  · show (s.begin dt).ring.emptied = _
    rw [State.begin_ring]
  · rw [State.modRing_charge, State.begin_charge]
  · rw [State.modRing_slot, State.begin_slot]

/-- Time and the emptied Ring Port leave the bindings (R61). -/
theorem restartBegun_boundOk (h : s.BoundOk) (dt : Nat) : (s.restartBegun dt).BoundOk := by
  obtain ⟨-, -, -, -, -, hq, -, hc, -, hs⟩ := restartBegun_fixed s dt
  have hst : ∀ i, ((s.restartBegun dt).control i).state = (s.control i).state := fun i => by
    rw [hc]; exact (State.begin_control_kept s dt i).1
  have hsl : ∀ i, ((s.restartBegun dt).control i).slot = (s.control i).slot := fun i => by
    rw [hc]; exact (State.begin_control_kept s dt i).2.2.1
  constructor
  · intro sl i; rw [hs, hsl, SlotRec.elapse_string]; exact h.agree sl i
  · intro i; rw [hst, hsl]; exact h.away i
  · intro i; rw [hst, hsl]; exact h.home i
  · intro sl hr
    rw [hs, SlotRec.elapse_entryState] at hr
    obtain ⟨i, h1, h2⟩ := h.runs sl hr
    exact ⟨i, by rw [hs, SlotRec.elapse_string]; exact h1, by rw [hst]; exact h2⟩
  · intro sl; rw [hs, SlotRec.elapse_waterCalled, SlotRec.elapse_entryState]; exact h.calls sl
  · intro e; rw [hq, hsl]; exact h.waits e

theorem around_restartStood (s : State) (dt : Nat) : (s.restartBegun dt).Around (s.restartStood dt) :=
  (around_restartEnds _).trans (around_standAll _)

theorem restartStood_idle (h : s.BoundOk) (dt : Nat) (k : SlotId) : ((s.restartStood dt).slot k).entryState = none :=
  (around_standAll _).idle (restartEnds_idle (restartBegun_boundOk h dt) k)

theorem restartWatered_spec (h : s.BoundOk) (dt : Nat) : (s.restartStood dt).Watered (s.restartWatered dt)
    ∧ ∀ k, ((s.restartWatered dt).slot k).entryState = none := by
  obtain ⟨hw, -⟩ := restartWatering_spec (restartStood_idle h dt)
  exact ⟨hw, fun k => by unfold State.restartWatered; rw [hw.slot]; exact restartStood_idle h dt k⟩

/-- The record of a string after a restart: that of its round's end but for the order handed again (R79, R80). -/
theorem restart_control (h : s.BoundOk) (dt : Nat) (i : Str) :
    ∃ r l o, (s.restartWatered dt).restartRest.control i
      = { (s.restartBegun dt).restartEnds.control i with rectOrder := r, lastRectTime := l, lastWaterOutcome := o }
    ∧ (((s.restartBegun dt).restartEnds.control i).state ≠ .faulted →
      r = ((s.restartBegun dt).restartEnds.control i).rectOrder) := by
  obtain ⟨hw, hidle⟩ := restartWatered_spec h dt
  obtain ⟨hrest, -⟩ := restartRest_spec hidle
  obtain ⟨r, l, hst, hr⟩ := standAll_control (s.restartBegun dt).restartEnds i
  obtain ⟨o, ho⟩ := hw.control i
  exact ⟨r, l, o, (hrest i).1.trans (ho.trans (by unfold State.restartStood; rw [hst])), hr⟩

/-- The Ring Port after a restart, but for the reply and the orders (R172). -/
theorem restart_ring (h : s.BoundOk) (dt : Nat) : (∃ q n, (s.restartWatered dt).restartRest.ring
    = { s.ring.emptied.countersCleared with
        orders := q, orderCount := n, sight := .seeing, lastGood := some (s.now + dt), repeatDue := none })
    ∧ (s.restartWatered dt).restartRest.frames = (s.restartWatered dt).frames := by
  obtain ⟨hw, hidle⟩ := restartWatered_spec h dt
  obtain ⟨-, -, -, -, -, -, hring⟩ := restartRest_spec hidle
  have ha := around_restartStood s dt
  obtain ⟨hnow, -, -, -, -, -, hb, -⟩ := restartBegun_fixed s dt
  have hr := hw.ring
  rw [ha.ring, hb] at hr
  have hn : (s.restartWatered dt).now = s.now + dt := by rw [hw.now, ha.now, hnow]
  generalize s.restartWatered dt = y at hr hring hn
  refine ⟨⟨y.ring.orders, y.ring.orderCount, ?_⟩, ?_⟩
  · rw [hring, hn]
    generalize y.ring = x at hr
    rw [hr]
    rfl
  · unfold State.frames
    rw [hring]
    rfl

end

end Sys2Proof.Machine

namespace Sys2Proof.Machine

section
variable {s : State} {dt : Nat} {i : Str} {sl : SlotId}

theorem rectStands_off (s : State) (sl : SlotId) :
    s.rectStands sl .off = ⟨s.rectAddr sl, s.ring.ownAddress, 0x20, [0, 0, 0, 0, 0]⟩ := by
  unfold State.rectStands gasStopped
  split <;> rfl

theorem rectStands_on (s : State) (sl : SlotId) (v a : Nat) : s.rectStands sl (.on v a)
    = ⟨s.rectAddr sl, s.ring.ownAddress, 0x20,
        if s.ring.gasStop = true then [0, 0, 0, 0, 0] else 1 :: (bytesBE 2 v ++ bytesBE 2 a)⟩ := by
  have hon : (rectFrame (s.rectAddr sl) s.ring.ownAddress (.on v a)).isRectOn = true := rfl
  unfold State.rectStands gasStopped
  rw [hon, Bool.and_true]
  split <;> rfl

theorem standingFrames_length (s : State) (i : Str) (sl : SlotId) : (s.standingFrames i sl).length ≤ 2 := by
  unfold State.standingFrames
  rw [List.length_append]
  refine Nat.add_le_add (b := 1) (d := 1) ?_ ?_
  · split <;> simp
  · split <;> simp

theorem standingFrames_dst {w : Frame} (h : w ∈ s.standingFrames i sl) :
    w.dst = s.rectAddr sl ∨ w.dst = (s.cfg i).contactorAddr := by
  unfold State.standingFrames at h
  rcases List.mem_append.mp h with h | h
  · split at h
    · cases h
    · rw [List.mem_singleton.mp h]; exact .inl (rectStands_dst ..)
  · split at h
    · rw [List.mem_singleton.mp h]; exact .inr rfl
    · cases h

/-- What a restart's ends leave of the names of the orders (R164). -/
theorem restartStood_names (s : State) (dt : Nat) : (s.restartStood dt).water = s.water
    ∧ (s.restartStood dt).images = s.images ∧ (s.restartStood dt).ring.ownAddress = s.ring.ownAddress := by
  have ha := around_restartStood s dt
  obtain ⟨-, hw, -, -, hi, -, hr, -⟩ := restartBegun_fixed s dt
  refine ⟨ha.water.trans hw, ha.images.trans hi, ?_⟩
  rw [ha.ring, hr]
  rfl

/-- A watering round in progress has ended (R141). -/
theorem restartWatered_done (h : s.BoundOk) (dt : Nat) (h1 : s.water.string ≠ none) (h2 : s.water.state ≠ .idle) :
    (s.restartWatered dt).water.state = .idle ∧ (s.restartWatered dt).water.pump = false := by
  have hw := (restartStood_names s dt).1
  obtain ⟨-, hdone, -⟩ := restartWatering_spec (restartStood_idle h dt)
  unfold State.restartWatered
  exact hdone (by rw [hw]; exact h1) (by rw [hw]; exact h2)

/-- The order that closes the group stands behind those of the bound string (R141; log 12, log 24). -/
theorem restart_closing (h : s.BoundOk) {closing : List Frame} (hidle : s.water.state = .idle → closing = [])
    (hclose : ∀ j, s.water.state ≠ .idle → s.water.string = some j → closing = [⟨(s.cfg j).manifoldAddr,
      s.ring.ownAddress, 0x22, valvePayload (s.water.group.map fun g => ⟨g.pos, false⟩)⟩])
    (hstr : s.water.state ≠ .idle → s.water.string ≠ none) (hlen : (s.restartStood dt).frames.length < orderCap)
    (hdst : ∀ f ∈ closing, ∀ w ∈ (s.restartStood dt).frames, w.dst ≠ f.dst) :
    (s.restartWatered dt).frames = (s.restartStood dt).frames ++ closing := by
  obtain ⟨hw, hi, hown⟩ := restartStood_names s dt
  obtain ⟨-, -, hstill, hjoin⟩ := restartWatering_spec (restartStood_idle h dt)
  rw [hw] at hstill hjoin
  by_cases hs : s.water.state = .idle
  · rw [hidle hs, List.append_nil]
    exact hstill hs
  · obtain ⟨j, hj⟩ := Option.ne_none_iff_exists'.mp (hstr hs)
    have hcfg : (s.restartStood dt).cfg j = s.cfg j := by unfold State.cfg; rw [hi]
    have hc := hclose j hs hj
    have hfr := hjoin j hj hs hlen
    rw [hcfg, hown] at hfr
    rw [hc] at hdst ⊢
    exact hfr.trans (joinFrames_new fun w hin => hdst _ (List.mem_singleton.mpr rfl) w hin)

/-- The frames that stand for the one bound string, by its record after the restart (R80). -/
theorem restart_standing (h : s.BoundOk) (hs : (s.control i).slot = some sl)
    (hother : ∀ j, j ≠ i → (s.control j).slot = none) (hne : s.rectAddr sl ≠ (s.cfg i).contactorAddr) :
    (s.restartStood dt).frames = (s.restartBegun dt).restartEnds.standingFrames i sl := by
  obtain ⟨-, -, -, -, hi, -, hr, hc, -⟩ := restartBegun_fixed s dt
  have hslot : ∀ j, ((s.restartBegun dt).control j).slot = (s.control j).slot := fun j => by
    rw [hc]; exact (State.begin_control_kept s dt j).2.2.1
  have h0 : (s.restartBegun dt).frames = [] := by unfold State.frames; rw [hr]; rfl
  have haddr : (s.restartBegun dt).rectAddr sl = s.rectAddr sl := by unfold State.rectAddr State.lim; rw [hi]
  have hcfg : (s.restartBegun dt).cfg i = s.cfg i := by unfold State.cfg; rw [hi]
  exact restart_frames (restartBegun_boundOk h dt) h0 (by rw [hslot]; exact hs)
    (fun j hj => by rw [hslot]; exact hother j hj) (by rw [haddr, hcfg]; exact hne)

/-- The rounds end with RESTART and the returns in flight stand, string by string (R172). -/
theorem restart_ends (s : State) (dt : Nat) (i : Str) :
    ((s.control i).state = .called ∨ (s.control i).state = .equalising →
      ((s.restartBegun dt).restartEnds.control i).state = .returning
        ∧ ((s.restartBegun dt).restartEnds.control i).endReason = some .restart)
    ∧ (¬ ((s.control i).state = .called ∨ (s.control i).state = .equalising) →
      (s.restartBegun dt).restartEnds.control i = (s.begin dt).control i)
    ∧ ((s.restartBegun dt).restartEnds.control i).heldOrder = (s.control i).heldOrder
    ∧ ((s.restartBegun dt).restartEnds.control i).slot = (s.control i).slot
    ∧ ((s.restartBegun dt).restartEnds.control i).holdoffUntil = (s.control i).holdoffUntil := by
  obtain ⟨-, -, -, -, -, -, -, hc, -⟩ := restartBegun_fixed s dt
  have hr := restartEnds_control (s.restartBegun dt) i
  obtain ⟨h1, h2, h3⟩ := (around_restartEnds (s.restartBegun dt)).record i
  rw [hc] at hr h1 h2 h3
  rw [State.begin_control_eq] at h1 h2 h3
  rw [(State.begin_control_kept s dt i).1] at hr
  exact ⟨hr.1, hr.2, h1, h2, h3⟩

/-- The record of a string after a restart (R67, R172). -/
theorem restart_record (hb : s.BoundOk) (dt : Nat) (i : Str) :
    ((s.control i).state = .called ∨ (s.control i).state = .equalising →
      ((s.restartWatered dt).restartRest.control i).state = .returning
        ∧ ((s.restartWatered dt).restartRest.control i).endReason = some .restart)
    ∧ (¬ ((s.control i).state = .called ∨ (s.control i).state = .equalising) → ∃ r l o,
      (s.restartWatered dt).restartRest.control i
        = { (s.begin dt).control i with rectOrder := r, lastRectTime := l, lastWaterOutcome := o })
    ∧ ((s.restartWatered dt).restartRest.control i).heldOrder = (s.control i).heldOrder
    ∧ ((s.restartWatered dt).restartRest.control i).slot = (s.control i).slot
    ∧ ((s.restartWatered dt).restartRest.control i).holdoffUntil = (s.control i).holdoffUntil := by
  obtain ⟨r, l, o, hcon, -⟩ := restart_control hb dt i
  have hends := restart_ends s dt i
  generalize (s.restartWatered dt).restartRest.control i = c at hcon
  generalize (s.restartBegun dt).restartEnds.control i = d at hcon hends
  obtain ⟨h1, h2, h3, h4, h5⟩ := hends
  subst hcon
  exact ⟨h1, fun hq => ⟨r, l, o, by rw [h2 hq]⟩, h3, h4, h5⟩

/-- A string is FAULTED after the ends of a restart when it was (R172). -/
theorem restart_faulted (s : State) (dt : Nat) (i : Str) :
    ((s.restartBegun dt).restartEnds.control i).state = .faulted ↔ (s.control i).state = .faulted := by
  obtain ⟨h1, h2, -⟩ := restart_ends s dt i
  by_cases hq : (s.control i).state = .called ∨ (s.control i).state = .equalising
  · rw [(h1 hq).1]
    rcases hq with hq | hq <;> rw [hq] <;> simp
  · rw [h2 hq, (State.begin_control_kept s dt i).1]

/-- The names and the gas stop of the orders that a restart's ends hand (R165). -/
theorem restartEnds_names (s : State) (dt : Nat) (i : Str) (sl : SlotId) :
    (s.restartBegun dt).restartEnds.rectAddr sl = s.rectAddr sl ∧ (s.restartBegun dt).restartEnds.cfg i = s.cfg i
    ∧ (s.restartBegun dt).restartEnds.ring.ownAddress = s.ring.ownAddress
    ∧ (s.restartBegun dt).restartEnds.ring.gasStop = s.ring.gasStop := by
  have ha := around_restartEnds (s.restartBegun dt)
  obtain ⟨-, -, -, -, hi, -, hr, -⟩ := restartBegun_fixed s dt
  have himg := ha.images.trans hi
  have hring := ha.ring
  rw [hr] at hring
  generalize (s.restartBegun dt).restartEnds = t at himg hring
  refine ⟨?_, ?_, ?_, ?_⟩
  · unfold State.rectAddr State.lim; rw [himg]
  · unfold State.cfg; rw [himg]
  · rw [hring]; rfl
  · rw [hring]; rfl

/-- The orders that wait after a restart, by the records that it leaves (R80, R141, R172; log 12, log 24). -/
theorem restart_orders (hb : s.BoundOk) {closing : List Frame} (hidle : s.water.state = .idle → closing = [])
    (hclose : ∀ j, s.water.state ≠ .idle → s.water.string = some j → closing = [⟨(s.cfg j).manifoldAddr,
      s.ring.ownAddress, 0x22, valvePayload (s.water.group.map fun g => ⟨g.pos, false⟩)⟩])
    (hstr : s.water.state ≠ .idle → s.water.string ≠ none) :
    ((∀ i, (s.control i).slot = none) → (s.restartWatered dt).frames = closing)
    ∧ ∀ i sl, (s.control i).slot = some sl → (∀ j, j ≠ i → (s.control j).slot = none) →
      s.rectAddr sl ≠ (s.cfg i).contactorAddr →
      (∀ f ∈ closing, f.dst ≠ s.rectAddr sl ∧ f.dst ≠ (s.cfg i).contactorAddr) →
      (s.restartWatered dt).frames = (s.restartBegun dt).restartEnds.standingFrames i sl ++ closing := by
  refine ⟨fun hnone => ?_, fun i sl hs hother hne hdst => ?_⟩
  · obtain ⟨-, -, -, -, -, -, hr, hc, -⟩ := restartBegun_fixed s dt
    have hstood : s.restartStood dt = s.restartBegun dt := restart_unbound (restartBegun_boundOk hb dt) fun j => by
      rw [hc, (State.begin_control_kept s dt j).2.2.1]; exact hnone j
    have h0 : (s.restartStood dt).frames = [] := by rw [hstood]; unfold State.frames; rw [hr]; rfl
    rw [restart_closing hb hidle hclose hstr (by rw [h0]; decide) (by rw [h0]; simp), h0]
    rfl
  · obtain ⟨haddr, hcfg, -⟩ := restartEnds_names s dt i sl
    have hst := restart_standing (dt := dt) hb hs hother hne
    rw [restart_closing hb hidle hclose hstr, hst]
    · rw [hst]
      exact lt_of_le_of_lt (standingFrames_length ..) (by decide)
    · intro f hf w hw
      rw [hst] at hw
      have hd := standingFrames_dst hw
      rw [haddr, hcfg] at hd
      obtain ⟨h1, h2⟩ := hdst f hf
      rcases hd with hd | hd <;> rw [hd]
      · exact h1.symm
      · exact h2.symm

/-- The frames that stand for a string, in the bytes of 11.2. -/
theorem restart_standingFrames (hb : s.BoundOk) (dt : Nat) (i : Str) (sl : SlotId) :
    (s.restartBegun dt).restartEnds.standingFrames i sl =
      (match if (s.control i).state = .faulted then some .off
          else ((s.restartWatered dt).restartRest.control i).rectOrder with
        | none => []
        | some (.on v a) => [⟨s.rectAddr sl, s.ring.ownAddress, 0x20, if s.ring.gasStop = true then [0, 0, 0, 0, 0]
            else 1 :: (bytesBE 2 v ++ bytesBE 2 a)⟩]
        | some .off => [⟨s.rectAddr sl, s.ring.ownAddress, 0x20, [0, 0, 0, 0, 0]⟩])
      ++ (if ((s.restartWatered dt).restartRest.control i).state = .returning
          ∧ ((s.restartWatered dt).restartRest.control i).step = some .confirm then
          [⟨(s.cfg i).contactorAddr, s.ring.ownAddress, 0x21, [1]⟩] else []) := by
  obtain ⟨haddr, hcfg, hown, hgas⟩ := restartEnds_names s dt i sl
  obtain ⟨r, l, o, hcon, hr⟩ := restart_control hb dt i
  have hfault := restart_faulted s dt i
  rw [hcon]
  generalize (s.restartBegun dt).restartEnds = t at *
  have hsel : (if (t.control i).state = .faulted then some .off else (t.control i).rectOrder)
      = if (s.control i).state = .faulted then some .off else r := by
    by_cases hf : (t.control i).state = .faulted
    · rw [if_pos hf, if_pos (hfault.mp hf)]
    · rw [if_neg hf, if_neg (mt hfault.mpr hf), hr hf]
  have hbus : t.busStands i = ⟨(s.cfg i).contactorAddr, s.ring.ownAddress, 0x21, [1]⟩ := by
    unfold State.busStands
    rw [hcfg, hown]
    rfl
  unfold State.standingFrames
  rw [hsel, hbus]
  refine congrArg (· ++ _) ?_
  dsimp only
  generalize (if (s.control i).state = .faulted then some .off else r) = x
  cases x with
  | none => rfl
  | some c =>
    cases c with
    | off => exact congrArg (fun f => [f]) ((rectStands_off t sl).trans (by rw [haddr, hown]))
    | on v a => exact congrArg (fun f => [f]) ((rectStands_on t sl v a).trans (by rw [haddr, hown, hgas]))

end

/-- Settles O44: the event is cut into the ends of the rounds (`restartEnds`), the standing orders (`standAll`), the end of the
watering round (`restartWatering_spec`) and what is cleared (`restartRest_spec`); no entry runs after the first, so that
nothing later acts on a slot. -/
theorem restartIsWarm : Obligations.RestartIsWarm := by
  intro s dt src htake hb
  obtain ⟨hwat, hidle⟩ := restartWatered_spec hb dt
  obtain ⟨hrec, hwater, himages, hqueue, hsite, hmgmt, -⟩ := restartRest_spec hidle
  obtain ⟨⟨q, n, hring⟩, hframes⟩ := restart_ring hb dt
  have ha := around_restartStood s dt
  obtain ⟨-, bwater, bsite, bmgmt, bimages, -, -, -, bcharge, -⟩ := restartBegun_fixed s dt
  have hdone := restartWatered_done hb dt
  have hx := exec_restart htake (by rw [hring]; rfl)
  have hcon := restart_record hb dt
  have hstanding := restart_standingFrames hb dt
  have horders := fun closing => restart_orders (dt := dt) (closing := closing) hb
  rw [← hframes] at horders
  have hcha : ∀ i, (s.restartWatered dt).restartRest.charge i = { s.charge i with tPrev := none } := fun i => by
    rw [(hrec i).2, hwat.charge, ha.charge, bcharge]
  rw [hwat.site, ha.site, bsite] at hsite
  rw [hwat.mgmt, ha.mgmt, bmgmt] at hmgmt
  rw [hwat.images, ha.images, bimages] at himages
  rw [← hwater] at hdone
  generalize (s.restartWatered dt).restartRest = z at *
  obtain ⟨g1, g2, g3, g4, g5⟩ := hsite
  refine ⟨_, hx, fun i hi => ?_, fun i hi => ?_, fun i hi => ?_, fun i => ?_, hdone, g1, g2, g3, g4, g5, hqueue, ?_⟩
  · obtain ⟨h1, -, -, -, h5⟩ := hcon i
    exact ⟨(h1 hi).1, (h1 hi).2, h5⟩
  · obtain ⟨-, h2, -⟩ := hcon i
    obtain ⟨r, l, o, h⟩ := h2 (by rw [hi]; simp)
    rw [State.modRing_control, h, State.begin_control_eq]
    exact ⟨hi, rfl, rfl, rfl, rfl⟩
  · obtain ⟨-, h2, -⟩ := hcon i
    obtain ⟨r, l, o, h⟩ := h2 (by rcases hi with hi | hi | hi <;> rw [hi] <;> simp)
    rw [State.modRing_control, h, State.begin_control_eq]
  · obtain ⟨-, -, h3, h4, -⟩ := hcon i
    rw [State.modRing_control, State.modRing_charge, hcha]
    exact ⟨h3, h4, rfl, rfl⟩
  · have hq : q.map (fun o => o.frame) = z.frames := by unfold State.frames; rw [hring]
    rw [State.modRing_ring, hring]
    refine ⟨rfl, rfl, rfl, fun e => ?_, rfl, rfl, rfl, rfl, rfl, rfl, rfl, rfl, rfl, rfl, hmgmt, himages,
      fun closing c1 c2 c3 => ?_⟩
    · exact Vector.getElem_replicate e.isLt
    · obtain ⟨hnone, hone⟩ := horders closing c1 c2 c3
      exact ⟨fun h => hq.trans (hnone h), fun i sl h1 h2 h3 h4 =>
        hq.trans ((hone i sl h1 h2 h3 h4).trans (congrArg (· ++ closing) (hstanding i sl)))⟩

end Sys2Proof.Machine

/-! ## Committed images change whole (R43, R178, R181) -/

namespace Sys2Proof.Machine

/-- An event that changes the images, its end included, has applied the image pending before it or the one just received
(R178, R181). -/
theorem Leaves.applies_of_images_ne {c : Instr} {s t v : State} (h : Leaves c s v) (ht : t = v ∨ t = v.settle)
    (hne : t.images ≠ s.images) :
    s.AppliedPending t ∨ (((∃ dt src, c = .loadCommit dt src) ∨ mayEndFrame c = true) ∧ s.Committed t) := by
  rcases ht with rfl | rfl
  · exact h.images.resolve_left fun hkept => hne hkept.1
  · rcases h.images with hkept | happlied | ⟨hrow, hcommitted⟩
    · exact .inl ((State.settle_staged hkept).resolve_left hne)
    · exact .inl (State.settle_appliedPending happlied)
    · exact .inr ⟨hrow, State.settle_committed hcommitted⟩

/-- Settles O8: the case analysis over the commands (`exec_leaves`) leaves the images as they are or with one image applied,
and the event's end applies at most the image that was pending. -/
theorem imagesChangeWhole : Obligations.ImagesChangeWhole := by
  intro c s t hc hexec hne
  obtain ⟨v, hleaves, ht⟩ := exec_leaves hexec hc
  rcases hleaves.applies_of_images_ne ht hne with ⟨hempty, tb, htable, hpending, himages⟩ |
    ⟨hrow, hempty, tb, htable, hreceiving, himages⟩
  · exact ⟨hempty, tb, htable, .inl ⟨hpending, himages⟩⟩
  · exact ⟨hempty, tb, htable, .inr ⟨hreceiving, hrow, himages⟩⟩

end Sys2Proof.Machine

/-! ## The checks of an image name its first fault (R45, R48, R179, R180) -/

namespace Sys2Proof.Machine

/-! ### The first fault of a run of checks -/

/-- The answer `c` of a run of checks names, by `g`, the first place at which `F` holds, and is none where `F` holds nowhere. -/
def FirstFault (c : Option Nat) (F : Nat → Prop) (g : Nat → Nat) : Prop :=
  (c = none ∧ ∀ p, ¬ F p) ∨ ∃ p, F p ∧ (∀ q, q < p → ¬ F q) ∧ c = some (g p)

section
variable {c : Option Nat} {F G : Nat → Prop} {g : Nat → Nat}

theorem FirstFault.eq_none_iff (h : FirstFault c F g) : c = none ↔ ∀ p, ¬ F p := by
  rcases h with ⟨rfl, hno⟩ | ⟨p, hp, -, rfl⟩
  · exact ⟨fun _ => hno, fun _ => rfl⟩
  · exact ⟨fun h => (Option.some_ne_none _ h).elim, fun h => absurd hp (h p)⟩

theorem FirstFault.eq_some_iff (h : FirstFault c F g) (f : Nat) :
    c = some f ↔ ∃ p, F p ∧ (∀ q, q < p → ¬ F q) ∧ f = g p := by
  rcases h with ⟨rfl, hno⟩ | ⟨p, hp, hfirst, rfl⟩
  · exact ⟨fun h => (Option.some_ne_none _ h.symm).elim, fun ⟨p, hp, _⟩ => absurd hp (hno p)⟩
  · constructor
    · intro h
      exact ⟨p, hp, hfirst, (Option.some.inj h).symm⟩
    · rintro ⟨q, hq, hfirst', rfl⟩
      have hpq : p = q := le_antisymm (not_lt.mp fun h => hfirst q h hq) (not_lt.mp fun h => hfirst' p h hp)
      rw [hpq]

theorem FirstFault.congr (h : FirstFault c F g) (hFG : ∀ p, F p ↔ G p) : FirstFault c G g := by
  rwa [← funext fun p => propext (hFG p)]

theorem FirstFault.congr_name {g' : Nat → Nat} (h : FirstFault c F g) (hg : ∀ p, F p → g p = g' p) : FirstFault c F g' := by
  rcases h with ⟨rfl, hno⟩ | ⟨p, hp, hfirst, rfl⟩
  · exact .inl ⟨rfl, hno⟩
  · exact .inr ⟨p, hp, hfirst, congrArg some (hg p hp)⟩

theorem firstFault_none (h : ∀ p, ¬ F p) : FirstFault none F g := .inl ⟨rfl, h⟩

/-- A place that no check speaks of. -/
theorem firstFault_skip (h0 : ¬ F 0) (h : FirstFault c (fun p => F (p + 1)) fun p => g (p + 1)) : FirstFault c F g := by
  rcases h with ⟨rfl, hno⟩ | ⟨p, hp, hfirst, rfl⟩
  · exact firstFault_none fun p => by
      cases p with
      | zero => exact h0
      | succ p => exact hno p
  · refine .inr ⟨p + 1, hp, fun q hq => ?_, rfl⟩
    cases q with
    | zero => exact h0
    | succ q => exact hfirst q (by omega)

/-- The check at place 0, and the run of those from place 1 on. -/
theorem firstFault_ite {bad : Prop} [Decidable bad] {ix : Nat} (hbad : bad ↔ F 0) (hix : ix = g 0)
    (h : ¬ bad → FirstFault c (fun p => F (p + 1)) fun p => g (p + 1)) : FirstFault (if bad then some ix else c) F g := by
  by_cases h0 : bad
  · rw [if_pos h0, hix]
    exact .inr ⟨0, hbad.mp h0, fun q hq => absurd hq (Nat.not_lt_zero q), rfl⟩
  · rw [if_neg h0]
    exact firstFault_skip (mt hbad.mpr h0) (h h0)

theorem firstFault_nil (h : ∀ p, ¬ F p) : FirstFault (firstFail []) F g := firstFault_none h

theorem firstFault_cons {bad : Bool} {ix : Nat} {rest : List (Bool × Nat)} (hbad : bad = true ↔ F 0) (hix : ix = g 0)
    (h : FirstFault (firstFail rest) (fun p => F (p + 1)) fun p => g (p + 1)) :
    FirstFault (firstFail ((bad, ix) :: rest)) F g :=
  firstFault_ite hbad hix fun _ => h

/-- A run of checks that goes from one part of an image to the next, where the places of part `a` stand from `o a` on. -/
theorem firstFault_findSome {α : Type} {f : α → Option Nat} {P : α → Nat → Prop} {o : α → Nat} {w : Nat} :
    ∀ {l : List α}, (l.Pairwise fun a a' => o a + w ≤ o a') → (∀ a ∈ l, ∀ j, P a j → j < w) →
      (∀ a ∈ l, FirstFault (f a) (P a) fun j => g (o a + j)) →
      FirstFault (l.findSome? f) (fun p => ∃ a ∈ l, ∃ j, p = o a + j ∧ P a j) g
  | [], _, _, _ => firstFault_none fun p ⟨_, ha, _⟩ => absurd ha List.not_mem_nil
  | a :: l, hord, hw, hf => by
    obtain ⟨hlater, hord'⟩ := List.pairwise_cons.mp hord
    rcases hf a List.mem_cons_self with ⟨hnone, hno⟩ | ⟨j, hj, hfirst, hsome⟩
    · rw [List.findSome?_cons_of_isNone (by rw [hnone]; rfl)]
      refine (firstFault_findSome hord' (fun x hx => hw x (List.mem_cons_of_mem _ hx))
        fun x hx => hf x (List.mem_cons_of_mem _ hx)).congr fun p => ⟨?_, ?_⟩
      · rintro ⟨x, hx, h⟩
        exact ⟨x, List.mem_cons_of_mem _ hx, h⟩
      · rintro ⟨x, hx, k, hk, hP⟩
        rcases List.mem_cons.mp hx with rfl | hx
        · exact absurd hP (hno k)
        · exact ⟨x, hx, k, hk, hP⟩
    · rw [List.findSome?_cons_of_isSome (by rw [hsome]; rfl)]
      refine .inr ⟨o a + j, ⟨a, List.mem_cons_self, j, rfl, hj⟩, ?_, hsome⟩
      rintro q hq ⟨x, hx, k, rfl, hP⟩
      rcases List.mem_cons.mp hx with rfl | hx
      · exact hfirst k (by omega) hP
      · have hj' := hw a List.mem_cons_self j hj
        have hx' := hlater x hx
        omega

end

/-! ### The five tables -/

theorem u8_lt (b : List Byte) (i : Nat) : u8 b i < 256 := (b.getD i 0).isLt

theorem claims_iff (c : StringCfg) (a : Byte) : c.claims a = true ↔ c.addresses a := by
  simp [StringCfg.claims, StringCfg.addresses, StringCfg.inCellRange, StringCfg.hasManifold, or_assoc]

theorem presentClaims_iff (s : State) (a : Byte) :
    (s.presentStrs.any fun i => (s.cfg i).claims a) = true ↔ ∃ i, (s.cfg i).present = true ∧ (s.cfg i).addresses a := by
  simp [State.presentStrs, State.present, mem_allStrs, claims_iff]

/-- The checks of a LIMITS image (R179). -/
theorem checkLimits_firstFault (s : State) (b : List Byte) : FirstFault (s.checkLimits b) (s.limitsFault b) id := by
  unfold State.checkLimits
  refine firstFault_cons ?_ rfl (firstFault_cons ?_ rfl (firstFault_cons ?_ rfl (firstFault_cons ?_ rfl
    (firstFault_cons ?_ rfl (firstFault_cons ?_ rfl (firstFault_nil fun p => ?_))))))
  · simp [State.limitsFault]
  · have hbound := presentClaims_iff s (b.getD 1 0)
    simp only [State.limitsFault, Bool.and_eq_true, Bool.or_eq_true, hbound, bne_iff_ne, beq_iff_eq]
    simp [or_assoc, or_comm, or_left_comm]
  · have hbound := presentClaims_iff s (b.getD 2 0)
    simp only [State.limitsFault, Bool.and_eq_true, Bool.or_eq_true, hbound, bne_iff_ne, beq_iff_eq]
    simp [or_assoc, or_comm, or_left_comm]
  · simp only [State.limitsFault, Bool.or_eq_true, decide_eq_true_eq]
    generalize b.getD 1 0 = a, b.getD 2 0 = c
    by_cases ha : a = 255#8 <;> by_cases hc : c = 255#8 <;> simp [ha, hc]; omega
  · simp [State.limitsFault]
  · simp [State.limitsFault]
  · simp [State.limitsFault]

/-- The range of a string's cells, where no address of it passes 0xFE, holds an address that `taken` names. -/
theorem cellRange_any (c : StringCfg) (taken : Byte → Bool) (h : c.cellBase.toNat + c.cells - 1 ≤ 0xFE) :
    c.cellRange.any taken = true ↔
      ∃ x : Byte, (c.cellBase.toNat ≤ x.toNat ∧ x.toNat < c.cellBase.toNat + c.cells) ∧ taken x = true := by
  simp only [StringCfg.cellRange, List.any_map, List.any_eq_true, List.mem_range, Function.comp]
  constructor
  · rintro ⟨k, hk, htaken⟩
    refine ⟨_, ?_, htaken⟩
    rw [BitVec.toNat_ofNat, Nat.mod_eq_of_lt (by omega)]
    omega
  · rintro ⟨x, ⟨hlo, hhi⟩, htaken⟩
    refine ⟨x.toNat - c.cellBase.toNat, by omega, ?_⟩
    rwa [Nat.add_sub_cancel' hlo, BitVec.ofNat_toNat, BitVec.setWidth_eq]

/-- What a STRING entry may not take: own_address, a slot address, an address of an earlier present entry (R180). -/
theorem takenBefore_iff (s : State) (b : List Byte) (i : Str) (x : Byte) :
    (s.ownOrSlot x || (((allStrs.filter fun j => j.val < i.val).map fun j => StringCfg.ofImage b j).filter
        fun e => e.present).any fun e => e.claims x) = true ↔
      x = s.ring.ownAddress ∨ (x ≠ 0xFF ∧ (x = s.lim.slotARect ∨ x = s.lim.slotBRect))
        ∨ ∃ k, k < i ∧ (StringCfg.ofImage b k).present = true ∧ (StringCfg.ofImage b k).addresses x := by
  simp [State.ownOrSlot, mem_allStrs, claims_iff, or_assoc]

/-- The checks of one STRING entry (R180, log 13). -/
theorem checkString_firstFault (s : State) (b : List Byte) (i : Str) :
    FirstFault (s.checkString b (20 * i.val)
      (((allStrs.filter fun j => j.val < i.val).map fun j => StringCfg.ofImage b j).filter fun e => e.present))
      (s.stringFault b i) fun j => 20 * i.val + j := by
  have htaken := takenBefore_iff s b i
  unfold State.checkString
  extract_lets c taken sh co ma
  have hc : c = StringCfg.ofImage b i := rfl
  refine firstFault_ite ?_ rfl fun _ => ?_
  · simp [State.stringFault, bits]
  clear_value c
  subst hc
  replace htaken : ∀ x, taken x = true ↔ _ := htaken
  clear_value taken
  cases hp : (StringCfg.ofImage b i).present with
  | false => exact firstFault_none fun p => by simp [State.stringFault, hp]
  | true =>
    rw [Bool.not_true, if_neg Bool.false_ne_true]
    refine firstFault_cons ?_ rfl (firstFault_cons ?_ rfl (firstFault_cons ?_ rfl (firstFault_cons ?_ rfl
      (firstFault_cons ?_ rfl (firstFault_cons ?_ rfl (firstFault_nil fun p => ?_))))))
    · simp [State.stringFault, hp]
    · rcases Nat.lt_or_ge 0xFE ((StringCfg.ofImage b i).cellBase.toNat + (StringCfg.ofImage b i).cells - 1) with hend | hend
      · simp [State.stringFault, hp, hend]
      · rw [Bool.or_eq_true, cellRange_any _ _ hend]
        simp [State.stringFault, hp, htaken]
    · simp [State.stringFault, hp, StringCfg.inCellRange, sh, htaken, or_assoc]
    · simp [State.stringFault, hp, StringCfg.inCellRange, sh, co, htaken, or_assoc]
    · simp [State.stringFault, hp, StringCfg.inCellRange, sh, co, ma, htaken, or_assoc]
    · simp [State.stringFault, hp]
    · simp [State.stringFault, hp]

theorem stringFault_lt {s : State} {b : List Byte} {i : Str} {j : Nat} (h : s.stringFault b i j) : j < 20 := by
  unfold State.stringFault at h
  omega

/-- The checks of a STRING image (R180). -/
theorem checkStrings_firstFault (s : State) (b : List Byte) :
    FirstFault (s.checkStrings b) (fun p => ∃ (i : Str) (j : Nat), p = 20 * i.val + j ∧ s.stringFault b i j) id := by
  refine (firstFault_findSome (o := fun i : Str => 20 * i.val) (w := 20) (by decide) (fun i _ j h => stringFault_lt h)
    fun i _ => checkString_firstFault s b i).congr fun p => ?_
  simp [mem_allStrs]

/-- The checks of a phase record (R45). -/
theorem checkPhase_firstFault (b : List Byte) (k : Nat) :
    FirstFault (checkPhase b (12 * k)) (phaseFault b k) fun n => 12 * k + [0, 1, 2, 4, 2, 1, 10].getD n 0 := by
  unfold checkPhase
  extract_lets p outside
  by_cases hused : field b (12 * k) 12 = 0
  · rw [if_pos (by simpa [phaseUnusedAt] using hused)]
    exact firstFault_none fun n h => h.1 hused
  · rw [if_neg (by simpa [phaseUnusedAt] using hused)]
    refine firstFault_cons ?_ rfl (firstFault_cons ?_ rfl (firstFault_cons ?_ rfl (firstFault_cons ?_ rfl
      (firstFault_cons ?_ rfl (firstFault_cons ?_ rfl (firstFault_cons ?_ rfl (firstFault_nil fun n => ?_)))))))
    all_goals simp [phaseFault, hused, p, outside]

theorem phaseFault_lt {b : List Byte} {k n : Nat} (h : phaseFault b k n) : n < 7 := by
  unfold phaseFault at h
  omega

/-- The checks of a PHASE image (R45). -/
theorem checkPhases_firstFault (b : List Byte) :
    FirstFault (checkPhases b) (fun p => ∃ k n, k < 16 ∧ p = 12 * k + n ∧ phaseFault b k n) (faultField .phase) := by
  refine (firstFault_findSome (o := fun k => 12 * k) (w := 12) (by decide)
    (fun k _ n h => (phaseFault_lt h).trans (by decide))
    fun k _ => (checkPhase_firstFault b k).congr_name fun n h => ?_).congr fun p => ?_
  · have hn := phaseFault_lt h
    rw [faultField, show (12 * k + n) / 12 = k by omega, show (12 * k + n) % 12 = n by omega]
  · simp

/-- One check of R48: the entry at hand, and those after it up to the first END. -/
theorem checkEntries_succ (b phases : List Byte) (r i n : Nat) :
    checkEntries b phases r i (n + 1) =
      let kind := u8 b (recipeOffset r i)
      let arg := u8 b (recipeOffset r i + 1)
      if kind = 0 then none
      else if 3 < kind ∨ (kind = 1 ∧ (arg = 0 ∨ 16 < arg ∨ field phases (12 * (arg - 1)) 12 = 0))
          ∨ (kind = 2 ∧ (arg = 0 ∨ 127 < arg)) then some (recipeOffset r i)
      else checkEntries b phases r (i + 1) n := by
  rw [checkEntries]
  dsimp only
  generalize u8 b (recipeOffset r i) = kind, u8 b (recipeOffset r i + 1) = arg
  have hunused : phaseUnused phases arg = true ↔ field phases (12 * (arg - 1)) 12 = 0 := by
    simp [phaseUnused, phaseUnusedAt, phaseOffset]
  match kind with
  | 0 => simp
  | 1 => simp [hunused]
  | 2 => simp
  | 3 => simp
  | k + 4 => simp

/-- The checks of a recipe's entries from index `i` on, none of those before it an END (R48). -/
theorem checkEntries_firstFault (b phases : List Byte) (r : Nat) :
    ∀ n i, (∀ j < i, u8 b (24 * r + 2 * j) ≠ 0) →
      FirstFault (checkEntries b phases (r + 1) i n)
        (fun p => ∃ k, i ≤ k ∧ k < i + n ∧ p = 2 * k ∧ recipeFault b phases r k) fun p => 24 * r + p := by
  intro n
  induction n with
  | zero => exact fun i _ => firstFault_none fun p ⟨k, h1, h2, _⟩ => by omega
  | succ n ih =>
    intro i hbefore
    rw [checkEntries_succ, show recipeOffset (r + 1) i = 24 * r + 2 * i from rfl]
    dsimp only
    by_cases hend : u8 b (24 * r + 2 * i) = 0
    · rw [if_pos hend]
      refine firstFault_none fun p ⟨k, hik, _, _, hnoEnd, hfault⟩ => ?_
      rcases Nat.eq_or_lt_of_le hik with rfl | hlt
      · simp [hend] at hfault
      · exact hnoEnd i hlt hend
    · rw [if_neg hend]
      split
      · next hfault =>
        refine .inr ⟨2 * i, ⟨i, le_rfl, by omega, rfl, hbefore, hfault⟩, ?_, rfl⟩
        rintro q hq ⟨k, hik, -, rfl, -⟩
        omega
      · next hgood =>
        refine (ih (i + 1) fun j hj => ?_).congr fun p => ⟨?_, ?_⟩
        · rcases Nat.lt_succ_iff_lt_or_eq.mp hj with hj | rfl
          · exact hbefore j hj
          · exact hend
        · rintro ⟨k, h1, h2, h3⟩
          exact ⟨k, by omega, by omega, h3⟩
        · rintro ⟨k, h1, h2, h3, hfault⟩
          have hne : k ≠ i := fun h => hgood (h ▸ hfault.2)
          exact ⟨k, by omega, by omega, h3, hfault⟩

/-- The checks of a RECIPE image (R48). -/
theorem checkRecipes_firstFault (b phases : List Byte) :
    FirstFault (checkRecipes b phases) (fun p => ∃ r i, r < 8 ∧ i < 12 ∧ p = 24 * r + 2 * i ∧ recipeFault b phases r i)
      id := by
  have hlist : [1, 2, 3, 4, 5, 6, 7, 8] = (List.range 8).map (· + 1) := rfl
  rw [checkRecipes, hlist, List.findSome?_map]
  refine (firstFault_findSome (o := fun r => 24 * r) (w := 24) (by decide) ?_
    fun r _ => checkEntries_firstFault b phases r 12 0 fun j hj => absurd hj (Nat.not_lt_zero j)).congr fun p => ?_
  · rintro r - j ⟨k, -, hk, rfl, -⟩
    omega
  · constructor
    · rintro ⟨r, hr, j, rfl, i, -, hi, rfl, hfault⟩
      exact ⟨r, i, List.mem_range.mp hr, by omega, rfl, hfault⟩
    · rintro ⟨r, i, hr, hi, rfl, hfault⟩
      exact ⟨r, List.mem_range.mpr hr, 2 * i, rfl, i, by omega, by omega, rfl, hfault⟩

/-- The checks of a Pass Table entry (R179). -/
theorem checkPassEntry_firstFault (b : List Byte) (e : Nat) :
    FirstFault
      (if 1 < u8 b (6 * e) then some (6 * e)
        else if u8 b (6 * e) = 0 then none
        else firstFail [
          (1 < bits (u8 b (6 * e + 2)) 1 0, 6 * e + 2),
          (2 < bits (u8 b (6 * e + 5)) 7 6
            || (bits (u8 b (6 * e + 5)) 7 6 == 2
              && (bits (u8 b (6 * e + 5)) 4 0 < 2 || 16 < bits (u8 b (6 * e + 5)) 4 0)), 6 * e + 5)])
      (passFault b e) fun j => 6 * e + j := by
  refine firstFault_ite (by simp [passFault]) rfl fun hflag => ?_
  by_cases hoff : u8 b (6 * e) = 0
  · rw [if_pos hoff]
    exact firstFault_none fun p => by simp [passFault, hoff]
  · rw [if_neg hoff]
    have hon : u8 b (6 * e) = 1 := by omega
    have hbyte := u8_lt b (6 * e + 5)
    have haction : bits (u8 b (6 * e + 5)) 7 6 = u8 b (6 * e + 5) / 64 := by unfold bits; omega
    have hcount : bits (u8 b (6 * e + 5)) 4 0 = u8 b (6 * e + 5) % 32 := by unfold bits; omega
    refine firstFault_skip ?_ (firstFault_cons ?_ rfl (firstFault_skip ?_ (firstFault_skip ?_
      (firstFault_cons ?_ rfl (firstFault_nil fun p => ?_)))))
    · simp [passFault]
    · simp [passFault, bits, hon]
    · simp [passFault]
    · simp [passFault]
    · simp only [Bool.or_eq_true, Bool.and_eq_true, decide_eq_true_eq, beq_iff_eq, haction, hcount, passFault, hon, true_and]
      omega
    · simp [passFault]

theorem passFault_lt {b : List Byte} {e j : Nat} (h : passFault b e j) : j < 6 := by
  unfold passFault at h
  omega

/-- The checks of a PASS image (R179). -/
theorem checkPass_firstFault (b : List Byte) :
    FirstFault (checkPass b) (fun p => ∃ e j, e < 16 ∧ p = 6 * e + j ∧ passFault b e j) id := by
  refine (firstFault_findSome (o := fun e => 6 * e) (w := 6) (by decide) (fun _ _ _ h => passFault_lt h)
    fun e _ => checkPassEntry_firstFault b e).congr fun p => ?_
  simp

/-- The check of an image names its first fault (R178). -/
theorem checkImage_firstFault (s : State) (t : TableId) (b : List Byte) :
    FirstFault (s.checkImage t b) (s.imageFault t b) (faultField t) := by
  cases t with
  | limits => exact checkLimits_firstFault s b
  | string => exact checkStrings_firstFault s b
  | phase => exact checkPhases_firstFault b
  | recipe => exact checkRecipes_firstFault b s.images.phase
  | pass => exact checkPass_firstFault b

end Sys2Proof.Machine

/-! ## The bytes of an image under a clamp (R46, R179, R180, R188) -/

namespace Sys2Proof.Machine

/-! ### A run of bytes -/

/-- The `n` bytes of an image from `off` on. -/
def bytesAt (b : List Byte) (off n : Nat) : List Byte := (b.drop off).take n

theorem getD_bytesAt (b : List Byte) {off n k : Nat} (h : k < n) : (bytesAt b off n).getD k 0 = b.getD (off + k) 0 := by
  simp [bytesAt, List.getElem?_take_of_lt h]

section
variable {b b' : List Byte} {off w o n : Nat}

/-- A byte inside a run that two images share. -/
theorem getD_eq_of_bytesAt (h : bytesAt b' off w = bytesAt b off w) (hlo : off ≤ o) (hhi : o < off + w) :
    b'.getD o 0 = b.getD o 0 := by
  have hk : o - off < w := by omega
  have ho : off + (o - off) = o := by omega
  rw [← ho, ← getD_bytesAt b' hk, ← getD_bytesAt b hk, h]

theorem u8_eq_of_bytesAt (h : bytesAt b' off w = bytesAt b off w) (hlo : off ≤ o) (hhi : o < off + w) : u8 b' o = u8 b o :=
  congrArg BitVec.toNat (getD_eq_of_bytesAt h hlo hhi)

/-- A field inside a run that two images share. -/
theorem field_eq_of_bytesAt (h : bytesAt b' off w = bytesAt b off w) (hlo : off ≤ o) (hhi : o + n ≤ off + w) :
    field b' o n = field b o n := by
  induction n with
  | zero => rfl
  | succ n ih => rw [field, field, ih (by omega), u8_eq_of_bytesAt h (by omega) (by omega)]

theorem sfield_eq_of_bytesAt (h : bytesAt b' off w = bytesAt b off w) (hlo : off ≤ o) (hhi : o + n ≤ off + w) :
    sfield b' o n = sfield b o n :=
  congrArg (signedOf n) (field_eq_of_bytesAt h hlo hhi)

end

/-- A field of an image, read from the run that it begins. -/
theorem field_bytesAt (b : List Byte) (off n : Nat) : field (bytesAt b off n) 0 n = field b off n := by
  have key : ∀ m ≤ n, field (bytesAt b off n) 0 m = field b off m := by
    intro m
    induction m with
    | zero => exact fun _ => rfl
    | succ m ih =>
      intro hm
      rw [field, field, ih (by omega), Nat.zero_add, u8, getD_bytesAt b (by omega)]
      rfl
  exact key n le_rfl

theorem field_one (b : List Byte) (off : Nat) : field b off 1 = u8 b off := by simp [field]

theorem field_lt (b : List Byte) (off : Nat) : ∀ n, field b off n < 256 ^ n
  | 0 => by simp [field]
  | n + 1 => by
    have hrest := field_lt b off n
    have hbyte := u8_lt b (off + n)
    rw [field, pow_succ]
    omega

/-! ### The bytes of a number (R188) -/

theorem length_bytesBE (n v : Nat) : (bytesBE n v).length = n := by
  induction n with
  | zero => rfl
  | succ n ih => rw [bytesBE, List.length_cons, ih]

theorem length_bytesSigned (n : Nat) (v : Int) : (bytesSigned n v).length = n := length_bytesBE n _

theorem u8_bytesBE (v : Nat) : ∀ {n k : Nat}, k < n → u8 (bytesBE n v) k = v / 256 ^ (n - 1 - k) % 256
  | n + 1, 0, _ => by simp [u8, bytesBE]
  | n + 1, k + 1, h => by
    rw [show n + 1 - 1 - (k + 1) = n - 1 - k by omega, ← u8_bytesBE v (Nat.lt_of_succ_lt_succ h)]
    simp [u8, bytesBE]

/-- The first `m` of the bytes of `v` read its high part. -/
theorem field_bytesBE_take (n v : Nat) : ∀ {m : Nat}, m ≤ n → field (bytesBE n v) 0 m = v / 256 ^ (n - m) % 256 ^ m
  | 0, _ => by simp [field, Nat.mod_one]
  | m + 1, h => by
    have hstep : v / 256 ^ (n - m) = v / 256 ^ (n - (m + 1)) / 256 := by
      rw [Nat.div_div_eq_div_mul, ← pow_succ, show n - (m + 1) + 1 = n - m by omega]
    rw [field, field_bytesBE_take n v (by omega), Nat.zero_add, u8_bytesBE v (by omega), hstep,
      show n - 1 - m = n - (m + 1) by omega, pow_succ', Nat.mod_mul]
    omega

/-- The bytes of a number read it back (R188). -/
theorem field_bytesBE (n v : Nat) : field (bytesBE n v) 0 n = v % 256 ^ n := by
  rw [field_bytesBE_take n v le_rfl, Nat.sub_self, pow_zero, Nat.div_one]

/-! ### Bytes put in place -/

section
variable {b new : List Byte} {off o n : Nat}

theorem length_putBytes (h : off + new.length ≤ b.length) : (putBytes b off new).length = b.length := by
  simp only [putBytes, List.length_append, List.length_take, List.length_drop]
  omega

/-- The bytes that stand apart from those put in place. -/
theorem bytesAt_putBytes_apart (h : off + new.length ≤ b.length) (hd : o + n ≤ off ∨ off + new.length ≤ o) :
    bytesAt (putBytes b off new) o n = bytesAt b o n := by
  refine List.ext_getElem? fun k => ?_
  simp only [bytesAt, putBytes, List.getElem?_take, List.getElem?_drop, List.getElem?_append, List.length_append,
    List.length_take]
  grind

theorem bytesAt_putBytes_self (h : off + new.length ≤ b.length) : bytesAt (putBytes b off new) off new.length = new := by
  have hoff : (b.take off).length = off := by rw [List.length_take]; omega
  rw [bytesAt, putBytes, List.append_assoc, List.drop_left' hoff, List.take_left]

/-- The field just put in place (R188). -/
theorem field_putBytes_bytesBE {v : Nat} (h : off + n ≤ b.length) (hv : v < 256 ^ n) :
    field (putBytes b off (bytesBE n v)) off n = v := by
  have hself := bytesAt_putBytes_self (b := b) (new := bytesBE n v) (off := off) (by rwa [length_bytesBE])
  rw [length_bytesBE] at hself
  rw [← field_bytesAt _ off, hself, field_bytesBE, Nat.mod_eq_of_lt hv]

theorem field_putBytes_bytesSigned {v : Nat} (h : off + n ≤ b.length) (hv : v < 256 ^ n) :
    field (putBytes b off (bytesSigned n v)) off n = v := by
  have hpow : (2 : Int) ^ (8 * n) = ((256 ^ n : Nat) : Int) := by rw [pow_mul]; norm_num
  have hbytes : bytesSigned n v = bytesBE n v := by
    rw [bytesSigned, hpow, ← Int.natCast_mod, Int.toNat_natCast, Nat.mod_eq_of_lt hv]
  rw [hbytes, field_putBytes_bytesBE h hv]

/-- A signed field of two bytes just put in place (R188). -/
theorem sfield_putBytes_bytesSigned {v : Int} (h : off + 2 ≤ b.length) (hlo : -32768 ≤ v) (hhi : v < 32768) :
    sfield (putBytes b off (bytesSigned 2 v)) off 2 = v := by
  rw [sfield, bytesSigned, field_putBytes_bytesBE h (by omega), signedOf]
  split <;> omega

end

/-! ### What stands outside a part of an image -/

/-- `b'` is `b` changed in no byte but the `w` from `off` on. -/
structure KeptOutside (off w : Nat) (b b' : List Byte) : Prop where
  length : b'.length = b.length
  kept : ∀ o n, o + n ≤ off ∨ off + w ≤ o → bytesAt b' o n = bytesAt b o n

section
variable {off w : Nat} {b b' b'' : List Byte}

theorem KeptOutside.refl : KeptOutside off w b b := ⟨rfl, fun _ _ _ => rfl⟩

theorem KeptOutside.field (h : KeptOutside off w b b') {o n : Nat} (hd : o + n ≤ off ∨ off + w ≤ o) :
    field b' o n = field b o n :=
  field_eq_of_bytesAt (h.kept o n hd) le_rfl le_rfl

theorem KeptOutside.sfield (h : KeptOutside off w b b') {o n : Nat} (hd : o + n ≤ off ∨ off + w ≤ o) :
    sfield b' o n = sfield b o n :=
  congrArg (signedOf n) (h.field hd)

theorem KeptOutside.getD (h : KeptOutside off w b b') {o : Nat} (hd : o < off ∨ off + w ≤ o) : b'.getD o 0 = b.getD o 0 :=
  getD_eq_of_bytesAt (h.kept o 1 hd) le_rfl (Nat.lt_succ_self o)

theorem KeptOutside.u8 (h : KeptOutside off w b b') {o : Nat} (hd : o < off ∨ off + w ≤ o) : u8 b' o = u8 b o :=
  congrArg BitVec.toNat (h.getD hd)

theorem keptOutside_putBytes {o : Nat} {new : List Byte} (hb : off + w ≤ b.length) (hlo : off ≤ o)
    (hhi : o + new.length ≤ off + w) : KeptOutside off w b (putBytes b o new) :=
  ⟨length_putBytes (by omega), fun _ _ hd => bytesAt_putBytes_apart (by omega) (by omega)⟩

end

section
variable {α : Type} {f : List Byte → α → List Byte} {o w : α → Nat} {N : Nat}

/-- Clamps of parts of an image, one after the other, leave what is outside all of them. -/
theorem foldl_kept (hf : ∀ b : List Byte, b.length = N → ∀ a, o a + w a ≤ N → KeptOutside (o a) (w a) b (f b a)) :
    ∀ {l : List α} {b : List Byte}, b.length = N → (∀ a ∈ l, o a + w a ≤ N) →
      (l.foldl f b).length = N ∧ ∀ off n, (∀ a ∈ l, off + n ≤ o a ∨ o a + w a ≤ off) →
        bytesAt (l.foldl f b) off n = bytesAt b off n
  | [], _, hb, _ => ⟨hb, fun _ _ _ => rfl⟩
  | a :: l, b, hb, hN => by
    have ha := hf b hb a (hN a List.mem_cons_self)
    obtain ⟨hlen, hkept⟩ := foldl_kept hf (ha.length.trans hb) fun x hx => hN x (List.mem_cons_of_mem _ hx)
    refine ⟨hlen, fun off n hd => ?_⟩
    rw [List.foldl_cons, hkept off n fun x hx => hd x (List.mem_cons_of_mem _ hx), ha.kept off n (hd a List.mem_cons_self)]

/-- The part of `a`, where the parts stand one behind the other, is what the clamp of `a` makes of it as loaded. -/
theorem foldl_part (hf : ∀ b : List Byte, b.length = N → ∀ a, o a + w a ≤ N → KeptOutside (o a) (w a) b (f b a)) {a : α} :
    ∀ {l : List α} {b : List Byte}, b.length = N → (∀ a ∈ l, o a + w a ≤ N) →
      (l.Pairwise fun a a' => o a + w a ≤ o a') → a ∈ l →
      ∃ m, m.length = N ∧ bytesAt m (o a) (w a) = bytesAt b (o a) (w a)
        ∧ bytesAt (l.foldl f b) (o a) (w a) = bytesAt (f m a) (o a) (w a)
  | [], _, _, _, _, ha => absurd ha List.not_mem_nil
  | x :: l, b, hb, hN, hord, ha => by
    obtain ⟨hlater, hord'⟩ := List.pairwise_cons.mp hord
    have hx := hf b hb x (hN x List.mem_cons_self)
    have hN' : ∀ a ∈ l, o a + w a ≤ N := fun y hy => hN y (List.mem_cons_of_mem _ hy)
    have hlen := hx.length.trans hb
    rcases List.mem_cons.mp ha with rfl | ha
    · exact ⟨b, hb, rfl, (foldl_kept hf hlen hN').2 _ _ fun y hy => .inl (hlater y hy)⟩
    · obtain ⟨m, hm, hsame, hpart⟩ := foldl_part hf hlen hN' hord' ha
      exact ⟨m, hm, hsame.trans (hx.kept _ _ (.inr (hlater a ha))), hpart⟩

end

/-! ## The clamps of LIMITS (R179) -/

theorem clampNat_eq {lo hi : Nat} (h : lo ≤ hi) (v : Nat) : clampNat v lo hi = brought v lo hi := by
  unfold clampNat brought
  split
  · omega
  · split <;> omega

theorem brought_lt {lo hi : Nat} (h : lo ≤ hi) (v : Nat) : brought v lo hi ≤ hi := by
  unfold brought
  omega

theorem clampInt_eq {lo hi : Int} (h : lo ≤ hi) (v : Int) : clampInt v lo hi = max lo (min v hi) := by
  unfold clampInt
  split
  · omega
  · split <;> omega

/-- What R179's table needs of a row: a range within the field, the field within the tuning fields of LIMITS. -/
def ClampRow.Fits (r : ClampRow) : Prop :=
  0 ≤ r.lo ∧ r.lo ≤ r.hi ∧ r.hi < 256 ^ r.n ∧ r.off + r.n ≤ 84

theorem limitsRanges_fit : ∀ r ∈ limitsRanges, r.Fits := by
  unfold ClampRow.Fits
  decide

theorem limitsRanges_ordered : limitsRanges.Pairwise fun r r' => r.off + r.n ≤ r'.off := by decide

theorem limitsRanges_apart : ∀ r ∈ limitsRanges, r.off + r.n ≤ 21 ∨ 25 ≤ r.off := by decide

theorem limitsSignedRanges_fit : ∀ r ∈ limitsSignedRanges,
    r.n = 2 ∧ -32768 ≤ r.lo ∧ r.lo ≤ r.hi ∧ r.hi < 32768 ∧ 21 ≤ r.off ∧ r.off + 2 ≤ 25 := by decide

theorem clampRow_apply_kept (r : ClampRow) {b : List Byte} (h : r.off + r.n ≤ b.length) :
    KeptOutside r.off r.n b (r.apply b) :=
  keptOutside_putBytes h le_rfl (by rw [length_bytesSigned])

theorem clampRow_applySigned_kept (r : ClampRow) {b : List Byte} (h : r.off + r.n ≤ b.length) :
    KeptOutside r.off r.n b (r.applySigned b) :=
  keptOutside_putBytes h le_rfl (by rw [length_bytesSigned])

theorem clampRow_apply_field {r : ClampRow} (hr : r.Fits) {b : List Byte} (hb : b.length = 96) :
    field (r.apply b) r.off r.n = brought (field b r.off r.n) r.lo.toNat r.hi.toNat := by
  obtain ⟨hlo, hle, hhi, hend⟩ := hr
  have hclamp : clampInt (field b r.off r.n) r.lo r.hi = (brought (field b r.off r.n) r.lo.toNat r.hi.toNat : Nat) := by
    rw [clampInt_eq hle]
    unfold brought
    omega
  have hlt : brought (field b r.off r.n) r.lo.toNat r.hi.toNat < 256 ^ r.n := by
    have hle' := brought_lt (show r.lo.toNat ≤ r.hi.toNat by omega) (field b r.off r.n)
    have hhi' : r.hi.toNat < 256 ^ r.n := by zify; rwa [Int.toNat_of_nonneg (hlo.trans hle)]
    omega
  rw [ClampRow.apply, hclamp, field_putBytes_bytesSigned (by omega) hlt]


theorem clampRow_applySigned_sfield {r : ClampRow} (hn : r.n = 2) (hlo : -32768 ≤ r.lo) (hle : r.lo ≤ r.hi) (hhi : r.hi < 32768)
    {b : List Byte} (hb : r.off + 2 ≤ b.length) :
    sfield (r.applySigned b) r.off r.n = max r.lo (min (sfield b r.off r.n) r.hi) := by
  rw [ClampRow.applySigned, clampInt_eq hle, hn, sfield_putBytes_bytesSigned hb (by omega) (by omega)]

/-- A LIMITS image with each unsigned tuning field brought into its own range. -/
def unsignedRanged (b : List Byte) : List Byte :=
  limitsRanges.foldl (fun b r => r.apply b) b

/-- A LIMITS image with each tuning field brought into its own range. -/
def rangedLimits (b : List Byte) : List Byte :=
  limitsSignedRanges.foldl (fun b r => r.applySigned b) (unsignedRanged b)

theorem clampLimits_eq (b : List Byte) : clampLimits b = adjustLimits (rangedLimits b) := rfl

section
variable {b : List Byte}

theorem unsignedRanged_kept (hb : b.length = 96) :
    (unsignedRanged b).length = 96 ∧ ∀ off n, (∀ r ∈ limitsRanges, off + n ≤ r.off ∨ r.off + r.n ≤ off) →
      bytesAt (unsignedRanged b) off n = bytesAt b off n :=
  foldl_kept (fun _ hb r hr => clampRow_apply_kept r (hr.trans hb.ge)) hb (by decide)

theorem rangedLimits_signed_kept (hb : b.length = 96) :
    (rangedLimits b).length = 96 ∧ ∀ off n, (∀ r ∈ limitsSignedRanges, off + n ≤ r.off ∨ r.off + r.n ≤ off) →
      bytesAt (rangedLimits b) off n = bytesAt (unsignedRanged b) off n :=
  foldl_kept (fun _ hb r hr => clampRow_applySigned_kept r (hr.trans hb.ge)) (unsignedRanged_kept hb).1 (by decide)

theorem rangedLimits_kept (hb : b.length = 96) :
    (rangedLimits b).length = 96 ∧ bytesAt (rangedLimits b) 0 6 = bytesAt b 0 6
      ∧ bytesAt (rangedLimits b) 84 12 = bytesAt b 84 12 := by
  obtain ⟨-, hkept⟩ := unsignedRanged_kept hb
  obtain ⟨hlen, hsigned⟩ := rangedLimits_signed_kept hb
  exact ⟨hlen, (hsigned 0 6 (by decide)).trans (hkept 0 6 (by decide)),
    (hsigned 84 12 (by decide)).trans (hkept 84 12 (by decide))⟩

theorem rangedLimits_field (hb : b.length = 96) :
    ∀ r ∈ limitsRanges, field (rangedLimits b) r.off r.n = brought (field b r.off r.n) r.lo.toNat r.hi.toNat := by
  intro r hr
  obtain ⟨m, hm, hloaded, hpart⟩ := foldl_part (fun _ hb (r : ClampRow) hr => clampRow_apply_kept r (hr.trans hb.ge)) hb
    (by decide) limitsRanges_ordered hr
  have hapart : ∀ x ∈ limitsSignedRanges, r.off + r.n ≤ x.off ∨ x.off + x.n ≤ r.off := by
    have hrow := limitsRanges_apart r hr
    simp only [limitsSignedRanges, List.forall_mem_cons]
    exact ⟨by omega, by omega, fun _ hnil => absurd hnil List.not_mem_nil⟩
  have hsame := ((rangedLimits_signed_kept hb).2 _ _ hapart).trans hpart
  rw [field_eq_of_bytesAt hsame le_rfl le_rfl, clampRow_apply_field (limitsRanges_fit r hr) hm,
    field_eq_of_bytesAt hloaded le_rfl le_rfl]

theorem rangedLimits_sfield (hb : b.length = 96) :
    ∀ r ∈ limitsSignedRanges, sfield (rangedLimits b) r.off r.n = max r.lo (min (sfield b r.off r.n) r.hi) := by
  intro r hr
  obtain ⟨hlen, hkept⟩ := unsignedRanged_kept hb
  obtain ⟨m, hm, hloaded, hpart⟩ := foldl_part (fun _ hb (r : ClampRow) hr => clampRow_applySigned_kept r (hr.trans hb.ge)) hlen
    (by decide) (by decide) hr
  obtain ⟨hn, hlo, hle, hhi, hfrom, hto⟩ := limitsSignedRanges_fit r hr
  have hapart : ∀ x ∈ limitsRanges, r.off + r.n ≤ x.off ∨ x.off + x.n ≤ r.off := fun x hx => by
    have hrow := limitsRanges_apart x hx
    omega
  rw [rangedLimits, sfield_eq_of_bytesAt hpart le_rfl le_rfl, clampRow_applySigned_sfield hn hlo hle hhi (by omega),
    sfield_eq_of_bytesAt (hloaded.trans (hkept _ _ hapart)) le_rfl le_rfl]

end

/-- The fields of LIMITS, each in its own range (R179). tach_debounce is given apart: a code above 1, brought to 1, becomes a flag
that the loaded record did not read. -/
def Limits.ranged (l : Limits) (debounce : Bool) : Limits :=
  { l with
    tRef := max 0 (min l.tRef 400), compK := brought l.compK 0 99, floatMv := brought l.floatMv 2100 2400
    gasMv := brought l.gasMv 2200 2600, cellCeilingMv := brought l.cellCeilingMv 2200 2700
    cellCutMv := brought l.cellCutMv 2250 2750
    iFloor := brought l.iFloor 10 1000, backoffSettleS := brought l.backoffSettleS 10 3600
    hotLimit := max 200 (min l.hotLimit 850), coldLimit := max (-400) (min l.coldLimit 150)
    staleS := brought l.staleS 5 600, staleAllow := brought l.staleAllow 0 12, gapMs := brought l.gapMs 500 10000
    fullCurrent := brought l.fullCurrent 0 1000, fullHoldMin := brought l.fullHoldMin 1 240
    dischargeCurrent := brought l.dischargeCurrent 10 3000, dischargeConfirmS := brought l.dischargeConfirmS 1 255
    dischargeHoldoffMin := brought l.dischargeHoldoffMin 0 1440, busLow := brought l.busLow 0 6500
    returnWindow := brought l.returnWindow 1 500, returnWaitMin := brought l.returnWaitMin 1 60
    contactorTimeoutS := brought l.contactorTimeoutS 1 60, orderRefreshS := brought l.orderRefreshS 1 60
    sourceWaitMin := brought l.sourceWaitMin 1 240, suspendMaxMin := brought l.suspendMaxMin 1 240
    genreqDelay := brought l.genreqDelay 0 255, genreqWidth := brought l.genreqWidth 1 255
    allowanceMin := brought l.allowanceMin 0 1440, fanBaseDuty := brought l.fanBaseDuty 0 15
    fanGasDuty := brought l.fanGasDuty 0 15, runOnMin := brought l.runOnMin 0 255
    fanMinRate := brought l.fanMinRate 1 255, fanFailS := brought l.fanFailS 1 120
    tachDebounce := debounce, silenceWarnMs := brought l.silenceWarnMs 100 60000
    silenceBlindS := brought l.silenceBlindS 1 3600, blindRepeatS := brought l.blindRepeatS 1 255
    reservoirCapacityMl := brought l.reservoirCapacityMl 0 1000000
    reservoirReserveMl := brought l.reservoirReserveMl 0 1000000
    flowX10 := brought l.flowX10 1 200, maxOpen := brought l.maxOpen 1 4, doseMaxMl := brought l.doseMaxMl 1 500
    doseMinMl := brought l.doseMinMl 1 255, waterDueMl := brought l.waterDueMl 1 999
    groupGapS := brought l.groupGapS 0 255, confirmMin := brought l.confirmMin 1 255
    waterWaitMaxMin := brought l.waterWaitMaxMin 1 255, directMaxMin := brought l.directMaxMin 1 1440
    holdoffMin := brought l.holdoffMin 0 1440 }

section
variable {b b' : List Byte}

theorem ofImage_rangedLimits (hb : b.length = 96) :
    Limits.ofImage (rangedLimits b) = (Limits.ofImage b).ranged (decide (u8 b 56 ≠ 0)) := by
  obtain ⟨-, hhead, -⟩ := rangedLimits_kept hb
  have hrow := rangedLimits_field hb
  have hsigned := rangedLimits_sfield hb
  simp only [limitsRanges, limitsSignedRanges, List.forall_mem_cons, field_one, Int.reduceToNat, Int.toNat_zero,
    Int.toNat_one] at hrow hsigned
  have haddr : ∀ k, k < 6 → (rangedLimits b).getD k 0 = b.getD k 0 := fun k hk =>
    getD_eq_of_bytesAt hhead (Nat.zero_le k) (by omega)
  have hcode : ∀ k, k < 6 → u8 (rangedLimits b) k = u8 b k := fun k hk => congrArg BitVec.toNat (haddr k hk)
  have htRef : ((brought (field b 6 2) 0 400 : Nat) : Int) = max 0 (min (field b 6 2 : Int) 400) := by
    unfold brought
    omega
  have hdebounce : (brought (u8 b 56) 0 1 == 1) = decide (u8 b 56 ≠ 0) := by
    rw [Bool.beq_eq_decide_eq, decide_eq_decide]
    unfold brought
    omega
  simp (disch := omega) only [Limits.ofImage, Limits.ranged, haddr, hcode, hrow, hsigned, htRef, hdebounce]

theorem ofImage_of_keptOutside_cut (h : KeptOutside 15 2 b b') :
    Limits.ofImage b' = { Limits.ofImage b with cellCutMv := field b' 15 2 } := by
  simp (disch := omega) only [Limits.ofImage, h.field, h.sfield, h.u8, h.getD]

theorem ofImage_of_keptOutside_reserve (h : KeptOutside 66 4 b b') :
    Limits.ofImage b' = { Limits.ofImage b with reservoirReserveMl := field b' 66 4 } := by
  simp (disch := omega) only [Limits.ofImage, h.field, h.sfield, h.u8, h.getD]

/-- cell_cut_mv as it stands above the ceiling (R179). -/
def raiseCut (b : List Byte) : List Byte :=
  if field b 15 2 ≤ field b 13 2 then putBytes b 15 (bytesBE 2 (field b 13 2 + 50)) else b

/-- The reserve as it stands within the capacity (R179). -/
def lowerReserve (b : List Byte) : List Byte :=
  if field b 62 4 < field b 66 4 then putBytes b 66 (bytesBE 4 (field b 62 4)) else b

theorem adjustLimits_eq (b : List Byte) : adjustLimits b = lowerReserve (raiseCut b) := rfl

theorem raiseCut_kept (hb : b.length = 96) : KeptOutside 15 2 b (raiseCut b) := by
  unfold raiseCut
  split
  · exact keptOutside_putBytes (by omega) le_rfl (by rw [length_bytesBE])
  · exact .refl

theorem lowerReserve_kept (hb : b.length = 96) : KeptOutside 66 4 b (lowerReserve b) := by
  unfold lowerReserve
  split
  · exact keptOutside_putBytes (by omega) le_rfl (by rw [length_bytesBE])
  · exact .refl

theorem field_raiseCut (hb : b.length = 96) (hceiling : field b 13 2 ≤ 2700) :
    field (raiseCut b) 15 2 = if field b 15 2 ≤ field b 13 2 then field b 13 2 + 50 else field b 15 2 := by
  unfold raiseCut
  split
  · exact field_putBytes_bytesBE (by omega) (by omega)
  · rfl

theorem field_lowerReserve (hb : b.length = 96) : field (lowerReserve b) 66 4 = min (field b 66 4) (field b 62 4) := by
  unfold lowerReserve
  split
  · next h => rw [field_putBytes_bytesBE (by omega) (field_lt b 62 4), min_eq_right h.le]
  · next h => exact (min_eq_left (not_lt.mp h)).symm

theorem ofImage_adjustLimits (hb : b.length = 96) (hceiling : (Limits.ofImage b).cellCeilingMv ≤ 2700) :
    Limits.ofImage (adjustLimits b) = { Limits.ofImage b with
      cellCutMv := if (Limits.ofImage b).cellCutMv ≤ (Limits.ofImage b).cellCeilingMv then
        (Limits.ofImage b).cellCeilingMv + 50 else (Limits.ofImage b).cellCutMv
      reservoirReserveMl := min (Limits.ofImage b).reservoirReserveMl (Limits.ofImage b).reservoirCapacityMl } := by
  have hraise := raiseCut_kept hb
  have hlen := hraise.length.trans hb
  rw [adjustLimits_eq, ofImage_of_keptOutside_reserve (lowerReserve_kept hlen), ofImage_of_keptOutside_cut hraise,
    field_lowerReserve hlen, field_raiseCut hb hceiling, hraise.field (by omega), hraise.field (by omega)]
  rfl

theorem clampLimits_kept (hb : b.length = 96) :
    (clampLimits b).length = 96 ∧ bytesAt (clampLimits b) 84 12 = bytesAt b 84 12 := by
  obtain ⟨hlen, -, htail⟩ := rangedLimits_kept hb
  have hraise := raiseCut_kept hlen
  have hlower := lowerReserve_kept (hraise.length.trans hlen)
  rw [clampLimits_eq, adjustLimits_eq]
  exact ⟨hlower.length.trans (hraise.length.trans hlen),
    (hlower.kept 84 12 (by omega)).trans ((hraise.kept 84 12 (by omega)).trans htail)⟩

/-- The clamps of LIMITS: each field in its own range, then the cut above the ceiling and the reserve within the capacity
(R179). -/
theorem ofImage_clampLimits (hb : b.length = 96) {l : Limits} (hl : l = (Limits.ofImage b).ranged (decide (u8 b 56 ≠ 0))) :
    Limits.ofImage (clampLimits b) = { l with
      cellCutMv := if l.cellCutMv ≤ l.cellCeilingMv then l.cellCeilingMv + 50 else l.cellCutMv
      reservoirReserveMl := min l.reservoirReserveMl l.reservoirCapacityMl } := by
  have hranged := (ofImage_rangedLimits hb).trans hl.symm
  have hceiling : l.cellCeilingMv ≤ 2700 := by rw [hl]; exact brought_lt (by decide) _
  rw [clampLimits_eq, ofImage_adjustLimits (rangedLimits_kept hb).1 (by rwa [hranged]), hranged]

end

end Sys2Proof.Machine

/-! ## The clamps of STRING (R180, R190) -/

namespace Sys2Proof.Machine

/-! ### Fields put in place one after the other -/

/-- The `n` bytes of `v` to be put in place from `off` on. -/
structure FieldPut where
  off : Nat
  n : Nat
  v : Nat

def FieldPut.put (b : List Byte) (p : FieldPut) : List Byte := putBytes b p.off (bytesBE p.n p.v)

theorem FieldPut.put_kept {b : List Byte} {p : FieldPut} (h : p.off + p.n ≤ b.length) :
    KeptOutside p.off p.n b (p.put b) :=
  keptOutside_putBytes h le_rfl (by rw [length_bytesBE])

section
variable {b : List Byte} {l : List FieldPut}

theorem foldl_put_kept {off w : Nat} (hb : off + w ≤ b.length) (hl : ∀ p ∈ l, off ≤ p.off ∧ p.off + p.n ≤ off + w) :
    KeptOutside off w b (l.foldl FieldPut.put b) := by
  obtain ⟨hlen, hkept⟩ := foldl_kept (N := b.length) (o := FieldPut.off) (w := FieldPut.n) (l := l)
    (fun _ hb _ hp => FieldPut.put_kept (hp.trans hb.ge)) rfl fun p hp => (hl p hp).2.trans hb
  exact ⟨hlen, fun o n hd => hkept o n fun p hp => by have := hl p hp; omega⟩

theorem foldl_put_field (hb : ∀ p ∈ l, p.off + p.n ≤ b.length) (hv : ∀ p ∈ l, p.v < 256 ^ p.n)
    (hord : l.Pairwise fun p q => p.off + p.n ≤ q.off) : ∀ p ∈ l, field (l.foldl FieldPut.put b) p.off p.n = p.v := by
  intro p hp
  obtain ⟨m, hm, -, hpart⟩ := foldl_part (N := b.length) (o := FieldPut.off) (w := FieldPut.n)
    (fun _ hb _ hp => FieldPut.put_kept (hp.trans hb.ge)) rfl hb hord hp
  rw [field_eq_of_bytesAt hpart le_rfl le_rfl, FieldPut.put, field_putBytes_bytesBE (by rw [hm]; exact hb p hp) (hv p hp)]

theorem foldl_put_apart {o n : Nat} (hb : ∀ p ∈ l, p.off + p.n ≤ b.length)
    (hd : ∀ p ∈ l, o + n ≤ p.off ∨ p.off + p.n ≤ o) : bytesAt (l.foldl FieldPut.put b) o n = bytesAt b o n :=
  (foldl_kept (N := b.length) (o := FieldPut.off) (w := FieldPut.n)
    (fun _ hb _ hp => FieldPut.put_kept (hp.trans hb.ge)) rfl hb).2 o n hd

end

/-! ### The entry of a string -/

theorem clampOrZero_eq {lo hi : Nat} (h : lo ≤ hi) (v : Nat) : clampOrZero v lo hi = if v = 0 then 0 else brought v lo hi := by
  rw [clampOrZero, clampNat_eq h]

theorem bits_lt (v hi lo : Nat) : bits v hi lo < 2 ^ (hi + 1 - lo) := Nat.mod_lt _ (Nat.two_pow_pos _)

/-- The tuning fields of a present STRING entry, each in its range (R180). -/
def StringCfg.ranged (c : StringCfg) : StringCfg :=
  { c with
    etaPct := brought c.etaPct 80 100, autoRecipe := brought c.autoRecipe 1 8
    probeMask := c.probeMask % 2 ^ c.cells, dueDays := brought c.dueDays 0 365
    spreadMv := if c.spreadMv = 0 then 0 else brought c.spreadMv 10 500
    spreadMin := brought c.spreadMin 1 1440
    throughputPct := if c.throughputPct = 0 then 0 else brought c.throughputPct 50 2000 }

/-- The fields of the entry `c` at `off` that hold tuning values, as they are packed (R190). -/
def StringCfg.packed (c : StringCfg) (flags off : Nat) : List FieldPut :=
  [⟨off, 1, flags + 8 * (c.etaPct - 80)⟩, ⟨off + 6, 2, 16 * c.capacityAh + c.autoRecipe⟩, ⟨off + 12, 3, c.probeMask⟩,
    ⟨off + 15, 5, c.dueDays * 2 ^ 31 + c.spreadMv * 2 ^ 22 + c.spreadMin * 2 ^ 11 + c.throughputPct⟩]

section
variable {b : List Byte} {off : Nat}

theorem clampString_present (hp : (StringCfg.ofEntry b off).present = true) :
    clampString b off = ((StringCfg.ofEntry b off).ranged.packed (bits (u8 b off) 2 0) off).foldl FieldPut.put b := by
  unfold clampString
  dsimp only
  rw [hp, Bool.not_true, if_neg Bool.false_ne_true]
  simp only [clampNat_eq, clampOrZero_eq, Nat.reduceLeDiff, StringCfg.packed, StringCfg.ranged, List.foldl_cons,
    List.foldl_nil, FieldPut.put]

theorem clampString_absent (hp : (StringCfg.ofEntry b off).present = false) : clampString b off = b := by
  unfold clampString
  dsimp only
  rw [hp, Bool.not_false, if_pos rfl]

theorem packedString_within (c : StringCfg) (flags off : Nat) :
    ∀ p ∈ c.packed flags off, off ≤ p.off ∧ p.off + p.n ≤ off + 20 := by
  simp [StringCfg.packed]

theorem packedString_ordered (c : StringCfg) (flags off : Nat) :
    (c.packed flags off).Pairwise fun p q => p.off + p.n ≤ q.off := by
  simp [StringCfg.packed]

theorem clampString_kept (h : off + 20 ≤ b.length) : KeptOutside off 20 b (clampString b off) := by
  cases hp : (StringCfg.ofEntry b off).present with
  | false => rw [clampString_absent hp]; exact .refl
  | true => rw [clampString_present hp]; exact foldl_put_kept h (packedString_within _ _ _)

end

theorem StringCfg.ranged_bounds (c : StringCfg) :
    80 ≤ c.ranged.etaPct ∧ c.ranged.etaPct ≤ 100 ∧ c.ranged.autoRecipe ≤ 8 ∧ c.ranged.dueDays ≤ 365
      ∧ c.ranged.spreadMv ≤ 500 ∧ c.ranged.spreadMin ≤ 1440 ∧ c.ranged.throughputPct ≤ 2000 := by
  have hzero : ∀ v lo hi : Nat, lo ≤ hi → (if v = 0 then 0 else brought v lo hi) ≤ hi := fun v lo hi h => by
    split
    · exact Nat.zero_le hi
    · exact brought_lt h v
  exact ⟨Nat.le_max_left _ _, brought_lt (by decide) _, brought_lt (by decide) _, brought_lt (by decide) _,
    hzero _ _ _ (by decide), brought_lt (by decide) _, hzero _ _ _ (by decide)⟩

/-- The fields that the layout itself bounds (11.4). -/
theorem ofEntry_ranged_bounds (b : List Byte) (off : Nat) :
    (StringCfg.ofEntry b off).ranged.capacityAh < 4096 ∧ (StringCfg.ofEntry b off).ranged.probeMask < 16777216 :=
  ⟨bits_lt _ 15 4, (Nat.mod_le _ _).trans_lt (field_lt b (off + 12) 3)⟩

section
variable {b : List Byte} {off : Nat}

theorem packedString_lt (b : List Byte) (off : Nat) :
    ∀ p ∈ (StringCfg.ofEntry b off).ranged.packed (bits (u8 b off) 2 0) off, p.v < 256 ^ p.n := by
  obtain ⟨-, heta, hrecipe, hdays, hmv, hmin, hpct⟩ := (StringCfg.ofEntry b off).ranged_bounds
  obtain ⟨hcap, hmask⟩ := ofEntry_ranged_bounds b off
  have hflags := bits_lt (u8 b off) 2 0
  simp only [StringCfg.packed, List.forall_mem_cons, Nat.reducePow]
  exact ⟨by omega, by omega, by omega, by omega, fun _ hnil => absurd hnil List.not_mem_nil⟩

/-- The bytes of a present entry after its clamp: the packed fields, and the bytes between them as loaded. -/
theorem clampString_fields (h : off + 20 ≤ b.length) (hp : (StringCfg.ofEntry b off).present = true) {c : StringCfg}
    (hc : c = (StringCfg.ofEntry b off).ranged) :
    u8 (clampString b off) off = bits (u8 b off) 2 0 + 8 * (c.etaPct - 80)
      ∧ bytesAt (clampString b off) (off + 1) 5 = bytesAt b (off + 1) 5
      ∧ field (clampString b off) (off + 6) 2 = 16 * c.capacityAh + c.autoRecipe
      ∧ bytesAt (clampString b off) (off + 8) 4 = bytesAt b (off + 8) 4
      ∧ field (clampString b off) (off + 12) 3 = c.probeMask
      ∧ field (clampString b off) (off + 15) 5
        = c.dueDays * 2 ^ 31 + c.spreadMv * 2 ^ 22 + c.spreadMin * 2 ^ 11 + c.throughputPct := by
  subst hc
  have hend : ∀ p ∈ (StringCfg.ofEntry b off).ranged.packed (bits (u8 b off) 2 0) off, p.off + p.n ≤ b.length :=
    fun p hp => (packedString_within _ _ _ p hp).2.trans h
  have hput := foldl_put_field hend (packedString_lt b off) (packedString_ordered _ _ _)
  rw [clampString_present hp]
  simp only [StringCfg.packed, List.forall_mem_cons, field_one] at hput
  obtain ⟨hflags, hcap, hmask, hdue, -⟩ := hput
  exact ⟨hflags, foldl_put_apart hend (by simp [StringCfg.packed]), hcap, foldl_put_apart hend (by simp [StringCfg.packed]),
    hmask, hdue⟩

/-- The clamp of a present entry (R180, R190). -/
theorem ofEntry_clampString (h : off + 20 ≤ b.length) (hp : (StringCfg.ofEntry b off).present = true) :
    StringCfg.ofEntry (clampString b off) off = (StringCfg.ofEntry b off).ranged := by
  obtain ⟨hflags, haddr, hcap, hoffset, hmask, hdue⟩ := clampString_fields h hp rfl
  obtain ⟨heta, heta', hrecipe, hdays, hmv, hmin, hpct⟩ := (StringCfg.ofEntry b off).ranged_bounds
  have hah := (ofEntry_ranged_bounds b off).1
  have hpresent : bits (u8 (clampString b off) off) 1 0 = bits (u8 b off) 1 0 := by
    rw [hflags]; unfold bits; omega
  have hwater : bit (u8 (clampString b off) off) 2 = bit (u8 b off) 2 := by
    have hbit : u8 (clampString b off) off / 2 ^ 2 % 2 = u8 b off / 2 ^ 2 % 2 := by rw [hflags]; unfold bits; omega
    rw [bit, hbit, bit]
  have hetaPct : 80 + bits (u8 (clampString b off) off) 7 3 = (StringCfg.ofEntry b off).ranged.etaPct := by
    rw [hflags]; unfold bits; omega
  have hcapacity : bits (field (clampString b off) (off + 6) 2) 15 4 = (StringCfg.ofEntry b off).ranged.capacityAh := by
    rw [hcap]; unfold bits; omega
  have hauto : bits (field (clampString b off) (off + 6) 2) 3 0 = (StringCfg.ofEntry b off).ranged.autoRecipe := by
    rw [hcap]; unfold bits; omega
  have hdueDays : bits (field (clampString b off) (off + 15) 5) 39 31 = (StringCfg.ofEntry b off).ranged.dueDays := by
    rw [hdue]; unfold bits; omega
  have hspreadMv : bits (field (clampString b off) (off + 15) 5) 30 22 = (StringCfg.ofEntry b off).ranged.spreadMv := by
    rw [hdue]; unfold bits; omega
  have hspreadMin : bits (field (clampString b off) (off + 15) 5) 21 11 = (StringCfg.ofEntry b off).ranged.spreadMin := by
    rw [hdue]; unfold bits; omega
  have hthroughput : bits (field (clampString b off) (off + 15) 5) 10 0 = (StringCfg.ofEntry b off).ranged.throughputPct := by
    rw [hdue]; unfold bits; omega
  have hcells : u8 (clampString b off) (off + 1) = u8 b (off + 1) := u8_eq_of_bytesAt haddr le_rfl (by omega)
  have hcode : ∀ o, off + 1 ≤ o → o < off + 6 → (clampString b off).getD o 0 = b.getD o 0 := fun o h1 h2 =>
    getD_eq_of_bytesAt haddr h1 (by omega)
  have hsigned : ∀ o, off + 8 ≤ o → o < off + 12 → sfield (clampString b off) o 1 = sfield b o 1 := fun o h1 h2 =>
    sfield_eq_of_bytesAt hoffset h1 (by omega)
  rw [StringCfg.ofEntry]
  simp (disch := omega) only [hpresent, hwater, hetaPct, hcapacity, hauto, hmask, hdueDays, hspreadMv, hspreadMin,
    hthroughput, hcells, hcode, hsigned]
  rfl

theorem ofEntry_string_congr {b' : List Byte} (h : bytesAt b' off 20 = bytesAt b off 20) :
    StringCfg.ofEntry b' off = StringCfg.ofEntry b off := by
  have hfield : ∀ o n, off ≤ o → o + n ≤ off + 20 → field b' o n = field b o n := fun _ _ => field_eq_of_bytesAt h
  have hsigned : ∀ o n, off ≤ o → o + n ≤ off + 20 → sfield b' o n = sfield b o n := fun _ _ => sfield_eq_of_bytesAt h
  have hcode : ∀ o, off ≤ o → o < off + 20 → b'.getD o 0 = b.getD o 0 := fun _ => getD_eq_of_bytesAt h
  have hu8 : ∀ o, off ≤ o → o < off + 20 → u8 b' o = u8 b o := fun _ => u8_eq_of_bytesAt h
  simp (disch := omega) only [StringCfg.ofEntry, hfield, hsigned, hcode, hu8]

end

/-! ### The image -/

section
variable {b : List Byte}

theorem length_clampStrings (hb : b.length = 160) : (clampStrings b).length = 160 :=
  (foldl_kept (o := fun i : Str => 20 * i.val) (w := fun _ => 20)
    (fun _ hb _ hi => clampString_kept (hi.trans hb.ge)) hb (by decide)).1

/-- The entry of a string is what its own clamp makes of it as loaded. -/
theorem clampStrings_entry (hb : b.length = 160) (i : Str) :
    ∃ m, 20 * i.val + 20 ≤ m.length ∧ bytesAt m (20 * i.val) 20 = bytesAt b (20 * i.val) 20
      ∧ bytesAt (clampStrings b) (20 * i.val) 20 = bytesAt (clampString m (20 * i.val)) (20 * i.val) 20 := by
  obtain ⟨m, hm, hloaded, hpart⟩ := foldl_part (o := fun i : Str => 20 * i.val) (w := fun _ => 20)
    (fun _ hb _ hi => clampString_kept (hi.trans hb.ge)) hb (by decide) (by decide) (mem_allStrs i)
  exact ⟨m, by omega, hloaded, hpart⟩

theorem clampStrings_absent (hb : b.length = 160) {i : Str} (hp : (StringCfg.ofImage b i).present = false) :
    bytesAt (clampStrings b) (20 * i.val) 20 = bytesAt b (20 * i.val) 20 := by
  obtain ⟨m, -, hloaded, hpart⟩ := clampStrings_entry hb i
  rw [hpart, clampString_absent (by rw [ofEntry_string_congr hloaded]; exact hp), hloaded]

theorem clampStrings_present (hb : b.length = 160) {i : Str} (hp : (StringCfg.ofImage b i).present = true) :
    StringCfg.ofImage (clampStrings b) i = (StringCfg.ofImage b i).ranged := by
  obtain ⟨m, hm, hloaded, hpart⟩ := clampStrings_entry hb i
  have hcfg := ofEntry_string_congr hloaded
  rw [StringCfg.ofImage, ofEntry_string_congr hpart, ofEntry_clampString hm (by rw [hcfg]; exact hp), hcfg]
  rfl

end

end Sys2Proof.Machine

/-! ## The clamps of PHASE (R46) -/

namespace Sys2Proof.Machine

/-! ### A phase record -/

/-- The tuning fields of a used PHASE record, each in its range (R46). -/
def PhaseRec.ranged (p : PhaseRec) : PhaseRec :=
  { p with
    iSet := brought p.iSet 0 3000, durationMin := brought p.durationMin 1 1440
    critValue := match p.criterion with
      | .none => 0
      | .taper => brought p.critValue 0 3000
      | .spread => brought p.critValue 0 500
    critHoldMin := if p.criterion = .none then 0 else brought p.critHoldMin 1 240 }

/-- The fields of the record `p` at `off` that hold tuning values, as they are packed (11.4). -/
def PhaseRec.packed (p : PhaseRec) (off : Nat) : List FieldPut :=
  [⟨off + 4, 3, p.vMax * 4096 + p.iSet⟩, ⟨off + 7, 3, p.durationMin * 4096 + p.critValue⟩, ⟨off + 11, 1, p.critHoldMin⟩]

theorem PhaseRec.ranged_bounds (p : PhaseRec) :
    p.ranged.iSet ≤ 3000 ∧ p.ranged.durationMin ≤ 1440 ∧ p.ranged.critValue ≤ 3000 ∧ p.ranged.critHoldMin ≤ 240 := by
  refine ⟨brought_lt (by decide) _, brought_lt (by decide) _, ?_, ?_⟩
  · unfold PhaseRec.ranged brought
    dsimp only
    split <;> omega
  · unfold PhaseRec.ranged brought
    dsimp only
    split <;> omega

section
variable {b : List Byte} {off : Nat}

theorem clampPhase_used (hu : field b off 12 ≠ 0) :
    clampPhase b off = ((PhaseRec.ofEntry b off).ranged.packed off).foldl FieldPut.put b := by
  unfold clampPhase
  dsimp only
  rw [if_neg (by simpa [phaseUnusedAt] using hu)]
  simp only [PhaseRec.packed, PhaseRec.ranged, List.foldl_cons, List.foldl_nil, FieldPut.put]
  cases (PhaseRec.ofEntry b off).criterion <;> simp [clampNat_eq, brought]

theorem clampPhase_unused (hu : field b off 12 = 0) : clampPhase b off = b := by
  unfold clampPhase
  dsimp only
  rw [if_pos (by simpa [phaseUnusedAt] using hu)]

theorem packedPhase_within (p : PhaseRec) (off : Nat) :
    ∀ q ∈ p.packed off, off ≤ q.off ∧ q.off + q.n ≤ off + 12 := by
  simp [PhaseRec.packed]

theorem clampPhase_kept (h : off + 12 ≤ b.length) : KeptOutside off 12 b (clampPhase b off) := by
  by_cases hu : field b off 12 = 0
  · rw [clampPhase_unused hu]; exact .refl
  · rw [clampPhase_used hu]; exact foldl_put_kept h (packedPhase_within _ _)

theorem packedPhase_lt (b : List Byte) (off : Nat) : ∀ q ∈ (PhaseRec.ofEntry b off).ranged.packed off, q.v < 256 ^ q.n := by
  obtain ⟨hiSet, hduration, hvalue, hhold⟩ := (PhaseRec.ofEntry b off).ranged_bounds
  have hvMax : (PhaseRec.ofEntry b off).ranged.vMax < 4096 := bits_lt _ 23 12
  simp only [PhaseRec.packed, List.forall_mem_cons, Nat.reducePow]
  exact ⟨by omega, by omega, by omega, fun _ hnil => absurd hnil List.not_mem_nil⟩

/-- The clamp of a used record (R46). -/
theorem ofEntry_clampPhase (h : off + 12 ≤ b.length) (hu : field b off 12 ≠ 0) :
    PhaseRec.ofEntry (clampPhase b off) off = (PhaseRec.ofEntry b off).ranged := by
  have hend : ∀ q ∈ (PhaseRec.ofEntry b off).ranged.packed off, q.off + q.n ≤ b.length :=
    fun q hq => (packedPhase_within _ _ q hq).2.trans h
  have hput := foldl_put_field hend (packedPhase_lt b off) (by simp [PhaseRec.packed])
  have hhead : bytesAt (clampPhase b off) off 4 = bytesAt b off 4 := by
    rw [clampPhase_used hu]
    exact foldl_put_apart hend (by simp [PhaseRec.packed])
  have hcriterion : bytesAt (clampPhase b off) (off + 10) 1 = bytesAt b (off + 10) 1 := by
    rw [clampPhase_used hu]
    exact foldl_put_apart hend (by simp [PhaseRec.packed])
  rw [← clampPhase_used hu] at hput
  simp only [PhaseRec.packed, List.forall_mem_cons, field_one] at hput
  obtain ⟨hfirst, hsecond, hhold, -⟩ := hput
  obtain ⟨hiSet, hduration, hvalue, -⟩ := (PhaseRec.ofEntry b off).ranged_bounds
  have hmax : (PhaseRec.ofEntry b off).ranged.vMax < 4096 := bits_lt _ 23 12
  have hcls : u8 (clampPhase b off) off = u8 b off := u8_eq_of_bytesAt hhead le_rfl (by omega)
  have hvolts : field (clampPhase b off) (off + 1) 3 = field b (off + 1) 3 := field_eq_of_bytesAt hhead (by omega) (by omega)
  have hkind : u8 (clampPhase b off) (off + 10) = u8 b (off + 10) := u8_eq_of_bytesAt hcriterion le_rfl (by omega)
  have hvMax : bits (field (clampPhase b off) (off + 4) 3) 23 12 = (PhaseRec.ofEntry b off).ranged.vMax := by
    rw [hfirst]; unfold bits; omega
  have hiSet' : bits (field (clampPhase b off) (off + 4) 3) 11 0 = (PhaseRec.ofEntry b off).ranged.iSet := by
    rw [hfirst]; unfold bits; omega
  have hminutes : bits (field (clampPhase b off) (off + 7) 3) 23 12 = (PhaseRec.ofEntry b off).ranged.durationMin := by
    rw [hsecond]; unfold bits; omega
  have hcrit : bits (field (clampPhase b off) (off + 7) 3) 11 0 = (PhaseRec.ofEntry b off).ranged.critValue := by
    rw [hsecond]; unfold bits; omega
  rw [PhaseRec.ofEntry, hcls, hvolts, hkind, hvMax, hiSet', hminutes, hcrit, hhold]
  rfl

theorem ofEntry_phase_congr {b' : List Byte} (h : bytesAt b' off 12 = bytesAt b off 12) :
    PhaseRec.ofEntry b' off = PhaseRec.ofEntry b off := by
  have hfield : ∀ o n, off ≤ o → o + n ≤ off + 12 → field b' o n = field b o n := fun _ _ => field_eq_of_bytesAt h
  have hu8 : ∀ o, off ≤ o → o < off + 12 → u8 b' o = u8 b o := fun _ => u8_eq_of_bytesAt h
  simp (disch := omega) only [PhaseRec.ofEntry, hfield, hu8]

end

/-! ### The image -/

section
variable {b : List Byte} {k : Nat}

theorem length_clampPhases (hb : b.length = 192) : (clampPhases b).length = 192 :=
  (foldl_kept (o := fun k => 12 * k) (w := fun _ => 12) (fun _ hb _ hk => clampPhase_kept (hk.trans hb.ge)) hb (by decide)).1

/-- A record is what its own clamp makes of it as loaded. -/
theorem clampPhases_entry (hb : b.length = 192) (hk : k < 16) :
    ∃ m, 12 * k + 12 ≤ m.length ∧ bytesAt m (12 * k) 12 = bytesAt b (12 * k) 12
      ∧ bytesAt (clampPhases b) (12 * k) 12 = bytesAt (clampPhase m (12 * k)) (12 * k) 12 := by
  obtain ⟨m, hm, hloaded, hpart⟩ := foldl_part (o := fun k => 12 * k) (w := fun _ => 12)
    (fun _ hb _ hk => clampPhase_kept (hk.trans hb.ge)) hb (by decide) (by decide) (List.mem_range.mpr hk)
  exact ⟨m, by omega, hloaded, hpart⟩

theorem clampPhases_unused (hb : b.length = 192) (hk : k < 16) (hu : field b (12 * k) 12 = 0) :
    bytesAt (clampPhases b) (12 * k) 12 = bytesAt b (12 * k) 12 := by
  obtain ⟨m, -, hloaded, hpart⟩ := clampPhases_entry hb hk
  rw [hpart, clampPhase_unused (by rw [field_eq_of_bytesAt hloaded le_rfl le_rfl]; exact hu), hloaded]

theorem clampPhases_used (hb : b.length = 192) (hk : k < 16) (hu : field b (12 * k) 12 ≠ 0) :
    PhaseRec.ofEntry (clampPhases b) (12 * k) = (PhaseRec.ofEntry b (12 * k)).ranged := by
  obtain ⟨m, hm, hloaded, hpart⟩ := clampPhases_entry hb hk
  rw [ofEntry_phase_congr hpart,
    ofEntry_clampPhase hm (by rw [field_eq_of_bytesAt hloaded le_rfl le_rfl]; exact hu), ofEntry_phase_congr hloaded]

end

/-! ## Checks and clamps of LOAD_COMMIT (R178) -/

theorem length_clampImage {t : TableId} {b : List Byte} (hb : b.length = t.size) : (clampImage t b).length = t.size := by
  cases t with
  | limits => exact (clampLimits_kept hb).1
  | string => exact length_clampStrings hb
  | phase => exact length_clampPhases hb
  | recipe => exact hb
  | pass => exact hb

/-- Settles O31: the checks name the first fault (`checkImage_firstFault`), and each clamp puts fields in place that read back
as the values in range (`ofImage_clampLimits`, `clampStrings_present`, `clampPhases_used`) and leaves the other bytes. -/
theorem imagesAreCheckedAndClamped : Obligations.ImagesAreCheckedAndClamped := by
  refine ⟨fun s t b => ?_, fun t b hb => length_clampImage hb, fun b l ceiling cap hb hl hceiling hcap => ?_,
    fun b i c hb hc => ?_, fun b k p hb hk hp => ?_, fun b => ⟨rfl, rfl⟩⟩
  · have hcheck := checkImage_firstFault s t b
    exact ⟨hcheck.eq_none_iff, hcheck.eq_some_iff⟩
  · obtain ⟨hlen, htail⟩ := clampLimits_kept hb
    subst hl hceiling hcap
    refine ⟨?_, ofImage_clampLimits hb rfl⟩
    rwa [bytesAt, bytesAt, List.take_of_length_le (by rw [List.length_drop]; omega),
      List.take_of_length_le (by rw [List.length_drop]; omega)] at htail
  · subst hc
    exact ⟨clampStrings_absent hb, clampStrings_present hb⟩
  · subst hp
    exact ⟨clampPhases_unused hb hk, clampPhases_used hb hk⟩

end Sys2Proof.Machine

/-! ## Bindings: strings and slots agree (R61, R63, R70, R83, R100, R106) -/

namespace Sys2Proof.Machine

/-! ### Updates that move no binding -/

section
variable {s t : State}

/-- The bindings depend on the state and the slot of each string, on the string, the entry state and the water call of each
slot, and on the strings for which EQUALISE entries wait. -/
theorem State.BoundOk.same (h : s.BoundOk)
    (hc : ∀ i, (t.control i).slot = (s.control i).slot ∧ (t.control i).state = (s.control i).state)
    (hs : ∀ k, (t.slot k).string = (s.slot k).string ∧ (t.slot k).entryState = (s.slot k).entryState
      ∧ (t.slot k).waterCalled = (s.slot k).waterCalled)
    (hq : ∀ e ∈ t.queue, e.kind = .equalise → ∃ x ∈ s.queue, x.kind = .equalise ∧ x.string = e.string) : t.BoundOk where
  agree sl i := by rw [(hs sl).1, (hc i).1]; exact h.agree sl i
  away i := by rw [(hc i).1, (hc i).2]; exact h.away i
  home i := by rw [(hc i).1, (hc i).2]; exact h.home i
  runs sl hr := by
    rw [(hs sl).2.1] at hr
    obtain ⟨i, hi, he⟩ := h.runs sl hr
    exact ⟨i, (hs sl).1.trans hi, (hc i).2.trans he⟩
  calls sl hw := by rw [(hs sl).2.1]; exact h.calls sl ((hs sl).2.2.symm.trans hw)
  waits e he hk := by
    obtain ⟨x, hx, hxk, hxs⟩ := hq e he hk
    rw [(hc e.string).1, ← hxs]
    exact h.waits x hx hxk

/-- An update of other blocks. -/
theorem State.BoundOk.congr (h : s.BoundOk) (hs : t.strings = s.strings) (ha : t.slotA = s.slotA) (hb : t.slotB = s.slotB)
    (hq : t.queue = s.queue) : t.BoundOk := by
  have hc : ∀ i, t.control i = s.control i := fun i => by rw [State.control, State.control, State.str, State.str, hs]
  have hk : ∀ k, t.slot k = s.slot k := fun k => by cases k <;> assumption
  exact h.same (fun i => by simp [hc]) (fun k => by simp [hk]) fun e he hk => ⟨e, hq ▸ he, hk, rfl⟩

theorem State.BoundOk.modWater (h : s.BoundOk) (f : Water → Water) : (s.modWater f).BoundOk := h.congr rfl rfl rfl rfl
theorem State.BoundOk.modSite (h : s.BoundOk) (f : Site → Site) : (s.modSite f).BoundOk := h.congr rfl rfl rfl rfl
theorem State.BoundOk.modRing (h : s.BoundOk) (f : Ring → Ring) : (s.modRing f).BoundOk := h.congr rfl rfl rfl rfl
theorem State.BoundOk.modMgmt (h : s.BoundOk) (f : Mgmt → Mgmt) : (s.modMgmt f).BoundOk := h.congr rfl rfl rfl rfl
theorem State.BoundOk.modCell (h : s.BoundOk) (i : CellIx) (f : Cell → Cell) : (s.modCell i f).BoundOk :=
  h.congr rfl rfl rfl rfl
theorem State.BoundOk.markScan (h : s.BoundOk) : s.markScan.BoundOk := h.congr rfl rfl rfl rfl
theorem State.BoundOk.markCommit (h : s.BoundOk) : s.markCommit.BoundOk := h.congr rfl rfl rfl rfl
theorem State.BoundOk.withMarks (h : s.BoundOk) (m : Marks) : State.BoundOk { s with marks := m } := h.congr rfl rfl rfl rfl
theorem State.BoundOk.withPending (h : s.BoundOk) (cs : List Instr) : State.BoundOk { s with pending := cs } :=
  h.congr rfl rfl rfl rfl
theorem State.BoundOk.withBus (h : s.BoundOk) (v : Option Nat) : State.BoundOk { s with busVoltage := v } :=
  h.congr rfl rfl rfl rfl
theorem State.BoundOk.withDischarge (h : s.BoundOk) (d : Bool) (e : Option Nat) :
    State.BoundOk { s with discharge := d, holdoffEnd := e } := h.congr rfl rfl rfl rfl
theorem State.BoundOk.handOrder (h : s.BoundOk) (f : Frame) : (s.handOrder f).BoundOk :=
  h.congr rfl rfl rfl rfl
theorem State.BoundOk.handRect (h : s.BoundOk) (sl : SlotId) (o : RectOrder) : (s.handRect sl o).BoundOk := h.handOrder _
theorem State.BoundOk.handContactor (h : s.BoundOk) (i : Str) (b : Byte) : (s.handContactor i b).BoundOk := h.handOrder _
theorem State.BoundOk.followSite (h : s.BoundOk) : s.followSite.BoundOk := by
  rw [followSite_fixed]
  exact h.congr rfl rfl rfl rfl

theorem State.BoundOk.ite (h : s.BoundOk) (k : t.BoundOk) {c : Prop} [Decidable c] : (if c then s else t).BoundOk := by
  split <;> assumption

theorem State.BoundOk.notice (h : s.BoundOk) (p : List Byte) : (s.notice p).BoundOk :=
  ((h.modRing _).ite (h.modRing _)).ite h

theorem State.BoundOk.noticeStarted (h : s.BoundOk) (i : Str) (k : RoundKind) (sl : Option SlotId) (r : Option Reason) :
    (s.noticeStarted i k sl r).BoundOk := h.notice _

theorem State.BoundOk.modControl (h : s.BoundOk) (i : Str) (f : Control → Control)
    (hf : ∀ c, (f c).slot = c.slot ∧ (f c).state = c.state) : (s.modControl i f).BoundOk := by
  refine h.same (fun j => ?_) (fun k => ⟨rfl, rfl, rfl⟩) fun e he hk => ⟨e, he, hk, rfl⟩
  by_cases hj : i = j
  · subst hj
    simpa using hf (s.control i)
  · rw [State.modControl_control_ne s hj]
    exact ⟨rfl, rfl⟩

theorem State.BoundOk.modCharge (h : s.BoundOk) (i : Str) (f : Charge → Charge) : (s.modCharge i f).BoundOk :=
  h.same (fun j => by simp) (fun k => ⟨rfl, rfl, rfl⟩) fun e he hk => ⟨e, he, hk, rfl⟩

theorem State.BoundOk.modReading (h : s.BoundOk) (i : Str) (f : Reading → Reading) : (s.modReading i f).BoundOk :=
  h.same (fun j => by simp) (fun k => ⟨rfl, rfl, rfl⟩) fun e he hk => ⟨e, he, hk, rfl⟩

theorem State.BoundOk.foldl {α : Type} (f : State → α → State) (hf : ∀ u a, u.BoundOk → (f u a).BoundOk) (l : List α) :
    ∀ {s : State}, s.BoundOk → (l.foldl f s).BoundOk := by
  induction l with
  | nil => exact fun h => h
  | cons a l ih => exact fun h => ih (hf _ a h)

theorem State.BoundOk.eachStr (h : s.BoundOk) {f : Str → State → State} (hf : ∀ i u, u.BoundOk → (f i u).BoundOk) :
    (s.eachStr f).BoundOk :=
  eachStr_preserves hf h

theorem State.BoundOk.eachSlot (h : s.BoundOk) {f : SlotId → State → State} (hf : ∀ k u, u.BoundOk → (f k u).BoundOk) :
    (s.eachSlot f).BoundOk :=
  hf .B _ (hf .A _ h)



/-! ### The Round Queue (R107 to R109) -/

/-- What an enqueue leaves: the queue alone moves, and each entry of it waited for its string before or is the new one. -/
theorem enqueue_spec (s : State) (n : Entry) : ∃ q, s.enqueue n = { s with queue := q }.markScan ∧
    ∀ e ∈ q, (∃ x ∈ s.queue, x.kind = e.kind ∧ x.string = e.string) ∨ (n.kind = e.kind ∧ n.string = e.string) := by
  unfold State.enqueue
  split
  · next o ho =>
    refine ⟨_, rfl, fun e he => .inl ?_⟩
    have hom : o ∈ s.queue := List.mem_of_find?_eq_some ho
    unfold mergeQueue at he
    split at he
    · rcases (mem_joinQueue ..).1 he with rfl | he
      · exact ⟨o, hom, by simp, by simp⟩
      · exact ⟨e, (List.mem_filter.1 he).1, rfl, rfl⟩
    · obtain ⟨x, hx, rfl⟩ := List.mem_map.1 he
      refine ⟨x, hx, ?_⟩
      split <;> simp
  · refine ⟨_, rfl, fun e he => ?_⟩
    rcases (mem_joinQueue ..).1 he with rfl | he
    · exact .inr ⟨rfl, rfl⟩
    · exact .inl ⟨e, he, rfl, rfl⟩

theorem enqueue_control (s : State) (n : Entry) (j : Str) : (s.enqueue n).control j = s.control j := by
  rw [State.control, State.control, State.str, State.str, (enqueue_fixed s n).1]

theorem State.BoundOk.enqueue (h : s.BoundOk) (n : Entry) (hn : n.kind = .equalise → (s.control n.string).slot = none) :
    (s.enqueue n).BoundOk := by
  obtain ⟨q, hq, hw⟩ := enqueue_spec s n
  rw [hq]
  refine State.BoundOk.markScan
    { agree := h.agree, away := h.away, home := h.home, runs := h.runs, calls := h.calls, waits := ?_ }
  intro e he hk
  rcases hw e he with ⟨x, hx, hxk, hxs⟩ | ⟨hnk, hns⟩
  · exact hxs ▸ h.waits x hx (hxk.trans hk)
  · exact hns ▸ hn (hnk.trans hk)

theorem State.BoundOk.filterQueue (h : s.BoundOk) (p : Entry → Bool) :
    State.BoundOk { s with queue := s.queue.filter p } :=
  h.same (fun _ => ⟨rfl, rfl⟩) (fun _ => ⟨rfl, rfl, rfl⟩) fun e he hk => ⟨e, (List.mem_filter.1 he).1, hk, rfl⟩

theorem State.BoundOk.removeEntry (h : s.BoundOk) (i : Str) (k : RoundKind) : (s.removeEntry i k).BoundOk := h.filterQueue _

theorem State.BoundOk.withdrawWater (h : s.BoundOk) (i : Str) : (s.withdrawWater i).BoundOk :=
  (h.removeEntry i .water).markScan.ite h

/-! ### Orders and steps of String Control (R66 to R73) -/

theorem State.BoundOk.stringRect (h : s.BoundOk) (i : Str) (o : RectOrder) : (s.stringRect i o).BoundOk := by
  unfold State.stringRect
  split
  · exact (h.modControl i (fun c => { c with rectOrder := some o, lastRectTime := some s.now })
      fun _ => ⟨rfl, rfl⟩).handRect _ o
  · exact h

theorem State.BoundOk.toConfirm (h : s.BoundOk) (i : Str) : (s.toConfirm i).BoundOk :=
  (h.handContactor i _).modControl i _ fun _ => ⟨rfl, rfl⟩

theorem State.BoundOk.judgeWindow (h : s.BoundOk) (i : Str) : (s.judgeWindow i).BoundOk := (h.toConfirm i).ite h

theorem State.BoundOk.offAndConfirm (h : s.BoundOk) (i : Str) : (s.offAndConfirm i).BoundOk := (h.stringRect i _).toConfirm i

theorem State.BoundOk.changeVariant (h : s.BoundOk) (i : Str) (v : Variant) : (s.changeVariant i v).BoundOk :=
  have k := h.modControl i (fun c => { c with variant := some v }) fun _ => ⟨rfl, rfl⟩
  (k.offAndConfirm i).ite (k.stringRect i .off)

theorem State.BoundOk.causeInReturn (h : s.BoundOk) (i : Str) (c : EndReason) : (s.causeInReturn i c).BoundOk := by
  unfold State.causeInReturn
  split
  · exact (h.changeVariant i _).ite (h.ite (h.stringRect i _))
  · exact (h.changeVariant i _).ite h
  · exact (h.offAndConfirm i).ite h
  · exact h

theorem State.BoundOk.matchTakesBus (h : s.BoundOk) (i : Str) : (s.matchTakesBus i).BoundOk := by
  unfold State.matchTakesBus
  exact ((h.changeVariant i _).ite (((h.stringRect i _).ite h).judgeWindow i)).ite h

theorem State.BoundOk.handBus (h : s.BoundOk) (b : Option Nat) : (s.handBus b).BoundOk :=
  h.ite (h.eachStr fun i _ k => k.matchTakesBus i)

theorem State.BoundOk.recomputeBus (h : s.BoundOk) : s.recomputeBus.BoundOk :=
  (h.withBus s.judgeBusVoltage).handBus _

theorem State.BoundOk.judgeSpreadTimer (h : s.BoundOk) (i : Str) : (s.judgeSpreadTimer i).BoundOk :=
  (h.modCharge i _).ite (h.modCharge i _)

/-! ### The end of a round (R67, R100) -/

/-- A string whose slot, if it has one, has stopped, and which is not EQUALISING, agrees with its slot again. -/
theorem State.BoundOk.standsDown {i : Str} (h : s.BoundOk) (f : State.RoundFrame i (s.control i).slot s t)
    (hs : (t.control i).slot = (s.control i).slot)
    (hf : ∀ k, (s.control i).slot = some k → (t.slot k).entryState = none ∧ (t.slot k).waterCalled = false)
    (hn : (t.control i).state ≠ .equalising)
    (ha : (t.control i).state = .called ∨ (t.control i).state = .returning → (s.control i).slot ≠ none)
    (hh : (t.control i).state = .onBus ∨ (t.control i).state = .out ∨ (t.control i).state = .absent →
      (s.control i).slot = none) : t.BoundOk := by
  have slotOf : ∀ j, (t.control j).slot = (s.control j).slot := fun j => by
    by_cases hj : j = i
    · rw [hj, hs]
    · rw [State.control, f.str j hj, State.control]
  have other : ∀ j, j ≠ i → (t.control j).state = (s.control j).state := fun j hj => by
    rw [State.control, f.str j hj, State.control]
  refine ⟨fun k j => ?_, fun j hj => ?_, fun j hj => ?_, fun k hk => ?_, fun k hk => ?_, fun e he hk => ?_⟩
  · rw [(f.bind k).1, slotOf]; exact h.agree k j
  · rw [slotOf]
    by_cases hji : j = i
    · subst hji
      exact ha (by tauto)
    · exact h.away j (other j hji ▸ hj)
  · rw [slotOf]
    by_cases hji : j = i
    · subst hji; exact hh hj
    · exact h.home j (other j hji ▸ hj)
  · by_cases hm : (s.control i).slot = some k
    · exact absurd (hf k hm).1 hk
    · rw [f.slot k hm] at hk
      obtain ⟨j, hj, he⟩ := h.runs k hk
      refine ⟨j, (f.bind k).1.trans hj, (other j ?_).trans he⟩
      rintro rfl
      exact hm ((h.agree k j).1 hj)
  · by_cases hm : (s.control i).slot = some k
    · rw [(hf k hm).2] at hk; cases hk
    · rw [f.slot k hm] at hk ⊢
      exact h.calls k hk
  · rw [slotOf]; exact h.waits e (f.queue e he) hk

theorem State.BoundOk.endRound (h : s.BoundOk) (i : Str) (c : EndReason)
    (hs : (s.control i).state = .called ∨ (s.control i).state = .equalising) : (s.endRound i c).BoundOk := by
  have e := endRound_ended s i c
  refine h.standsDown (frame_endRound s i c) e.slot (fun k hk => ?_) ?_ (fun _ => h.away i (by tauto)) ?_
  · rw [endRound_slot hk c]; exact ⟨rfl, rfl⟩
  · rw [e.state]; decide
  · rw [e.state]; intro h; simp at h

theorem State.BoundOk.endCause (h : s.BoundOk) (i : Str) (c : EndReason) : (s.endCause i c).BoundOk := by
  unfold State.endCause
  split
  · next hs => exact h.endRound i c (.inl hs)
  · next hs => exact h.endRound i c (.inr hs)
  · exact h.causeInReturn i c
  · exact h

theorem State.BoundOk.slotEnds (h : s.BoundOk) (sl : SlotId) (c : EndReason) : (s.slotEnds sl c).BoundOk := by
  unfold State.slotEnds
  split
  · exact h.endCause _ c
  · exact h

/-- A slot that runs no entry serves no string in EQUALISING or has yet to start; outside EQUALISING it runs none. -/
theorem State.BoundOk.idle {i : Str} {k : SlotId} (h : s.BoundOk) (hk : (s.control i).slot = some k)
    (he : (s.control i).state ≠ .equalising) : (s.slot k).entryState = none ∧ (s.slot k).waterCalled = false := by
  have hn : (s.slot k).entryState = none := by
    by_contra hr
    obtain ⟨j, hj, hje⟩ := h.runs k hr
    have : j = i := Option.some.inj (hj.symm.trans ((h.agree k i).2 hk))
    exact he (this ▸ hje)
  refine ⟨hn, ?_⟩
  by_contra hw
  have := h.calls k (by simpa using hw)
  rw [hn] at this
  cases this

/-- The return of a string whose slot has stopped begins (R67, R78). -/
theorem State.BoundOk.startReturn (h : s.BoundOk) (i : Str) (v : Variant) (b : Bool) (hb : (s.control i).slot ≠ none)
    (he : (s.control i).state ≠ .equalising) : (s.startReturn i v b).BoundOk := by
  have hr := returned_kept s i v b
  rw [← startReturn_control] at hr
  obtain ⟨hst, -, hsl, -⟩ := hr
  refine h.standsDown (frame_startReturn s i _ v b) hsl (fun k hk => ?_) ?_ (fun _ => hb) ?_
  · rw [startReturn_slot]; exact h.idle hk he
  · rw [hst]; decide
  · rw [hst]; intro h; simp at h

/-! ### DISCHARGE and changes of state (R32, R33, R62) -/

theorem State.BoundOk.dischargeBegins (h : s.BoundOk) : s.dischargeBegins.BoundOk := by
  unfold State.dischargeBegins
  exact ((h.withDischarge true none).eachStr fun i _ k => k.endCause i .discharge).notice _

theorem State.BoundOk.dischargeEnds (h : s.BoundOk) : s.dischargeEnds.BoundOk :=
  State.BoundOk.ite (h.withDischarge false s.holdoffEnd).markScan (h.withDischarge false _)

theorem State.BoundOk.rejudgeDischarge (h : s.BoundOk) : s.rejudgeDischarge.BoundOk :=
  h.ite (h.dischargeBegins.ite h.dischargeEnds)

theorem State.BoundOk.onBusChanged (h : s.BoundOk) (i : Str) : (s.onBusChanged i).BoundOk :=
  ((h.ite (h.modCharge i _)).recomputeBus.judgeSpreadTimer i).rejudgeDischarge

theorem State.BoundOk.stateChanged (h : s.BoundOk) (i : Str) (b : StringState) : (s.stateChanged i b).BoundOk :=
  h.markScan.ite (h.markScan.onBusChanged i)

/-- A string without a slot takes a state at home (R77, R78). -/
theorem State.BoundOk.putHome (h : s.BoundOk) (i : Str) (x : StringState) (hb : (s.control i).slot = none)
    (hx : x = .onBus ∨ x = .out) :
    (s.modControl i fun c => { c with state := x }).BoundOk := by
  have f := frame_modControl s i (s.control i).slot fun c => { c with state := x }
  refine h.standsDown f (by simp) (fun k hk => by rw [hb] at hk; cases hk) ?_ ?_ fun _ => hb
  all_goals rw [State.modControl_control]
  · rcases hx with rfl | rfl <;> simp
  · rcases hx with rfl | rfl <;> simp

theorem State.BoundOk.toBus (h : s.BoundOk) (i : Str) (hb : (s.control i).slot = none) : (s.toBus i).BoundOk :=
  (h.putHome i .onBus hb (.inl rfl)).stateChanged i _

/-! ### Freeing a slot and faults (R70, R74 to R76) -/

/-- A string whose binding is cleared on both sides, its slot's record at the cold-reset values, agrees with the slots. -/
theorem State.BoundOk.freed {i : Str} (h : s.BoundOk) (hn : (t.control i).slot = none)
    (ha : (t.control i).state = .onBus) (hc : ∀ j, j ≠ i → t.control j = s.control j)
    (hf : ∀ k, (s.control i).slot = some k → t.slot k = {}) (hs : ∀ k, (s.control i).slot ≠ some k → t.slot k = s.slot k)
    (hq : t.queue = s.queue) : t.BoundOk := by
  have away : ∀ {k j}, (s.slot k).string = some j → (s.control i).slot ≠ some k → j ≠ i := by
    rintro k j hj hk rfl
    exact hk ((h.agree k j).1 hj)
  refine ⟨fun k j => ?_, fun j hj => ?_, fun j hj => ?_, fun k hk => ?_, fun k hk => ?_, fun e he hk => ?_⟩
  · by_cases hk : (s.control i).slot = some k
    · rw [hf k hk]
      by_cases hji : j = i
      · subst hji; simp [hn]
      · rw [hc j hji]
        have hik := (h.agree k i).2 hk
        have := h.agree k j
        rw [hik] at this
        simp only [Option.some.injEq, Ne.symm hji, false_iff] at this
        simp [this]
    · rw [hs k hk]
      by_cases hji : j = i
      · subst hji
        simpa [hn] using fun hj => hk ((h.agree k j).1 hj)
      · rw [hc j hji]; exact h.agree k j
  · by_cases hji : j = i
    · subst hji; simp [ha] at hj
    · rw [hc j hji] at hj ⊢; exact h.away j hj
  · by_cases hji : j = i
    · subst hji; exact hn
    · rw [hc j hji] at hj ⊢; exact h.home j hj
  · by_cases hm : (s.control i).slot = some k
    · rw [hf k hm] at hk; exact absurd rfl hk
    · rw [hs k hm] at hk ⊢
      obtain ⟨j, hj, he⟩ := h.runs k hk
      exact ⟨j, hj, by rw [hc j (away hj hm)]; exact he⟩
  · by_cases hm : (s.control i).slot = some k
    · rw [hf k hm] at hk; cases hk
    · rw [hs k hm] at hk ⊢; exact h.calls k hk
  · rw [hq] at he
    by_cases hji : e.string = i
    · rw [hji]; exact hn
    · rw [hc _ hji]; exact h.waits e he hk

theorem notice_slot (s : State) (m : List Byte) (k : SlotId) : (s.notice m).slot k = s.slot k := by
  rw [notice_eq]; cases k <;> rfl

/-- A string of which the state alone has become ON_BUS frees its slot (R69, R70, R75). -/
theorem State.BoundOk.freeSlot_onBus (h : s.BoundOk) (i : Str) :
    ((s.modControl i fun c => { c with state := .onBus }).freeSlot i).BoundOk := by
  have hsl : ((s.modControl i fun c => { c with state := .onBus }).control i).slot = (s.control i).slot := by simp
  unfold State.freeSlot
  rw [hsl]
  split
  · next hn => exact h.putHome i .onBus hn (.inl rfl)
  · next k hk =>
    refine State.BoundOk.markCommit (State.BoundOk.markScan (State.BoundOk.notice (h.freed (i := i) ?_ ?_ ?_ ?_ ?_ ?_) _))
    · simp
    · simp
    · intro j hj
      simp [State.modControl_control_ne _ (Ne.symm hj)]
    · intro m hm
      have : m = k := Option.some.inj (hm.symm.trans hk)
      rw [this, State.modSlot_slot]
    · intro m hm
      rw [State.modSlot_slot_ne _ fun e => hm (by rw [e]; exact hk)]
      simp
    · simp

theorem State.BoundOk.releaseHeld (h : s.BoundOk) (i : Str) : (s.releaseHeld i).BoundOk := by
  unfold State.releaseHeld
  split
  · exact (h.modControl i (fun c => { c with heldOrder := none }) fun _ => ⟨rfl, rfl⟩).handOrder _
  · exact h

theorem State.BoundOk.toBusAndFree (h : s.BoundOk) (i : Str) : (s.toBusAndFree i).BoundOk :=
  ((h.freeSlot_onBus i).stateChanged i _).releaseHeld i

theorem State.BoundOk.completeReturn (h : s.BoundOk) (i : Str) : (s.completeReturn i).BoundOk :=
  (h.stringRect i .off).toBusAndFree i

/-- The string and its slot at the fault, before it is handed on (R74). -/
def State.faultTaken (s : State) (i : Str) : State :=
  (if (s.control i).state = .called ∨ (s.control i).state = .equalising then
    (((s.stringRect i .off).setEnd i .contactor).stopSlotOf i) else s.stringRect i .off).modControl i fun c =>
    { c with
      state := .faulted, heldOrder := none, variant := none, step := none, matchDeadline := none, confirmLeft := none }

theorem enterFaulted_eq (s : State) (i : Str) :
    s.enterFaulted i = ((s.faultTaken i).noticeStringFault i).stateChanged i (s.control i).state := rfl

theorem frame_faultTaken (s : State) (i : Str) : State.RoundFrame i (s.control i).slot s (s.faultTaken i) := by
  have h1 := frame_stringRect s i (s.control i).slot .off
  have h2 := h1.trans (frame_setEnd _ i _ .contactor)
  have h3 := frame_stopSlotOf ((s.stringRect i .off).setEnd i .contactor) i
  have hsl : (((s.stringRect i .off).setEnd i .contactor).control i).slot = (s.control i).slot := by
    unfold State.setEnd
    rw [State.modControl_control, stringRect_control]
    unfold Control.ordered
    split <;> rfl
  rw [hsl] at h3
  exact (frame_ite (h2.trans h3) h1).trans (frame_modControl _ i _ _)

/-- The string's record at the fault: RECT OFF stands, a round in CALLED or EQUALISING has ended with CONTACTOR (R74). -/
theorem faultTaken_control (s : State) (i : Str) : (s.faultTaken i).control i =
    { (s.control i).ordered s.now .off with
      state := .faulted, heldOrder := none, variant := none, step := none, matchDeadline := none, confirmLeft := none
      endReason := if (s.control i).state = .called ∨ (s.control i).state = .equalising then some .contactor
        else (s.control i).endReason
      endStamp := if (s.control i).state = .called ∨ (s.control i).state = .equalising then some s.mgmt.clock
        else (s.control i).endStamp } := by
  have hm : (s.stringRect i .off).mgmt = s.mgmt := (frame_stringRect s i none .off).mgmt
  unfold State.faultTaken State.setEnd Control.ordered
  rw [State.modControl_control]
  split
  · rw [stopSlotOf_control, State.modControl_control, stringRect_control, hm]
    unfold Control.ordered
    split <;> rfl
  · rw [stringRect_control]
    unfold Control.ordered
    split <;> rfl

theorem faultTaken_slot {i : Str} {k : SlotId} (hk : (s.control i).slot = some k) : (s.faultTaken i).slot k =
    if (s.control i).state = .called ∨ (s.control i).state = .equalising then (s.slot k).stopped else s.slot k := by
  unfold State.faultTaken
  rw [State.modControl_slot]
  split
  · rw [stopSlotOf_slot]
    · unfold State.setEnd
      rw [State.modControl_slot, stringRect_slot]
    · unfold State.setEnd
      rw [State.modControl_control, stringRect_control]
      unfold Control.ordered
      split <;> simpa using hk
  · rw [stringRect_slot]

theorem Control.ordered_slot (now : Nat) (o : RectOrder) (c : Control) : (c.ordered now o).slot = c.slot := by
  unfold Control.ordered; split <;> rfl

theorem State.BoundOk.faultTaken (h : s.BoundOk) (i : Str) : (s.faultTaken i).BoundOk := by
  have hc := faultTaken_control s i
  refine h.standsDown (frame_faultTaken s i) ?_ (fun k hk => ?_) ?_ ?_ ?_
  · rw [hc]; exact Control.ordered_slot ..
  · rw [faultTaken_slot hk]
    split
    · exact ⟨rfl, rfl⟩
    · next hn => exact h.idle hk fun he => hn (.inr he)
  all_goals rw [hc]; simp

theorem State.BoundOk.enterFaulted (h : s.BoundOk) (i : Str) : (s.enterFaulted i).BoundOk := by
  rw [enterFaulted_eq]
  exact ((h.faultTaken i).notice _).stateChanged i _

/-! ### What a slot does to its own record (R83 to R102) -/

/-- The slot serves a string in EQUALISING. -/
def State.serves (s : State) (sl : SlotId) : Prop :=
  ∃ i, (s.slot sl).string = some i ∧ (s.control i).state = .equalising

/-- The acts of a slot on its own record keep the bindings while an entry runs for a string in EQUALISING alone, and the water
is called in WATER_WAIT alone. -/
theorem State.BoundOk.acts {sl : SlotId} (h : s.BoundOk) (k : s.SlotActs sl t)
    (hs : (t.slot sl).string = (s.slot sl).string) (hr : (t.slot sl).entryState ≠ none → s.serves sl)
    (hw : (t.slot sl).waterCalled = true → (t.slot sl).entryState = some .waterWait) : t.BoundOk := by
  have slotOf : ∀ x, (t.slot x).string = (s.slot x).string := fun x => by
    by_cases hx : x = sl
    · rw [hx, hs]
    · rw [k.other x hx]
  refine ⟨fun x i => ?_, fun i => ?_, fun i => ?_, fun x hx => ?_, fun x hx => ?_, fun e he => ?_⟩
  · rw [slotOf, k.control]; exact h.agree x i
  · rw [k.control]; exact h.away i
  · rw [k.control]; exact h.home i
  · have hx' : s.serves x := by
      by_cases hxs : x = sl
      · subst hxs; exact hr hx
      · rw [k.other x hxs] at hx; exact h.runs x hx
    obtain ⟨i, hi, he⟩ := hx'
    exact ⟨i, (slotOf x).trans hi, by rw [k.control]; exact he⟩
  · by_cases hxs : x = sl
    · subst hxs; exact hw hx
    · rw [k.other x hxs] at hx ⊢; exact h.calls x hx
  · rw [k.queue] at he; rw [k.control]; exact h.waits e he

/-- The acts of a slot that leave its string, its entry state and its water call. -/
theorem State.BoundOk.actsWithin {sl : SlotId} (h : s.BoundOk) (k : s.SlotActs sl t)
    (hs : (t.slot sl).string = (s.slot sl).string ∧ (t.slot sl).entryState = (s.slot sl).entryState
      ∧ (t.slot sl).waterCalled = (s.slot sl).waterCalled) : t.BoundOk := by
  obtain ⟨h1, h2, h3⟩ := hs
  exact h.acts k h1 (by rw [h2]; exact h.runs sl) (by rw [h2, h3]; exact h.calls sl)

theorem State.BoundOk.modSlot (h : s.BoundOk) (sl : SlotId) (f : SlotRec → SlotRec)
    (hf : ∀ r, (f r).string = r.string ∧ (f r).entryState = r.entryState ∧ (f r).waterCalled = r.waterCalled) :
    (s.modSlot sl f).BoundOk :=
  h.actsWithin (acts_modSlot s sl f) (by rw [State.modSlot_slot]; exact hf _)

theorem State.BoundOk.slotOrder (h : s.BoundOk) (sl : SlotId) (o : RectOrder) : (s.slotOrder sl o).BoundOk := by
  obtain ⟨e, he⟩ := slotOrder_slot s sl o
  exact h.actsWithin (acts_slotOrder s sl o) (by rw [he]; exact ⟨rfl, rfl, rfl⟩)

theorem State.BoundOk.judgeReasons (h : s.BoundOk) (sl : SlotId) : (s.judgeReasons sl).BoundOk := by
  obtain ⟨e, he⟩ := judgeReasons_slot s sl
  exact h.actsWithin (acts_judgeReasons s sl) (by rw [he]; exact ⟨rfl, rfl, rfl⟩)

theorem State.BoundOk.judgeCriterion (h : s.BoundOk) (sl : SlotId) : (s.judgeCriterion sl).BoundOk := by
  obtain ⟨e, he⟩ := judgeCriterion_slot s sl
  exact h.actsWithin (acts_judgeCriterion s sl) (by rw [he]; exact ⟨rfl, rfl, rfl⟩)

/-- The bindings hold, the slot serves a string in EQUALISING and has not called for water: any entry state but WATER_WAIT may
stand. -/
structure State.Ready (s : State) (sl : SlotId) : Prop where
  bound : s.BoundOk
  serves : s.serves sl
  uncalled : (s.slot sl).waterCalled = false

theorem State.Ready.acts {sl : SlotId} (h : s.Ready sl) (k : s.SlotActs sl t)
    (hs : (t.slot sl).string = (s.slot sl).string) (hw : (t.slot sl).waterCalled = (s.slot sl).waterCalled) : t.Ready sl where
  bound := h.bound.acts k hs (fun _ => h.serves) (by rw [hw, h.uncalled]; simp)
  serves := by
    obtain ⟨i, hi, he⟩ := h.serves
    exact ⟨i, hs.trans hi, by rw [k.control]; exact he⟩
  uncalled := hw.trans h.uncalled

theorem State.Ready.modSlot {sl : SlotId} (h : s.Ready sl) (f : SlotRec → SlotRec)
    (hf : ∀ r, (f r).string = r.string ∧ (f r).waterCalled = r.waterCalled) : (s.modSlot sl f).Ready sl :=
  h.acts (acts_modSlot s sl f) (by rw [State.modSlot_slot]; exact (hf _).1) (by rw [State.modSlot_slot]; exact (hf _).2)

theorem State.Ready.slotOrder {sl : SlotId} (h : s.Ready sl) (o : RectOrder) : (s.slotOrder sl o).Ready sl := by
  obtain ⟨e, he⟩ := slotOrder_slot s sl o
  exact h.acts (acts_slotOrder s sl o) (by rw [he]) (by rw [he])

theorem State.Ready.judgeReasons {sl : SlotId} (h : s.Ready sl) : (s.judgeReasons sl).Ready sl := by
  obtain ⟨e, he⟩ := judgeReasons_slot s sl
  exact h.acts (acts_judgeReasons s sl) (by rw [he]) (by rw [he])

/-- A slot that runs an entry other than a water wait is ready (R83, R87). -/
theorem State.BoundOk.ready {sl : SlotId} (h : s.BoundOk) (hr : (s.slot sl).entryState ≠ none)
    (hw : (s.slot sl).entryState ≠ some .waterWait) : s.Ready sl :=
  ⟨h, h.runs sl hr, by by_contra hc; exact hw (h.calls sl (by simpa using hc))⟩

theorem State.Ready.suspend {sl : SlotId} (h : s.Ready sl) (b : ResumeState) (o : RectOrder) : (s.suspend sl b o).BoundOk := by
  have k := (h.modSlot (fun r => { r with entryState := some .suspended, resumeState := some b, pendingOrder := some o })
    fun _ => ⟨rfl, rfl⟩).slotOrder .off
  exact (k.bound.slotEnds sl _).ite k.bound

theorem State.Ready.resume {sl : SlotId} (h : s.Ready sl) : (s.resume sl).BoundOk := by
  unfold State.resume
  split
  · exact h.bound
  · next b _ =>
    have k := h.modSlot (fun r => { r with entryState := some b.entry, resumeState := none, pendingOrder := none })
      fun _ => ⟨rfl, rfl⟩
    exact ((k.slotOrder _).bound.judgeCriterion sl).followSite

theorem State.BoundOk.actOnReasons (h : s.BoundOk) (sl : SlotId) : (s.actOnReasons sl).BoundOk := by
  unfold State.actOnReasons
  split
  · next he => exact ((h.ready (by simp [he]) (by simp [he])).suspend _ _).ite h
  · next he => exact ((h.ready (by simp [he]) (by simp [he])).suspend _ _).ite h
  · next he => exact h.ite (h.ready (by simp [he]) (by simp [he])).resume
  · exact h

theorem State.BoundOk.reviewReasons (h : s.BoundOk) (sl : SlotId) : (s.reviewReasons sl).BoundOk :=
  ((h.judgeReasons sl).actOnReasons sl).ite h

theorem State.Ready.beginStretch {sl : SlotId} (h : s.Ready sl) (b : ResumeState) : (s.beginStretch sl b).BoundOk := by
  have k := h.judgeReasons
  unfold State.beginStretch
  dsimp only
  split
  · exact k.bound.slotEnds sl _
  · refine (k.suspend b _).ite ?_
    have kr := (k.modSlot (fun r => { r with entryState := some b.entry }) fun _ => ⟨rfl, rfl⟩)
    exact (kr.slotOrder _).bound.judgeCriterion sl

theorem State.Ready.startWater {sl : SlotId} (h : s.Ready sl) (i : Str) : (s.startWater sl i).BoundOk := by
  have k := h.judgeReasons
  unfold State.startWater
  dsimp only
  refine State.BoundOk.slotOrder ?_ sl _
  have key : ∀ u : State, u.BoundOk → u.serves sl → (u.modSlot sl fun r =>
      { r with entryState := some .waterWait, entryEnd := some (u.now + u.lim.waterWaitMaxMin * 60000), limit := u.lim.iFloor
               waterCalled := true }).BoundOk := fun u hu hs =>
    hu.acts (acts_modSlot u sl _) (by rw [State.modSlot_slot]) (fun _ => hs) (by rw [State.modSlot_slot]; exact fun _ => rfl)
  split
  · exact key _ k.bound k.serves
  · refine key _ (k.bound.enqueue _ (by simp)) ?_
    obtain ⟨j, hj, he⟩ := k.serves
    exact ⟨j, by rw [enqueue_slot]; exact hj, by rw [enqueue_control]; exact he⟩

theorem State.Ready.startPhase {sl : SlotId} (h : s.Ready sl) (id : Nat) : (s.startPhase sl id).BoundOk := by
  unfold State.startPhase
  dsimp only
  refine State.Ready.beginStretch ?_ .run
  exact h.modSlot _ fun _ => ⟨rfl, rfl⟩

theorem State.Ready.startEntry {sl : SlotId} (n : Nat) : ∀ {s : State}, s.Ready sl → (s.startEntry sl n).BoundOk := by
  induction n with
  | zero => exact fun h => h.bound
  | succ n ih =>
    intro s h
    have k := h.modSlot SlotRec.entryReset fun _ => ⟨rfl, rfl⟩
    unfold State.startEntry
    dsimp only
    split
    · exact (k.modSlot (fun r => { r with directV := _, directI := 0, limit := 0 }) fun _ => ⟨rfl, rfl⟩).beginStretch .direct
    · split
      · exact k.startPhase _
      · exact (State.Ready.slotOrder (k.judgeReasons.modSlot (fun r => { r with entryState := some .wait, entryEnd := _ })
          fun _ => ⟨rfl, rfl⟩) .off).bound
      · exact k.bound.slotEnds sl _
      · split
        · split
          · exact k.startWater _
          · exact ih (k.modSlot _ fun _ => ⟨rfl, rfl⟩)
        · exact k.bound

theorem State.Ready.nextEntry {sl : SlotId} (h : s.Ready sl) : (s.nextEntry sl).BoundOk :=
  (State.Ready.startEntry 13 (h.modSlot (fun r => { r with index := r.index + 1 }) fun _ => ⟨rfl, rfl⟩)).followSite

theorem State.BoundOk.endWaterWait (h : s.BoundOk) (sl : SlotId) : (s.endWaterWait sl).BoundOk := by
  unfold State.endWaterWait
  split
  · next he =>
    have hs := h.runs sl (by simp [he])
    have k : (s.modSlot sl fun r => { r with waterCalled := false }).Ready sl := by
      refine ⟨h.acts (acts_modSlot s sl _) (by rw [State.modSlot_slot]) (fun _ => hs) ?_, ?_, ?_⟩
      · rw [State.modSlot_slot]; simp
      · obtain ⟨i, hi, hie⟩ := hs
        exact ⟨i, by rw [State.modSlot_slot]; exact hi, by simpa using hie⟩
      · rw [State.modSlot_slot]
    exact k.nextEntry
  · exact h

theorem State.BoundOk.stopSlot (h : s.BoundOk) (sl : SlotId) : (s.stopSlot sl).BoundOk := by
  have k : (s.modSlot sl SlotRec.stopped).BoundOk :=
    h.acts (acts_modSlot s sl _) (by rw [State.modSlot_slot]; rfl) (by rw [State.modSlot_slot]; exact fun e => absurd rfl e)
      (by rw [State.modSlot_slot]; exact fun e => by cases e)
  unfold State.stopSlot
  dsimp only
  split
  · exact k.withdrawWater _
  · exact k

theorem State.BoundOk.stopSlotOf (h : s.BoundOk) (i : Str) : (s.stopSlotOf i).BoundOk := by
  unfold State.stopSlotOf
  split
  · exact h.stopSlot _
  · exact h

theorem State.BoundOk.setEnd (h : s.BoundOk) (i : Str) (c : EndReason) : (s.setEnd i c).BoundOk :=
  h.modControl i _ fun _ => ⟨rfl, rfl⟩

/-- A BUS position in EQUALISING ends the round and frees the slot at once (R75). -/
theorem State.BoundOk.busInEqualising (h : s.BoundOk) (i : Str) : (s.busInEqualising i).BoundOk :=
  (((h.setEnd i .contactor).stopSlotOf i).stringRect i .off).toBusAndFree i

/-- A string in CALLED becomes EQUALISING with the slot it holds (R65). -/
theorem State.BoundOk.becomesEqualising (h : s.BoundOk) (i : Str) (hc : (s.control i).state = .called) :
    (s.modControl i fun c => { c with state := .equalising, confirmLeft := none }).BoundOk := by
  have slotOf : ∀ j, ((s.modControl i fun c => { c with state := .equalising, confirmLeft := none }).control j).slot
      = (s.control j).slot := fun j => by
    by_cases hj : i = j
    · subst hj; simp
    · rw [State.modControl_control_ne _ hj]
  have other : ∀ j, i ≠ j → (s.modControl i fun c => { c with state := .equalising, confirmLeft := none }).control j
      = s.control j := fun j hj => State.modControl_control_ne _ hj _
  refine ⟨fun k j => ?_, fun j hj => ?_, fun j hj => ?_, fun k hk => ?_, fun k hk => ?_, fun e he hk => ?_⟩
  · rw [slotOf, State.modControl_slot]; exact h.agree k j
  · rw [slotOf]
    by_cases hji : i = j
    · subst hji; exact h.away i (.inl hc)
    · exact h.away j (other j hji ▸ hj)
  · rw [slotOf]
    by_cases hji : i = j
    · subst hji; simp at hj
    · exact h.home j (other j hji ▸ hj)
  · rw [State.modControl_slot] at hk ⊢
    obtain ⟨j, hj, he⟩ := h.runs k hk
    have hji : i ≠ j := by rintro rfl; rw [hc] at he; cases he
    exact ⟨j, hj, by rw [other j hji]; exact he⟩
  · rw [State.modControl_slot] at hk ⊢; exact h.calls k hk
  · rw [slotOf]; exact h.waits e he hk

/-- The slot of a string whose setup is confirmed starts its round (R65, R83). -/
theorem State.BoundOk.setupConfirmed (h : s.BoundOk) (i : Str) (hc : (s.control i).state = .called) :
    (s.setupConfirmed i).BoundOk := by
  have k := (h.becomesEqualising i hc).markScan
  have he : (s.modControl i fun c => { c with state := .equalising, confirmLeft := none }).stateChanged i .called
      = (s.modControl i fun c => { c with state := .equalising, confirmLeft := none }).markScan := by
    unfold State.stateChanged
    exact if_pos (by simp [State.inState])
  unfold State.setupConfirmed State.onSlotOf
  dsimp only
  rw [he]
  split
  · next sl hsl =>
    have hs : (s.control i).slot = some sl := by simpa using hsl
    have hr : State.Ready (s.modControl i fun c => { c with state := .equalising, confirmLeft := none }).markScan sl :=
      ⟨k, ⟨i, (k.agree sl i).2 hsl, by simp⟩, by simpa using (h.idle hs (by simp [hc])).2⟩
    exact (State.Ready.startEntry 13 (hr.modSlot (fun r => { r with index := 0 }) fun _ => ⟨rfl, rfl⟩)).followSite
  · exact k

/-! ### Back-off, temperature and DIRECT requests (R57, R91, R93, R102) -/

theorem State.BoundOk.cutDirect (h : s.BoundOk) (sl : SlotId) : (s.cutDirect sl).BoundOk :=
  ((h.modSlot sl (fun r => { r with directI := 0, limit := 0, cut := true }) fun _ => ⟨rfl, rfl, rfl⟩).slotOrder sl
    .off).reviewReasons sl

theorem State.Ready.backOffStep {sl : SlotId} (h : s.Ready sl) : (s.backOffStep sl).BoundOk := by
  unfold State.backOffStep
  split
  · next l _ =>
    exact ((h.modSlot (fun r => { r with limit := l }) fun _ => ⟨rfl, rfl⟩).slotOrder _).bound.modSlot sl _
      fun _ => ⟨rfl, rfl, rfl⟩
  · exact (h.bound.cutDirect sl).ite (h.modSlot (fun r => { r with cut := true }) fun _ => ⟨rfl, rfl⟩).nextEntry

theorem State.BoundOk.cellVoltageArrives (h : s.BoundOk) (sl : SlotId) (mv : Nat) : (s.cellVoltageArrives sl mv).BoundOk := by
  unfold State.cellVoltageArrives
  dsimp only
  split
  · next hr =>
    obtain ⟨ha, -⟩ := hr
    have : (s.slot sl).entryState = some .run ∨ (s.slot sl).entryState = some .direct := by
      simpa [SlotRec.active] using ha
    exact (h.ready (by rcases this with e | e <;> simp [e]) (by rcases this with e | e <;> simp [e])).backOffStep
  · exact h

theorem State.BoundOk.temperatureArrives (h : s.BoundOk) (sl : SlotId) (ts : Option Int) :
    (s.temperatureArrives sl ts).BoundOk := by
  unfold State.temperatureArrives
  split
  · exact h
  · next t =>
    have k := h.modSlot sl (fun r => { r with tc := some t }) fun _ => ⟨rfl, rfl, rfl⟩
    dsimp only
    refine State.BoundOk.reviewReasons ?_ sl
    split
    · exact k.slotOrder sl _
    · exact k.slotOrder sl _
    · exact k.modSlot sl _ fun _ => ⟨rfl, rfl, rfl⟩
    · exact k

theorem State.BoundOk.directRequest (h : s.BoundOk) (sl : SlotId) (v i : Nat) : (s.directRequest sl v i).BoundOk := by
  have k := ((h.modSlot sl (fun r => { r with directV := clampNat v 2000 s.lim.cellCeilingMv, directI := min i 3000
                                              limit := min i 3000 }) fun _ => ⟨rfl, rfl, rfl⟩).followSite).judgeReasons sl
  unfold State.directRequest
  dsimp only
  split
  · exact k.slotEnds sl _
  · split
    · next he => exact ((k.ready (by simp [he]) (by simp [he])).suspend _ _).ite (k.slotOrder sl _)
    · next he =>
      split
      · exact k.modSlot sl _ fun _ => ⟨rfl, rfl, rfl⟩
      · exact (k.ready (by simp [he]) (by simp [he])).resume
    · exact k

theorem State.BoundOk.reportToSlot (h : s.BoundOk) (i : Str) : (s.reportToSlot i).BoundOk := by
  unfold State.reportToSlot
  split
  · exact h.endWaterWait _
  · exact h

/-! ### Accounts (R22 to R39) -/

theorem State.BoundOk.accrueWater (h : s.BoundOk) (i : Str) (mg : Nat) : (s.accrueWater i mg).BoundOk :=
  h.ite (State.BoundOk.foldl _ (fun _ _ k => k.modCell _ _) _ h)

theorem State.BoundOk.accountChanged (h : s.BoundOk) (i : Str) (old : Charge) : (s.accountChanged i old).BoundOk :=
  have k := h.markScan.ite h
  State.BoundOk.ite k (k.markScan.judgeSpreadTimer i)

theorem State.BoundOk.integrateReading (h : s.BoundOk) (i : Str) (a : Int) : (s.integrateReading i a).BoundOk := by
  unfold State.integrateReading
  extract_lets old cfg cut r s1 s2 s3 s4 s5 s6 s7
  have h2 : s2.BoundOk := by
    dsimp only [s2]
    split
    · exact State.BoundOk.modControl (h.modCharge i _) i _ fun _ => ⟨rfl, rfl⟩
    · exact h.modCharge i _
  have h3 : s3.BoundOk := h2.accrueWater i _
  have h4 : s4.BoundOk := (h3.modCharge i _).ite h3
  have h5 : s5.BoundOk := (h4.modCharge i _).ite h3
  have h6 : s6.BoundOk := h5.accountChanged i old
  refine State.BoundOk.rejudgeDischarge ?_
  dsimp only [s7]
  split
  · exact h6.judgeCriterion _
  · exact h6

theorem State.BoundOk.clearHoldoff (h : s.BoundOk) (i : Str) : (s.clearHoldoff i).BoundOk := by
  unfold State.clearHoldoff
  split
  · exact (h.modControl i (fun c => { c with holdoffUntil := none }) fun _ => ⟨rfl, rfl⟩).ite h
  · exact h

/-- An EQUALISE entry joins for its due reason only while its string holds no slot (R37). -/
theorem State.BoundOk.evaluateDue (h : s.BoundOk) (i : Str) : (s.evaluateDue i).BoundOk := by
  unfold State.evaluateDue
  split
  · next he =>
    split
    · refine h.enqueue _ fun _ => ?_
      simp only [State.evaluated, State.bound, Bool.and_eq_true, Bool.not_eq_true', Option.isSome_eq_false_iff,
        Option.isNone_iff_eq_none] at he
      exact he.2
    · exact h
  · exact h

theorem State.BoundOk.judgeWaterDue (h : s.BoundOk) (i : Str) : (s.judgeWaterDue i).BoundOk :=
  (h.enqueue _ (by simp)).ite h

/-! ### The Watering Unit (R125 to R139) -/

theorem State.BoundOk.handValve (h : s.BoundOk) (i : Str) (a : List Alter) : (s.handValve i a).BoundOk := by
  unfold State.handValve
  exact .modWater (.handOrder h _) _

theorem State.BoundOk.accountClose (h : s.BoundOk) (i : Str) (p : Pos) (ml : Nat) (o : Bool) :
    (s.accountClose i p ml o).BoundOk := by
  unfold State.accountClose
  exact .modWater (.modCell (.modWater h _) _ _) _

theorem State.BoundOk.closeValve (h : s.BoundOk) (i : Str) (p : Pos) (ml : Nat) (o : Bool) : (s.closeValve i p ml o).BoundOk := by
  have k := ((h.handValve i (closings [p])).modWater fun w =>
    { w with openSet := w.openSet.filter (· != p) }).accountClose i p ml o
  unfold State.closeValve State.startGap
  exact .ite (.modWater k _) k

theorem State.BoundOk.endWatering (h : s.BoundOk) (i : Str) (c : EndReason) : (s.endWatering i c).BoundOk := by
  have k := (h.modWater Water.ended).modControl i (fun x => { x with lastWaterOutcome := some (s.water.outcome c s.mgmt.clock) })
    fun _ => ⟨rfl, rfl⟩
  exact ((k.ite (k.notice _)).reportToSlot i).markScan.markCommit

theorem State.BoundOk.accountOpen (h : s.BoundOk) (i : Str) : (s.accountOpen i).BoundOk := by
  unfold State.accountOpen
  refine State.BoundOk.foldl _ (fun u p k => ?_) _ h
  split
  · exact k.accountClose i p _ _
  · exact k

theorem State.BoundOk.endWateringEarly (h : s.BoundOk) (c : EndReason) : (s.endWateringEarly c).BoundOk := by
  unfold State.endWateringEarly
  split
  · exact h
  · next i _ => exact h.ite ((((h.handValve i _).accountOpen i).ite h).endWatering i c)

theorem State.BoundOk.restartWatering (h : s.BoundOk) : s.restartWatering.BoundOk := by
  unfold State.restartWatering
  split
  · exact h
  · next i _ => exact h.ite ((((h.modWater _).handValve i _).accountOpen i).endWatering i .restart)

theorem State.BoundOk.formGroup (h : s.BoundOk) (i : Str) : (s.formGroup i).BoundOk := by
  unfold State.formGroup
  exact .ite (h.endWatering i _) (.modWater (h.handValve i _) _)

theorem State.BoundOk.nothingToWater (h : s.BoundOk) (i : Str) (r : Reason) : (s.nothingToWater i r).BoundOk := by
  unfold State.nothingToWater State.noticeNothing
  refine .reportToSlot (.notice ?_ _) i
  exact h.modControl i _ fun _ => ⟨rfl, rfl⟩

theorem State.BoundOk.beginWatering (h : s.BoundOk) (i : Str) (r : Reason) : (s.beginWatering i r).BoundOk := by
  have k := h.modWater fun w => { w with roundCut := false, cellsDosed := 0, roundMl := 0 }
  unfold State.beginWatering State.noticeStarted
  dsimp only
  split
  · exact k.nothingToWater i r
  · exact .formGroup (.notice (.modWater k _) _) i

theorem State.BoundOk.endGap (h : s.BoundOk) (i : Str) : (s.endGap i).BoundOk := by
  have k := h.modWater fun w => { w with gapEnd := none }
  unfold State.endGap
  exact .ite (k.endWatering i _) (k.formGroup i)

theorem State.BoundOk.orderSent (h : s.BoundOk) (n : Nat) (f : Frame) : (s.orderSent n f).BoundOk := by
  unfold State.orderSent
  exact .modWater h _

theorem State.BoundOk.highArrives (h : s.BoundOk) (i : Str) (p : Pos) : (s.highArrives i p).BoundOk := by
  unfold State.highArrives
  split
  · split
    · split
      · exact (h.modWater _).closeValve i p _ _
      · exact h
    · exact h.modWater _
  · exact h

theorem State.BoundOk.levelArrives (h : s.BoundOk) (i : Str) (p : Pos) (l : Level) : (s.levelArrives i p l).BoundOk := by
  have k : State.BoundOk (if l = .high then s.highArrives i p else s) := .ite (h.highArrives i p) h
  unfold State.levelArrives
  exact .ite (.modCell k _ _) k

theorem State.BoundOk.deadlineExpires (h : s.BoundOk) (i : CellIx) : (s.deadlineExpires i).BoundOk := by
  have k := h.modCell i Cell.deadlineExpired
  unfold State.deadlineExpires State.noticeCell
  exact .ite (.ite (.notice (.notice k _) _) (.notice k _)) k

theorem State.BoundOk.setReservoir (h : s.BoundOk) (ml : Nat) : (s.setReservoir ml).BoundOk := by
  unfold State.setReservoir
  exact .ite (.markScan (.modWater h _)) (.modWater h _)

/-! ### The Scheduler (R63, R64, R82, R113 to R118) -/

/-- A free slot and a string that holds none are bound to each other, the string in CALLED and the slot at rest (R63, R82). -/
theorem State.BoundOk.binds {i : Str} {sl : SlotId} (h : s.BoundOk) (hi : (s.control i).slot = none)
    (hs : (s.slot sl).string = none) (hc : (t.control i).slot = some sl) (hst : (t.control i).state = .called)
    (hsl : (t.slot sl).string = some i) (hr : (t.slot sl).entryState = none) (hw : (t.slot sl).waterCalled = false)
    (ho : ∀ j, j ≠ i → t.control j = s.control j) (hso : ∀ k, k ≠ sl → t.slot k = s.slot k)
    (hq : ∀ e ∈ t.queue, e ∈ s.queue ∧ ¬ (e.string = i ∧ e.kind = .equalise)) : t.BoundOk := by
  refine ⟨fun k j => ?_, fun j hj => ?_, fun j hj => ?_, fun k hk => ?_, fun k hk => ?_, fun e he hk => ?_⟩
  · by_cases hk : k = sl
    · subst hk
      by_cases hj : j = i
      · subst hj; simp [hsl, hc]
      · rw [ho j hj, hsl, ← h.agree k j, hs]
        simp [Ne.symm hj]
    · rw [hso k hk]
      by_cases hj : j = i
      · subst hj
        rw [h.agree k j, hi, hc]
        simp [Ne.symm hk]
      · rw [ho j hj]; exact h.agree k j
  · by_cases hji : j = i
    · subst hji; simp [hc]
    · rw [ho j hji] at hj ⊢; exact h.away j hj
  · by_cases hji : j = i
    · subst hji; simp [hst] at hj
    · rw [ho j hji] at hj ⊢; exact h.home j hj
  · by_cases hks : k = sl
    · subst hks; exact absurd hr hk
    · rw [hso k hks] at hk ⊢
      obtain ⟨j, hj, he⟩ := h.runs k hk
      have hji : j ≠ i := by
        rintro rfl
        rw [(h.agree k j).1 hj] at hi; cases hi
      exact ⟨j, hj, by rw [ho j hji]; exact he⟩
  · by_cases hks : k = sl
    · subst hks; rw [hw] at hk; cases hk
    · rw [hso k hks] at hk ⊢; exact h.calls k hk
  · obtain ⟨hes, hen⟩ := hq e he
    have hei : e.string ≠ i := fun hi => hen ⟨hi, hk⟩
    rw [ho _ hei]; exact h.waits e hes hk

theorem State.BoundOk.setup (h : s.BoundOk) (i : Str) : (s.setup i).BoundOk := by
  unfold State.setup
  refine .modControl ?_ i _ fun _ => ⟨rfl, rfl⟩
  exact (h.stringRect i _).handContactor i _

/-- The string out of the queue, in CALLED, with the slot that takes it (R63, R82, R116). -/
def State.calledIn (s : State) (e : Entry) (sl : SlotId) : State :=
  let t := (s.removeEntry e.string .equalise).modControl e.string fun c => c.bind sl s.mgmt.clock
  t.modSlot sl fun _ => boundSlot s.lim e (t.reading e.string).ts

theorem admitEqualise_eq (s : State) (e : Entry) (sl : SlotId) : s.admitEqualise e sl
    = (((s.calledIn e sl).setup e.string).noticeStarted e.string .equalise (some sl) (some e.reason)).stateChanged e.string
      (s.control e.string).state := rfl

theorem State.BoundOk.calledIn (h : s.BoundOk) (e : Entry) (sl : SlotId) (hi : (s.control e.string).slot = none)
    (hs : (s.slot sl).string = none) : (s.calledIn e sl).BoundOk := by
  unfold State.calledIn
  refine h.binds (i := e.string) (sl := sl) hi hs ?_ ?_ ?_ ?_ ?_ ?_ ?_ ?_
  · simp [Control.bind]
  · simp [Control.bind]
  · rw [State.modSlot_slot]; rfl
  · rw [State.modSlot_slot]; rfl
  · rw [State.modSlot_slot]; rfl
  · intro j hj
    rw [State.modSlot_control, State.modControl_control_ne _ (Ne.symm hj)]
    rfl
  · intro k hk
    rw [State.modSlot_slot_ne _ hk, State.modControl_slot]
    rfl
  · intro x hx
    have hx : x ∈ (s.removeEntry e.string .equalise).queue := by simpa using hx
    obtain ⟨hm, hn⟩ := List.mem_filter.1 hx
    exact ⟨hm, fun hxe => by simp [(Entry.named_iff ..).2 hxe] at hn⟩

theorem State.BoundOk.admitEqualise (h : s.BoundOk) (e : Entry) (sl : SlotId) (hi : (s.control e.string).slot = none)
    (hs : (s.slot sl).string = none) : (s.admitEqualise e sl).BoundOk := by
  rw [admitEqualise_eq]
  exact (((h.calledIn e sl hi hs).setup e.string).noticeStarted _ _ _ _).stateChanged _ _

theorem State.BoundOk.admitWater (h : s.BoundOk) (e : Entry) : (s.admitWater e).BoundOk :=
  State.BoundOk.withMarks ((h.removeEntry e.string .water).beginWatering e.string e.reason) _

theorem freeSlot?_free {sl : SlotId} (h : s.freeSlot? = some sl) : s.slotFree sl = true := by
  simpa using List.find?_some h

theorem State.BoundOk.scanEntry {c : ScanState} (h : c.state.BoundOk) (b : Bool) (key : Str × RoundKind) :
    (scanEntry b c key).state.BoundOk := by
  unfold Sys2Proof.Machine.scanEntry
  split
  · exact h
  · next e he =>
    split
    · split
      · next sl hsl =>
        split
        · next ha =>
          have hf : (c.state.slot sl).string = none := by
            have := freeSlot?_free hsl
            simp only [State.slotFree, Bool.and_eq_true, Option.isNone_iff_eq_none] at this
            exact this.2
          have hb : (c.state.control e.string).state = .onBus := by
            simp only [State.equaliseString, State.inState, Bool.and_eq_true, beq_iff_eq] at ha
            tauto
          exact (h.admitEqualise e sl (h.home _ (.inl hb)) hf).withMarks _
        · exact h
      · exact h
    · split
      · exact h.admitWater e
      · exact h

theorem State.BoundOk.scanOnce (h : s.BoundOk) (b : Bool) : (s.scanOnce b).BoundOk := by
  unfold State.scanOnce
  have key : ∀ (l : List (Str × RoundKind)) (c : ScanState), c.state.BoundOk →
      (l.foldl (Sys2Proof.Machine.scanEntry b) c).state.BoundOk := by
    intro l
    induction l with
    | nil => exact fun c h => h
    | cons k l ih => exact fun c h => ih _ (h.scanEntry b k)
  exact key _ _ h

theorem State.BoundOk.runScans (n : Nat) : ∀ {s : State}, s.BoundOk → (s.runScans n).BoundOk := by
  induction n with
  | zero => exact fun h => h.withMarks _
  | succ n ih =>
    intro s h
    unfold State.runScans
    split
    · exact ih ((h.withMarks _).scanOnce _)
    · exact h

theorem State.BoundOk.scan (h : s.BoundOk) : s.scan.BoundOk := .runScans scanFuel h

/-! ### The Record Store (R4 to R18, R65, R69, R75) -/

theorem State.BoundOk.onSlotOf (h : s.BoundOk) (i : Str) {f : SlotId → State → State} (hf : ∀ k, (f k s).BoundOk) :
    (s.onSlotOf i f).BoundOk := by
  unfold State.onSlotOf
  split
  · exact hf _
  · exact h

theorem State.BoundOk.recompute (h : s.BoundOk) (i : Str) : (s.recompute i).BoundOk := h.modReading i _

theorem State.BoundOk.handDerived (h : s.BoundOk) (i : Str) (old : Reading) : (s.handDerived i old).BoundOk := by
  have h1 : (s.handFreshCells i old (s.reading i)).BoundOk := by
    unfold State.handFreshCells
    split
    · exact h
    · exact h.markScan.onSlotOf i fun k => h.markScan.reviewReasons k
  have h2 : ((s.handFreshCells i old (s.reading i)).handTs i old (s.reading i)).BoundOk := by
    unfold State.handTs
    split
    · exact h1
    · exact h1.markScan.onSlotOf i fun k => h1.markScan.temperatureArrives k _
  rw [handDerived_eq]
  unfold State.handSpread
  split
  · exact h2
  · exact (h2.judgeSpreadTimer i).onSlotOf i fun k => (h2.judgeSpreadTimer i).judgeCriterion k

theorem State.BoundOk.handDry (h : s.BoundOk) (i : Str) (old : Reading) : (s.handDry i old).BoundOk :=
  h.ite ((h.markScan.judgeWaterDue i).ite h.markScan)

theorem State.BoundOk.absorbCell (h : s.BoundOk) (i : Str) (p : Pos) (r : CellReading) : (s.absorbCell i p r).BoundOk := by
  unfold State.absorbCell
  split
  · exact h
  · extract_lets lv ol old s1 s2 s3 s4 s5
    have h1 : s1.BoundOk := (h.modCell _ _).recompute i
    have h2 : s2.BoundOk := (h1.notice _).ite h1
    have h3 : s3.BoundOk := by
      dsimp only [s3]
      split
      · exact h2.onSlotOf i fun k => h2.cellVoltageArrives k _
      · exact h2
    have h4 : s4.BoundOk := h3.handDerived i old
    refine State.BoundOk.handDry ?_ i old
    dsimp only [s5]
    clear_value lv
    split
    · exact h4.levelArrives i p _
    · exact h4

theorem State.BoundOk.absorbShunt (h : s.BoundOk) (i : Str) (r : ShuntReading) : (s.absorbShunt i r).BoundOk := by
  unfold State.absorbShunt
  split
  · exact h
  · extract_lets b s1 s2 s3
    have h1 : s1.BoundOk := by
      dsimp only [s1]
      split
      · split
        · exact (h.modReading i _).withBus _
        · exact h.modReading i _
      · exact h
    have h2 : s2.BoundOk := h1.integrateReading i _
    exact State.BoundOk.handBus ((h2.judgeWindow i).ite h2) b

theorem State.BoundOk.positionArrives (h : s.BoundOk) (i : Str) (c : Contact) : (s.positionArrives i c).BoundOk := by
  unfold State.positionArrives
  split
  · exact h.enterFaulted i
  · exact h.enterFaulted i
  · exact h.enterFaulted i
  · exact h.setupConfirmed i ‹_›
  · exact h.enterFaulted i
  · exact h.busInEqualising i
  · exact h.enterFaulted i
  · exact h.completeReturn i
  · exact h

theorem State.BoundOk.absorbPosition (h : s.BoundOk) (i : Str) (r : PositionReading) : (s.absorbPosition i r).BoundOk := by
  unfold State.absorbPosition
  split
  · exact h
  · split
    · exact (h.modReading i _).positionArrives i _
    · exact h

theorem State.BoundOk.absorb (h : s.BoundOk) (f : Frame) : (s.absorb f).BoundOk := by
  unfold State.absorb
  split
  · split
    · split
      · exact h.absorbCell ..
      · exact h
    · exact h
  · split
    · split
      · exact h.absorbShunt ..
      · exact h
    · exact h
  · split
    · split
      · exact h.absorbPosition ..
      · exact h
    · exact h
  · exact h

theorem State.BoundOk.becomeStale (h : s.BoundOk) (m : Measured) : (s.becomeStale m).BoundOk := by
  unfold State.becomeStale
  split
  · exact (((h.modCell _ _).recompute _).handDerived _ _).handDry _ _
  · exact (((h.modCell _ _).recompute _).handDerived _ _).handDry _ _
  · exact (h.modReading _ _).recomputeBus.ite (h.modReading _ _)

/-! ### Site events and sight (R120 to R122, R144 to R154, R168 to R170, R186) -/

theorem State.BoundOk.genRequest (h : s.BoundOk) : s.genRequest.BoundOk :=
  State.BoundOk.ite (((h.modSite _).modSite _).ite ((h.modSite _).modSite _)) h

theorem State.BoundOk.gasTrips (h : s.BoundOk) : s.gasTrips.BoundOk := by
  have k := ((h.modSite fun t => { t with gasLatch := true }).eachStr (f := fun i s => s.endCause i .gas) fun i _ k =>
    k.endCause i .gas).endWateringEarly .gas
  exact h.ite ((k.modRing _).notice _)

theorem State.BoundOk.srcChanges (h : s.BoundOk) : s.srcChanges.BoundOk :=
  have k := h.eachSlot (f := fun sl s => s.reviewReasons sl) fun sl _ k => k.reviewReasons sl
  State.BoundOk.ite (k.modSite _) k

theorem State.BoundOk.reslowRises (h : s.BoundOk) : s.reslowRises.BoundOk := (h.endWateringEarly .reslow).setReservoir _

theorem State.BoundOk.endTriggered (h : s.BoundOk) (c : EndReason) : (s.endTriggered c).BoundOk :=
  h.eachStr fun i _ k => (k.endCause i c).ite k

theorem State.BoundOk.withTrig (h : s.BoundOk) (b : Bool) : State.BoundOk { s with trigLevel := b } := h.congr rfl rfl rfl rfl

theorem State.BoundOk.trigChanges (h : s.BoundOk) (b : Bool) : (s.trigChanges b).BoundOk := by
  have k := h.withTrig b
  unfold State.trigChanges
  refine State.BoundOk.markScan ?_
  split
  · exact (k.endTriggered _).ite (k.withMarks _)
  · exact k.endTriggered _
  · exact k

theorem State.BoundOk.fanFails (h : s.BoundOk) : s.fanFails.BoundOk :=
  State.BoundOk.notice ((h.modSite fun t => { t with fanFail := true, lowWindows := 0 }).eachSlot fun sl _ k =>
    (k.slotEnds sl .fanFail).ite k) _

theorem State.BoundOk.windowEnds (h : s.BoundOk) (w : TachWindow) : (s.windowEnds w).BoundOk := by
  have k := h.modSite fun t => { t.judgeWindow s.lim.fanMinRate w.count with window := some ⟨w.start + 1000, 0⟩ }
  exact k.fanFails.ite (((k.modSite _).markScan).ite k)

theorem State.BoundOk.allowanceExhausted (h : s.BoundOk) : s.allowanceExhausted.BoundOk :=
  h.eachSlot fun sl _ k => (k.slotEnds sl .allowance).ite k

theorem State.BoundOk.allowanceMinute (h : s.BoundOk) (b : Bool) : (s.allowanceMinute b).BoundOk := by
  have k := h.modSite fun t => { t with allowance := t.allowance - 1 }
  unfold State.allowanceMinute
  refine State.BoundOk.modSite ?_ _
  split
  · exact h.modSite _
  · exact (k.allowanceExhausted.ite k).ite h

theorem State.BoundOk.accountMinute (h : s.BoundOk) (b : Bool) : (s.accountMinute b).BoundOk := by
  have h1 : State.BoundOk (if b then s.eachStr fun i s => if s.present i then
      s.modCharge i fun c => { c with daysSinceEq := satAdd sat16 c.daysSinceEq 1 } else s else s) := by
    split
    · refine h.eachStr fun i u k => ?_
      · split
        · exact k.modCharge i _
        · exact k
    · exact h
  exact ((h1.eachStr fun i _ k => k.clearHoldoff i).eachStr fun i _ k => k.evaluateDue i).eachStr fun i _ k => k.judgeWaterDue i

theorem State.BoundOk.minutePasses (h : s.BoundOk) : s.minutePasses.BoundOk :=
  (((h.modMgmt _).accountMinute _).allowanceMinute _).markScan

theorem State.BoundOk.restoreSight (h : s.BoundOk) (b : Bool) : (s.restoreSight b).BoundOk := by
  have k := (((h.modRing fun r => { r with sight := .seeing, repeatDue := none }).followSite).eachSlot
    (f := fun sl s => s.reviewReasons sl) fun sl _ k => k.reviewReasons sl).markScan
  unfold State.restoreSight State.noticeAlarm
  exact .ite h (.ite (.notice k _) k)

theorem State.BoundOk.goWarn (h : s.BoundOk) : s.goWarn.BoundOk :=
  (h.modRing fun r => { r with sight := .warn }).eachSlot fun sl _ k => k.reviewReasons sl

theorem State.BoundOk.blindOrders (h : s.BoundOk) : s.blindOrders.BoundOk := by
  refine State.BoundOk.modRing (h.eachStr fun i _ k => ?_) _
  split
  · exact ((k.handRect _ _).handContactor _ _).ite k
  · exact k

theorem State.BoundOk.goBlind (h : s.BoundOk) : s.goBlind.BoundOk := by
  have k := ((h.modRing fun r => { r with sight := .blind }).eachStr (f := fun i s => s.endCause i .blind) fun i _ k =>
    k.endCause i .blind).endWateringEarly .blind
  have j := k.eachSlot (f := fun sl s => s.reviewReasons sl) fun sl _ k => k.reviewReasons sl
  unfold State.goBlind
  extract_lets w s1 s2 s3 s4 s5
  have h4 : s4.BoundOk := j.ite k
  have h5 : s5.BoundOk := h4.notice _
  exact h5.blindOrders.ite h5

theorem State.BoundOk.reviewSilence (h : s.BoundOk) : s.reviewSilence.BoundOk := h.goBlind.ite (h.goWarn.ite h)

/-! ### Commits (R13, R20, R41, R80, R112, R181) -/

theorem State.BoundOk.recomputeAll (h : s.BoundOk) : s.recomputeAll.BoundOk :=
  State.BoundOk.recomputeBus (h.eachStr fun i _ k => (((k.recompute i).handDerived i _).handDry i _).ite k)

theorem State.BoundOk.staleChanged (h : s.BoundOk) (b : Nat) : (s.staleChanged b).BoundOk := by
  unfold State.staleChanged
  split
  · exact h
  · refine State.BoundOk.recomputeAll (h.same (fun i => ?_) (fun k => ⟨?_, ?_, ?_⟩) fun e he hk => ⟨e, he, hk, rfl⟩)
    · simp only [State.control, State.str, mapVector_get, and_self]
    all_goals cases k <;> rfl

theorem State.BoundOk.limitsApplied (h : s.BoundOk) (b : Nat) : (s.limitsApplied b).BoundOk :=
  State.BoundOk.reviewSilence (((h.staleChanged b).setReservoir _).modSite _)

theorem State.BoundOk.removeAtCommit (h : s.BoundOk) (g d : Entry → Bool) : (s.removeAtCommit g d).BoundOk :=
  State.BoundOk.foldl _ (fun _ _ k => k.notice _) _ (h.filterQueue _)

/-- No string holds a slot, none is away from the bus, and the slots are at rest: what STRING images are applied in (R178, R181). -/
structure State.AllHome (s : State) : Prop where
  unbound : ∀ i, (s.control i).slot = none
  home : ∀ i, (s.control i).state ≠ .called ∧ (s.control i).state ≠ .equalising ∧ (s.control i).state ≠ .returning
  rest : ∀ k, (s.slot k).string = none ∧ (s.slot k).entryState = none ∧ (s.slot k).waterCalled = false

theorem State.AllHome.bound (h : s.AllHome) : s.BoundOk where
  agree k i := by simp [h.unbound i, (h.rest k).1]
  away i hi := absurd hi (by have := h.home i; tauto)
  home i _ := h.unbound i
  runs k hk := absurd (h.rest k).2.1 hk
  calls k hk := by rw [(h.rest k).2.2] at hk; cases hk
  waits e _ _ := h.unbound e.string

theorem State.BoundOk.allHome (h : s.BoundOk) (hn : ∀ i, (s.control i).slot = none) : s.AllHome := by
  have hs : ∀ k, (s.slot k).string = none := fun k => by
    by_contra hk
    obtain ⟨i, hi⟩ := Option.ne_none_iff_exists'.1 hk
    rw [h.agree k i, hn i] at hi
    cases hi
  have he : ∀ k, (s.slot k).entryState = none := fun k => by
    by_contra hk
    obtain ⟨i, hi, -⟩ := h.runs k hk
    rw [hs k] at hi; cases hi
  refine ⟨hn, fun i => ?_, fun k => ⟨hs k, he k, ?_⟩⟩
  · have := mt (h.away i)
    simp only [ne_eq, not_not, hn i, forall_const, not_or] at this
    exact this
  · by_contra hw
    have := h.calls k (by simpa using hw)
    rw [he k] at this; cases this

theorem commitControl_home (o n : StringCfg) {c : Control} (h : c.slot = none)
    (hs : c.state ≠ .called ∧ c.state ≠ .equalising ∧ c.state ≠ .returning) :
    (commitControl o n c).slot = none ∧ (commitControl o n c).state ≠ .called ∧ (commitControl o n c).state ≠ .equalising
      ∧ (commitControl o n c).state ≠ .returning := by
  unfold commitControl
  split
  · simp
  · split
    · simp
    · exact ⟨h, hs⟩

theorem State.AllHome.commitString (h : s.AllHome) (old : List Byte) (i : Str) : (s.commitString old i).AllHome := by
  obtain ⟨hb, hr, -⟩ := commitString_records s old i
  generalize s.commitString old i = t at hb hr
  have hs : ∀ k, t.slot k = s.slot k := fun k => by
    rw [hb]; cases k <;> rfl
  have hc : ∀ j, (t.control j).slot = none ∧ (t.control j).state ≠ .called ∧ (t.control j).state ≠ .equalising
      ∧ (t.control j).state ≠ .returning := fun j => by
    rw [State.control, hr j]
    split
    · exact commitControl_home _ _ (h.unbound j) (h.home j)
    · exact ⟨h.unbound j, h.home j⟩
  exact ⟨fun j => (hc j).1, fun j => (hc j).2, fun k => by rw [hs]; exact h.rest k⟩

theorem State.BoundOk.stringsApplied (h : s.BoundOk) (hn : ∀ i, (s.control i).slot = none) (old : List Byte) :
    (s.stringsApplied old).BoundOk := by
  have k : (s.eachStr fun i s => s.commitString old i).AllHome :=
    eachStr_preserves (P := State.AllHome) (fun i _ k => k.commitString old i) (h.allHome hn)
  exact State.BoundOk.removeAtCommit (State.BoundOk.rejudgeDischarge (k.bound.recomputeAll.eachStr fun i _ k =>
    (k.judgeSpreadTimer i).ite k)) _ _

/-- An image is applied only while no string holds a slot (R178, R181). -/
theorem State.BoundOk.applyImage (h : s.BoundOk) (hm : s.mayApply = true) (t : TableId) (b : List Byte) :
    (s.applyImage t b).BoundOk := by
  have hn := ((State.mayApply_iff s).1 hm).2
  have k : State.BoundOk ({ s with images := s.images.put t b }.modMgmt fun m => { m with loaded := m.loaded.add t }) :=
    h.congr rfl rfl rfl rfl
  have kb : State.BoundOk (({ s with images := s.images.put t b }.modMgmt fun m => { m with loaded := m.loaded.add t }).blocksAct t
      (s.images.get t) s.staleMs) := by
    unfold State.blocksAct
    split
    · exact k.limitsApplied _
    · exact k.stringsApplied hn _
    · exact k.removeAtCommit _ _
    · exact k.removeAtCommit _ _
    · exact k.modRing _
  have ke := kb.modMgmt Mgmt.emptied
  unfold State.applyImage State.engage
  exact .markScan (.ite (.markScan (.modMgmt ke _)) ke)

theorem State.BoundOk.applyPending (h : s.BoundOk) : s.applyPending.BoundOk := by
  unfold State.applyPending
  split
  · next hc _ =>
    simp only [Bool.and_eq_true] at hc
    exact h.applyImage hc.2 _ _
  · exact h

theorem State.BoundOk.deferredCommit (h : s.BoundOk) : s.deferredCommit.BoundOk :=
  State.BoundOk.ite (h.withMarks _).applyPending (h.withMarks _)

theorem State.BoundOk.settle (h : s.BoundOk) : s.settle.BoundOk :=
  ((h.followSite.deferredCommit.followSite.scan.followSite).modRing _).withMarks _

/-! ### Requests (R174 to R187) -/

theorem State.BoundOk.standingOrders (h : s.BoundOk) (i : Str) : (s.standingOrders i).BoundOk := by
  unfold State.standingOrders
  extract_lets c t
  have ht : t.BoundOk := by
    dsimp only [t]
    split
    · exact h.stringRect i _
    · exact h
  exact h.ite ((h.stringRect i .off).ite ((ht.handContactor i targetBus).ite ht))

theorem State.BoundOk.restartRest (h : s.BoundOk) : s.restartRest.BoundOk := by
  have k : s.genIdle.forgetTimes.BoundOk := (h.modSite _).eachStr fun i _ k => k.modCharge i _
  have kc : s.genIdle.forgetTimes.restartCleared.BoundOk := by
    generalize s.genIdle.forgetTimes = t at k
    have kq : State.BoundOk { t with queue := [] } :=
      k.same (fun _ => ⟨rfl, rfl⟩) (fun _ => ⟨rfl, rfl, rfl⟩) fun e he => by cases he
    unfold State.restartCleared State.discardStaging
    exact ((State.BoundOk.ite (kq.modMgmt _).markScan (kq.modMgmt _)).modMgmt _).modRing _
  unfold State.restartRest
  exact State.BoundOk.modRing (kc.restoreSight false) _

theorem State.BoundOk.warmRestart (h : s.BoundOk) : s.warmRestart.BoundOk := by
  have k : (s.modRing Ring.emptied).restartEnds.standAll.BoundOk :=
    ((h.modRing _).eachStr fun i _ k => k.endCause i .restart).eachStr fun i _ k => k.standingOrders i
  rw [warmRestart_eq]
  exact ((k.modWater _).restartWatering).restartRest

theorem State.BoundOk.excludeStr (h : s.BoundOk) (i : Str) (hm : s.mayExclude i = true) : (s.excludeStr i).BoundOk := by
  have hn : (s.control i).slot = none := by
    obtain ⟨ho | ⟨-, hn⟩, -⟩ := (State.mayExclude_iff s i).1 hm
    · exact h.home i (.inl ho)
    · exact hn
  exact (((h.removeEntry i .equalise).removeEntry i .water).putHome i .out hn (.inr rfl)).stateChanged i _

theorem State.BoundOk.withStr (h : s.BoundOk) (b : Byte) {f : Str → Answer} (hf : ∀ i, (f i).state.BoundOk) :
    (s.withStr b f).state.BoundOk := by
  unfold State.withStr
  split
  · split
    · exact hf _
    · exact h
  · exact h

theorem State.BoundOk.askEnqueue (h : s.BoundOk) (a b c d : Byte) : (s.askEnqueue a b c d).state.BoundOk := by
  refine h.withStr a fun i => ?_
  split
  · next k p _ _ =>
    split
    · exact h
    · split
      · exact h
      · next hb =>
        refine h.enqueue _ fun hk => ?_
        have hk : k = .equalise := hk
        subst hk
        simp only [State.enqueueBarred, State.bound, Bool.or_eq_true, not_or, Bool.and_eq_true, not_and] at hb
        simpa [State.requestedEntry] using hb.1 (by decide)
  · exact h

theorem State.BoundOk.cancelEntry (h : s.BoundOk) (i : Str) (k : RoundKind) : (s.cancelEntry i k).BoundOk := by
  unfold State.cancelEntry
  dsimp only
  split
  · exact ((h.removeEntry i .water).markScan).reportToSlot i
  · exact (h.removeEntry i .equalise).markScan

theorem State.BoundOk.abortRounds (h : s.BoundOk) (i : Str) : (s.abortRounds i).BoundOk := by
  have k : State.BoundOk (if s.inRound i then s.endCause i .abortRequest else s) := (h.endCause i _).ite h
  exact (k.endWateringEarly _).ite k

theorem State.BoundOk.askClearFault (h : s.BoundOk) (b : Byte) : (s.askClearFault b).state.BoundOk := by
  refine h.withStr b fun i => ?_
  split
  · exact h
  · next hf =>
    have hf : (s.control i).state = .faulted := by simpa [State.inState] using hf
    split
    · exact h.toBusAndFree i
    · next hb => exact h.toBus i (by simpa [State.bound] using hb)
    · next hb =>
      refine h.startReturn i _ _ ?_ (by simp [hf])
      have : ((s.control i).slot).isSome = true := hb
      intro hn
      simp [hn] at this
    · exact h

theorem State.BoundOk.writeItems (h : s.BoundOk) (i : Str) (sel : Nat) (q : Int) (d : Nat) : (s.writeItems i sel q d).BoundOk := by
  unfold State.writeItems
  extract_lets old s1 s2 s3
  have h1 : s1.BoundOk := (h.modCharge i _).ite h
  have h2 : s2.BoundOk := (h1.modCharge i _).ite h1
  have h3 : s3.BoundOk := by
    dsimp only [s3]
    split
    · exact h2.modControl i _ fun _ => ⟨rfl, rfl⟩
    · exact h2
  exact h3.accountChanged i old

theorem State.BoundOk.askWrite (h : s.BoundOk) (a : List Byte) : (s.askWrite a).state.BoundOk := by
  have hcell : ∀ ix mg, (s.writeCell ix mg).state.BoundOk := fun ix mg => by
    unfold State.writeCell
    split
    · split
      · exact (h.modCell _ _).modMgmt _
      · exact h
    · exact h
  have hstr : ∀ ix sel q d, (s.writeString ix sel q d).state.BoundOk := fun ix sel q d => by
    unfold State.writeString
    split
    · split
      · exact (h.writeItems _ _ _ _).modMgmt _
      · exact h
    · exact h
  unfold State.askWrite
  dsimp only
  split
  · split
    · exact h
    · exact hcell ..
  · split
    · exact h
    · exact hstr ..
  · split <;> exact h
  · split <;> exact h

theorem State.BoundOk.askLoadCommit (h : s.BoundOk) : s.askLoadCommit.state.BoundOk := by
  unfold State.askLoadCommit State.commitStaged
  split
  · split
    · split
      · exact h.congr rfl rfl rfl rfl
      · dsimp only
        split
        · next hm => exact h.applyImage hm _ _
        · exact h.congr rfl rfl rfl rfl
    · exact h
  · exact h

theorem State.BoundOk.askSetMode (h : s.BoundOk) (m : Byte) : (s.askSetMode m).state.BoundOk := by
  unfold State.askSetMode State.engage State.disengage
  (repeat' split) <;> exact h.congr rfl rfl rfl rfl

/-- Whatever a request asks, the bindings hold in the state it leaves. -/
theorem State.BoundOk.act (h : s.BoundOk) (r : Request) : (s.act r).state.BoundOk := by
  cases r with
  | status => exact h.congr rfl rfl rfl rfl
  | tableRead t o n => show (s.askTableRead t o n).state.BoundOk; unfold State.askTableRead; (repeat' split) <;> exact h
  | loadBegin t n =>
    show (s.askLoadBegin t n).state.BoundOk
    unfold State.askLoadBegin; (repeat' split) <;> exact h.congr rfl rfl rfl rfl
  | loadPart o d =>
    show (s.askLoadPart o d).state.BoundOk
    unfold State.askLoadPart; (repeat' split) <;> exact h.congr rfl rfl rfl rfl
  | loadCommit => exact h.askLoadCommit
  | loadDiscard => exact State.BoundOk.ite (h.modMgmt _).markScan (h.modMgmt _)
  | cursor sp ix =>
    show (s.askCursor sp ix).state.BoundOk
    unfold State.askCursor; (repeat' split) <;> exact h.congr rfl rfl rfl rfl
  | read n =>
    show (s.askRead n).state.BoundOk
    unfold State.askRead; dsimp only; (repeat' split) <;> exact h.congr rfl rfl rfl rfl
  | write a => exact h.askWrite a
  | hold => exact h.congr rfl rfl rfl rfl
  | release => show s.askRelease.state.BoundOk; unfold State.askRelease; split <;> exact h.congr rfl rfl rfl rfl
  | enqueue a b c d => exact h.askEnqueue a b c d
  | cancel a k =>
    show (s.askCancel a k).state.BoundOk
    unfold State.askCancel
    split
    · split
      · exact h.cancelEntry _ _
      · exact h
    · exact h
  | abort a =>
    refine h.withStr a fun i => ?_
    split
    · exact h.abortRounds i
    · exact h
  | direct a v i =>
    refine h.withStr a fun i => ?_
    split
    · exact h.directRequest _ _ _
    · exact h
  | excludeStr a =>
    refine h.withStr a fun i => ?_
    split
    · next hm => exact h.excludeStr i hm
    · exact h
  | includeStr a =>
    refine h.withStr a fun i => ?_
    split
    · next hm => exact h.toBus i (h.home i (.inr (.inl (by simpa [State.inState] using hm.1))))
    · exact h
  | clearFault a => exact h.askClearFault a
  | clearGas =>
    show s.askClearGas.state.BoundOk
    unfold State.askClearGas; (repeat' split) <;> exact h.congr rfl rfl rfl rfl
  | setTime d m =>
    show (s.askSetTime d m).state.BoundOk
    unfold State.askSetTime; split <;> exact h.congr rfl rfl rfl rfl
  | refill ml => exact h.setReservoir _
  | setMode m => exact h.askSetMode m
  | restart => exact h.warmRestart

theorem State.BoundOk.offer (h : s.BoundOk) (src : Byte) (p : Parsed) : (s.offer src p).BoundOk := by
  have k : (s.heldFor src).BoundOk := h.modRing _
  have ka : ((s.heldFor src).answer src p).state.BoundOk := by
    unfold State.answer
    split
    · exact k
    · split
      · exact k
      · exact k
      · exact k.act _
  unfold State.offer State.takeRequest
  split
  · exact State.BoundOk.modRing ka _
  · exact h.modRing _

/-! ### Frames (R157 to R163) -/

theorem State.BoundOk.passOn (h : s.BoundOk) (f : Frame) : (s.passOn f).BoundOk := by
  unfold State.passOn State.thinFrame State.forwardFrame State.setThin
  (repeat' split) <;> exact h.congr rfl rfl rfl rfl

theorem State.BoundOk.recall (h : s.BoundOk) (i : Str) (f : Frame) : (s.recall i f).BoundOk := by
  have k : (s.modControl i fun c => { c with heldOrder := some f }).BoundOk := h.modControl i _ fun _ => ⟨rfl, rfl⟩
  exact (k.endCause i .recall).ite k

theorem State.BoundOk.classify (h : s.BoundOk) (f : Frame) : (s.classify f).BoundOk := by
  unfold State.classify
  split
  · exact (h.offer _ _).ite h
  · split
    · exact (h.offer _ _).modRing _
    · unfold State.classifyOther
      split
      · exact h.modRing _
      · exact (h.modRing _).recall _ _
      · exact ((h.absorb f).passOn f).ite ((h.absorb f).modRing _)

theorem State.BoundOk.takeCheck (h : s.BoundOk) (b : Byte) : (s.takeCheck b).BoundOk := by
  unfold State.takeCheck
  split
  · unfold State.frameComplete
    dsimp only
    split
    · have k := (h.modRing fun r => { r with rx := .hunt }).modRing fun r => { r with lastGood := some s.now }
      exact State.BoundOk.classify (k.ite ((k.restoreSight true).scan.followSite)) _
    · exact (h.modRing _).modRing _
  · exact h

/-! ### The commands (R61, R63, R83, R87, R88, R100, R106) -/

theorem State.BoundOk.elapse (h : s.BoundOk) (dt : Nat) : (s.elapse dt).BoundOk := by
  suffices k : (s.begin dt).BoundOk from k.congr rfl rfl rfl rfl
  refine h.same (fun i => ?_) (fun k => ?_) fun e he hk => ⟨e, by simpa using he, hk, rfl⟩
  · rw [State.begin_control]
    split <;> exact ⟨rfl, rfl⟩
  · rw [State.begin_slot]
    unfold SlotRec.elapse
    split <;> exact ⟨rfl, rfl, rfl⟩

theorem State.BoundOk.begin (h : s.BoundOk) (dt : Nat) : (s.begin dt).BoundOk := (h.elapse dt).withMarks {}

theorem State.BoundOk.coldReset (s : State) (b : BitVec 2) : (s.coldReset b).BoundOk := by
  have hc : ∀ i, (s.coldReset b).control i = {} := fun i => by
    rw [State.control, show (s.coldReset b).str i = State.reset.str i from rfl, State.reset_str]
  have hs : ∀ k, (s.coldReset b).slot k = {} := fun k => by cases k <;> rfl
  refine State.AllHome.bound ⟨fun i => by rw [hc], fun i => ?_, fun k => ?_⟩
  · rw [hc]; decide
  · rw [hs]; exact ⟨rfl, rfl, rfl⟩

theorem event_boundOk {dt : Nat} {eff : State → State} (h : s.BoundOk) (e : event dt eff s = .next t)
    (k : ∀ u : State, u.BoundOk → (eff u).BoundOk) : t.BoundOk := by
  cases e
  exact (k _ (h.begin dt)).settle

theorem quietEvent_boundOk {dt : Nat} {eff : State → State} (h : s.BoundOk) (e : quietEvent dt eff s = .next t)
    (k : ∀ u : State, u.BoundOk → (eff u).BoundOk) : t.BoundOk := by
  cases e
  exact k _ (h.begin dt)

/-- An event keeps the bindings when its effect does wherever its condition holds; otherwise only the time passes (log 2). -/
theorem eventIf_boundOk {dt : Nat} {cond : State → Bool} {eff : State → State} (h : s.BoundOk)
    (e : eventIf dt cond eff s = .next t) (k : ∀ u : State, u.BoundOk → cond u = true → (eff u).BoundOk) : t.BoundOk := by
  unfold eventIf at e
  split at e
  · next hc =>
    cases e
    exact (k _ (h.begin dt) hc).settle
  · cases e
    exact h.begin dt

theorem request_boundOk {c : Instr} {src : Byte} {p : Parsed} (h : s.BoundOk) (hr : requestOf c = some (src, p))
    (e : exec c s = .next t) : t.BoundOk := by
  rw [exec_request hr] at e
  cases e
  exact ((h.begin _).offer src p).settle

/-- A running phase is an entry of the slot, and no water wait (R85, R92). -/
theorem State.BoundOk.runningPhase {sl : SlotId} {p : PhaseRec} (h : s.BoundOk) (hp : s.runningPhase sl = some p) : s.Ready sl := by
  unfold State.runningPhase at hp
  split at hp
  · next hr => exact h.ready (by simp [hr.1]) (by simp [hr.1])
  · cases hp

/-- Every command keeps strings and slots in agreement. -/
theorem exec_boundOk {c : Instr} (h : s.BoundOk) (e : exec c s = .next t) : t.BoundOk := by
  cases c with
  | coldReset dt straps => cases e; exact State.BoundOk.coldReset _ _
  | rawLineChange dt line high =>
    simp only [exec, execRawLineChange] at e
    exact quietEvent_boundOk h e fun u k => k.modSite _
  | srcChange dt =>
    simp only [exec, execSrcChange] at e
    exact eventIf_boundOk h e fun u k _ => (k.modSite _).srcChanges
  | gasRise dt =>
    simp only [exec, execGasRise] at e
    exact eventIf_boundOk h e fun u k _ => (k.modSite _).gasTrips
  | gasFall dt =>
    simp only [exec, execGasFall] at e
    exact eventIf_boundOk h e fun u k _ => k.modSite _
  | reslowRise dt =>
    simp only [exec, execReslowRise] at e
    exact eventIf_boundOk h e fun u k _ => (k.modSite _).reslowRises
  | reslowFall dt =>
    simp only [exec, execReslowFall] at e
    exact eventIf_boundOk h e fun u k _ => (k.modSite _).markScan
  | trigEdge dt =>
    simp only [exec, execTrigEdge] at e
    exact eventIf_boundOk h e fun u k _ => (k.modSite _).trigChanges _
  | tachEdge dt =>
    simp only [exec, execTachEdge] at e
    exact quietEvent_boundOk h e fun u k => k.modSite _
  | tachWindowEnd dt =>
    simp only [exec, execTachWindowEnd] at e
    refine eventIf_boundOk h e fun u k _ => ?_
    unfold State.takeWindowEnd
    split
    · exact k.windowEnds _
    · exact k
  | rxTimeout dt =>
    simp only [exec, execRxTimeout] at e
    exact eventIf_boundOk h e fun u k _ => k.modRing _
  | frameReceived dt check =>
    simp only [exec, execFrameReceived] at e
    exact eventIf_boundOk h e fun u k _ => k.takeCheck check
  | applyPendingCommit dt =>
    simp only [exec, execApplyPendingCommit] at e
    exact eventIf_boundOk h e fun u k _ => k.applyPending
  | siteMinute dt =>
    simp only [exec, execSiteMinute] at e
    exact eventIf_boundOk h e fun u k _ => k.minutePasses
  | freshnessExpiry dt value =>
    simp only [exec, execFreshnessExpiry] at e
    exact eventIf_boundOk h e fun u k _ => k.becomeStale value
  | dischargeHoldoffEnd dt =>
    simp only [exec, execDischargeHoldoffEnd] at e
    exact eventIf_boundOk h e fun u k _ => (k.withDischarge u.discharge none).markScan
  | confirmExpiry dt str =>
    simp only [exec, execConfirmExpiry] at e
    exact eventIf_boundOk h e fun u k _ => k.enterFaulted str
  | matchDeadline dt str =>
    simp only [exec, execMatchDeadline] at e
    exact eventIf_boundOk h e fun u k _ => k.toConfirm str
  | rectRefresh dt str =>
    simp only [exec, execRectRefresh] at e
    refine eventIf_boundOk h e fun u k _ => ?_
    unfold State.refreshRect
    split
    · exact k.stringRect str _
    · exact k
  | slotRefresh dt slot =>
    simp only [exec, execSlotRefresh] at e
    refine eventIf_boundOk h e fun u k _ => ?_
    unfold State.refreshSlot
    split
    · exact (k.modSlot slot (fun r => { r with lastOrderTime := some u.now }) fun _ => ⟨rfl, rfl, rfl⟩).handRect slot _
    · exact k
  | phaseTimeup dt slot =>
    simp only [exec, execPhaseTimeup] at e
    refine eventIf_boundOk h e fun u k hc => ?_
    simp only [State.phaseTimeup, Bool.and_eq_true, Option.isSome_iff_exists] at hc
    obtain ⟨⟨p, hp⟩, -⟩ := hc
    exact (k.runningPhase hp).nextEntry
  | criterionMet dt slot =>
    simp only [exec, execCriterionMet] at e
    refine eventIf_boundOk h e fun u k hc => ?_
    unfold State.criterionMet at hc
    split at hc
    · next hp _ => exact (k.runningPhase hp).nextEntry
    · cases hc
  | waitEnd dt slot =>
    simp only [exec, execWaitEnd] at e
    refine eventIf_boundOk h e fun u k hc => ?_
    simp only [Bool.and_eq_true, beq_iff_eq] at hc
    exact (k.ready (by simp [hc.1]) (by simp [hc.1])).nextEntry
  | waterWaitExpiry dt slot =>
    simp only [exec, execWaterWaitExpiry] at e
    refine eventIf_boundOk h e fun u k _ => ?_
    unfold State.waterWaitOver
    split
    · exact (k.withdrawWater _).endWaterWait slot
    · exact k.endWaterWait slot
  | suspendLimit dt slot =>
    simp only [exec, execSuspendLimit] at e
    exact eventIf_boundOk h e fun u k _ => k.slotEnds slot _
  | noSource dt slot =>
    simp only [exec, execNoSource] at e
    exact eventIf_boundOk h e fun u k _ => k.slotEnds slot _
  | directTimeup dt slot =>
    simp only [exec, execDirectTimeup] at e
    exact eventIf_boundOk h e fun u k _ => k.slotEnds slot _
  | valveClose dt pos =>
    simp only [exec, execValveClose] at e
    refine eventIf_boundOk h e fun u k _ => ?_
    unfold State.closeDue
    split
    · exact k.closeValve _ pos _ _
    · exact k
  | gapEnd dt =>
    simp only [exec, execGapEnd] at e
    refine eventIf_boundOk h e fun u k _ => ?_
    unfold State.gapOver
    split
    · exact k.endGap _
    · exact k
  | confirmDeadlineExpiry dt cell =>
    simp only [exec, execConfirmDeadlineExpiry] at e
    exact eventIf_boundOk h e fun u k _ => k.deadlineExpires cell
  | genEnd dt =>
    simp only [exec, execGenEnd] at e
    refine eventIf_boundOk h e fun u k _ => ?_
    unfold State.genEnds
    split
    · exact k.modSite _
    · exact k.modSite _
    · exact k
  | runOnEnd dt =>
    simp only [exec, execRunOnEnd] at e
    exact eventIf_boundOk h e fun u k _ => k.modSite _
  | warnExpiry dt =>
    simp only [exec, execWarnExpiry] at e
    exact eventIf_boundOk h e fun u k _ => k.goBlind.ite k.goWarn
  | blindExpiry dt =>
    simp only [exec, execBlindExpiry] at e
    exact eventIf_boundOk h e fun u k _ => k.goBlind
  | blindRepeat dt =>
    simp only [exec, execBlindRepeat] at e
    exact eventIf_boundOk h e fun u k _ => k.blindOrders
  | outputFrameEnd dt =>
    simp only [exec, execOutputFrameEnd] at e
    refine eventIf_boundOk h e fun u k _ => ?_
    unfold State.outputEnds
    split
    · exact k
    · dsimp only
      split
      · exact (k.modRing fun r => { r with sending := none }).orderSent _ _
      · exact k.modRing _
  | ringInputByte dt byte =>
    have e : execRingInputByte dt byte s = .next t := e
    unfold execRingInputByte at e
    split at e
    · exact event_boundOk h e fun u k => k.takeCheck byte
    · exact quietEvent_boundOk h e fun u k => k.modRing _
  | _ => exact request_boundOk h rfl e

/-- Settles O60: the bindings are kept by the time that passes, by what each command does and by the settlement of its event. -/
theorem everyStepKeepsBindings : Obligations.EveryStepKeepsBindings := by
  intro s t h e
  unfold step at e
  split at e
  · exact exec_boundOk (h.withPending _) e
  · cases e
    exact (h.elapse 1).withPending _

end

end Sys2Proof.Machine


section
open Sys2Proof Sys2Proof.Machine

namespace Sys2Proof.Machine

/-! ## What passing time leaves of a slot record -/

/-- In SUSPENDED the time counts in suspended_total (R96). -/
theorem SlotRec.elapse_suspended {r : SlotRec} (h : r.entryState = some .suspended) (dt : Nat) :
    r.elapse dt = { r with suspendedTotal := r.suspendedTotal + dt } := by
  simp only [SlotRec.elapse, h]

/-- A slot without an entry, and one that waits, counts nothing. -/
theorem SlotRec.elapse_waiting {r : SlotRec}
    (h : r.entryState = none ∨ r.entryState = some .wait ∨ r.entryState = some .waterWait) (dt : Nat) :
    r.elapse dt = r := by
  rcases h with h | h | h <;> simp only [SlotRec.elapse, h]

/-- Settles O2: the equations of `State.begin` part by part. -/
theorem passingTimeMovesCountersAlone : Obligations.PassingTimeMovesCountersAlone := by
  intro s dt
  refine ⟨?_, fun i => ⟨s.begin_reading dt i, s.begin_charge dt i⟩, fun i => s.begin_control dt i, fun sl h => ?_,
    fun sl h => ?_, fun sl h => ?_⟩
  · obtain ⟨v, a, b, e⟩ := s.elapse_eq dt
    exact ⟨v, a, b, by rw [State.begin, e]⟩
  · rw [State.begin_slot, SlotRec.elapse_running dt h]
  · rw [State.begin_slot, SlotRec.elapse_suspended h]
  · rw [State.begin_slot, SlotRec.elapse_waiting h]

end Sys2Proof.Machine
end

section
open Sys2Proof Sys2Proof.Machine

namespace Sys2Proof.Machine

/-! ## The start of an end of a round -/

/-- The end of a round is also the end of the round that stood before changes that leave what `EndedFor` speaks of. -/
theorem State.EndedFor.of_same {s t w : State} {i : Str} {c : EndReason} (h : t.EndedFor w i c)
    (hc : (t.control i).slot = (s.control i).slot) (hm : t.mgmt = s.mgmt) (hg : t.site.gasLatch = s.site.gasLatch)
    (hb : t.busVoltage = s.busVoltage) (hi : t.images = s.images) : s.EndedFor w i c where
  state := h.state
  endReason := h.endReason
  endStamp := by rw [← hm]; exact h.endStamp
  slot := h.slot.trans hc
  stopped sl hs := h.stopped sl (hc.trans hs)
  variant := by
    have hlow : t.busLowOrAbsent = s.busLowOrAbsent := by unfold State.busLowOrAbsent State.lim; rw [hb, hi]
    rw [← hg, ← hlow]; exact h.variant

/-- A return that begins starts a scan (R113). -/
theorem startReturn_scan (s : State) (i : Str) (v : Variant) (b : Bool) : (s.startReturn i v b).marks.scan = true := by
  unfold State.startReturn
  dsimp only
  generalize hu : (s.modControl i _).markScan = u
  have hscan : u.marks.scan = true := by rw [← hu]; rfl
  refine State.RoundFrame.scan (i := i) (m := (s.control i).slot) (s := u) ?_ hscan
  exact frame_ite (frame_offAndConfirm ..) <| (frame_stringRect ..).trans <|
    frame_ite (frame_toConfirm ..) ((frame_modControl ..).trans (frame_judgeWindow ..))

theorem endRound_scan (s : State) (i : Str) (c : EndReason) : (s.endRound i c).marks.scan = true :=
  startReturn_scan ..

/-- What the end of a round leaves of the held order and makes of the holdoff (R67, R76). -/
theorem endRound_heldOrder (s : State) (i : Str) (c : EndReason) :
    ((s.endRound i c).control i).heldOrder = (s.control i).heldOrder := by
  obtain ⟨-, -, -, hheld, -⟩ := returned_kept (s.beforeReturn i c) i
    (s.variantFor (c == .gas) (c == .discharge)) (s.inState i .called)
  rw [endRound_control, hheld, beforeReturn_control]
  unfold State.endedRecord
  dsimp only
  split <;> rfl

theorem endRound_holdoff (s : State) (i : Str) (c : EndReason) :
    ((s.endRound i c).control i).holdoffUntil =
      if c.setsHoldoff = true ∧ s.lim.holdoffMin ≠ 0 then some (s.mgmt.clock.plusMinutes s.lim.holdoffMin)
      else (s.control i).holdoffUntil := by
  obtain ⟨-, -, -, -, -, -, -, -, hhold, -⟩ := returned_kept (s.beforeReturn i c) i
    (s.variantFor (c == .gas) (c == .discharge)) (s.inState i .called)
  rw [endRound_control, hhold, beforeReturn_control]
  unfold State.endedRecord
  dsimp only
  split <;> rfl

/-- A cause that sets a holdoff sets it from the clock of the end (R67; log 18). -/
theorem endRound_sets_holdoff (s : State) (i : Str) {c : EndReason} (h : c.setsHoldoff = true) :
    ((s.endRound i c).control i).holdoffUntil = if s.lim.holdoffMin = 0 then (s.control i).holdoffUntil else
      some ⟨(s.mgmt.clock.day + (s.mgmt.clock.minute + s.lim.holdoffMin) / 1440) % 65536,
        (s.mgmt.clock.minute + s.lim.holdoffMin) % 1440⟩ := by
  rw [endRound_holdoff]
  by_cases k : s.lim.holdoffMin = 0
  · rw [if_neg fun n => n.2 k, if_pos k]
  · rw [if_pos ⟨h, k⟩, if_neg k, Stamp.plusMinutes]

/-! ## Policing (R161) -/

section
variable {s t : State} {f : Frame}

theorem Frame.reaches_iff (f : Frame) (a : Byte) : f.reaches a = true ↔ f.dst = a ∨ f.dst = 0xFF := by
  simp [Frame.reaches, broadcast]

theorem State.awayFromBus_iff (s : State) (i : Str) : s.awayFromBus i = true ↔
    (s.control i).state = .called ∨ (s.control i).state = .equalising ∨ (s.control i).state = .returning := by
  simp [State.awayFromBus, State.inState, or_assoc]

theorem State.policesRect_iff (s : State) (f : Frame) : s.policesRect f = true ↔
    ∃ sl, s.rectAddr sl ≠ 0xFF ∧ (f.dst = s.rectAddr sl ∨ f.dst = 0xFF)
      ∧ ((s.slot sl).string.isSome = true ∨ (f.isRectOn = true ∧ s.site.gasLatch = true)) := by
  have hall : ∀ sl : SlotId, sl ∈ allSlots := by intro sl; cases sl <;> decide
  simp [State.policesRect, List.any_eq_true, hall, State.slotPresent, Frame.reaches_iff, and_assoc]

theorem State.policesValve_iff (s : State) (f : Frame) : s.policesValve f = true ↔
    ∃ i, s.water.state ≠ .idle ∧ s.water.string = some i ∧ (s.cfg i).manifoldAddr ≠ 0xFF
      ∧ (f.dst = (s.cfg i).manifoldAddr ∨ f.dst = 0xFF) := by
  simp [State.policesValve, List.any_eq_true, mem_allStrs, State.watering, StringCfg.hasManifold, Frame.reaches_iff, and_assoc]

/-- A CONTACTOR frame is kept back when it reaches the contactor of a string away from the bus, and is a recall only when it
names one contactor and targets BUS (R161). -/
theorem policeContactor_drop (h : f.payload.head? ≠ some 1 ∨ f.dst = 0xFF)
    (hi : ∃ i, s.awayFromBus i = true ∧ f.reaches (s.cfg i).contactorAddr = true) : s.policeContactor f = .drop := by
  obtain ⟨i, ha, hr⟩ := hi
  unfold State.policeContactor
  cases e : s.policedContactor f with
  | none =>
    have n := List.find?_eq_none.mp e i (mem_allStrs i)
    simp [ha, hr] at n
  | some j => exact if_neg (by simpa [Frame.isBusTarget, targetBus, broadcast, imp_iff_not_or] using h)

/-- The one string whose contactor a frame names is the one it would move (R161). -/
theorem policeContactor_recall {i : Str} (hp : f.payload.head? = some 1) (hb : f.dst ≠ 0xFF)
    (ha : s.awayFromBus i = true) (hd : f.dst = (s.cfg i).contactorAddr)
    (hone : ∀ j, j ≠ i → f.dst ≠ (s.cfg j).contactorAddr) : s.policeContactor f = .recall i := by
  unfold State.policeContactor
  have hr : f.reaches (s.cfg i).contactorAddr = true := (f.reaches_iff _).mpr (.inl hd)
  cases e : s.policedContactor f with
  | none =>
    have n := List.find?_eq_none.mp e i (mem_allStrs i)
    simp [ha, hr] at n
  | some j =>
    have k := List.find?_some e
    simp only [Bool.and_eq_true, Frame.reaches_iff] at k
    have hj : j = i := by
      by_contra n
      exact k.2.elim (hone j n) hb
    subst hj
    exact if_pos (by simpa [Frame.isBusTarget, targetBus, broadcast] using ⟨hp, hb⟩)

/-- A frame that is not for the part and no broadcast request is classified by the policing and what follows it (R159). -/
theorem classify_other (h : f.dst ≠ s.ring.ownAddress) (hk : f.kind ≠ 0x30) : s.classify f = s.classifyOther f := by
  unfold State.classify
  rw [if_neg h, if_neg fun n => hk n.2]

theorem classifyOther_drop (hm : s.mgmt.mode = .engaged) (h : s.police f = .drop) :
    s.classifyOther f = s.modRing Ring.countPoliced := by
  unfold State.classifyOther
  rw [if_pos (by simp [State.engaged, hm]), h]

theorem classifyOther_recall {i : Str} (hm : s.mgmt.mode = .engaged) (h : s.police f = .recall i) :
    s.classifyOther f = (s.modRing Ring.countPoliced).recall i f := by
  unfold State.classifyOther
  rw [if_pos (by simp [State.engaged, hm]), h]

theorem police_contactor (ho : f.src ≠ s.ring.ownAddress) (hk : f.kind = 0x21) : s.police f = s.policeContactor f := by
  unfold State.police
  rw [if_neg ho, if_neg (by rw [hk]; decide), if_pos (show f.kind = kindContactor from hk)]

/-- Policing reads the tables, the bindings and states of the strings and slots, the latch and the watering unit. -/
theorem police_drop (ho : f.src ≠ s.ring.ownAddress)
    (h : (f.kind = 0x20 ∧ ∃ sl, s.rectAddr sl ≠ 0xFF ∧ (f.dst = s.rectAddr sl ∨ f.dst = 0xFF)
          ∧ ((s.slot sl).string.isSome = true ∨ (f.payload.head? = some 1 ∧ s.site.gasLatch = true)))
        ∨ (f.kind = 0x22 ∧ ∃ i, s.water.state ≠ .idle ∧ s.water.string = some i ∧ (s.cfg i).manifoldAddr ≠ 0xFF
            ∧ (f.dst = (s.cfg i).manifoldAddr ∨ f.dst = 0xFF))
        ∨ (f.kind = 0x21 ∧ (f.payload.head? ≠ some 1 ∨ f.dst = 0xFF)
            ∧ ∃ i, ((s.control i).state = .called ∨ (s.control i).state = .equalising ∨ (s.control i).state = .returning)
              ∧ (f.dst = (s.cfg i).contactorAddr ∨ f.dst = 0xFF))) : s.police f = .drop := by
  rcases h with ⟨hk, sl, hp, hd, hr⟩ | ⟨hk, hv⟩ | ⟨hk, hp, i, ha, hd⟩
  · have hon : f.isRectOn = true ↔ f.payload.head? = some 1 := by simp [Frame.isRectOn, hk, kindRect]
    unfold State.police
    rw [if_neg ho, if_pos (show f.kind = kindRect from hk), if_pos ((s.policesRect_iff f).mpr ⟨sl, hp, hd, by rwa [hon]⟩)]
  · unfold State.police
    rw [if_neg ho, if_neg (by rw [hk]; decide), if_neg (by rw [hk]; decide), if_pos (show f.kind = kindValve from hk),
      if_pos ((s.policesValve_iff f).mpr hv)]
  · rw [police_contactor ho hk]
    exact policeContactor_drop hp ⟨i, (s.awayFromBus_iff i).mpr ha, (f.reaches_iff _).mpr hd⟩

end

/-- The state after the time of a frame's last byte and the good frame's first effect, as policing finds it. -/
theorem heard_police (s : State) (dt : Nat) :
    (s.begin dt).heard.ring.ownAddress = s.ring.ownAddress ∧ (s.begin dt).heard.mgmt = s.mgmt
      ∧ (s.begin dt).heard.water = s.water ∧ (s.begin dt).heard.site = s.site
      ∧ (∀ i, (s.begin dt).heard.cfg i = s.cfg i) ∧ (∀ sl, (s.begin dt).heard.rectAddr sl = s.rectAddr sl)
      ∧ (∀ i, ((s.begin dt).heard.control i).state = (s.control i).state)
      ∧ ∀ sl, ((s.begin dt).heard.slot sl).string = (s.slot sl).string := by
  refine ⟨by simp [State.heard], s.begin_mgmt dt, s.begin_water dt, s.begin_site dt, s.begin_cfg dt, fun sl => ?_,
    fun i => (s.begin_control_kept dt i).1, fun sl => ?_⟩
  · show (s.begin dt).rectAddr sl = _
    cases sl <;> simp [State.rectAddr]
  · rw [s.heard_slot, SlotRec.elapse_string]

theorem heard_police_drop {s : State} {dt : Nat} {f : Frame} (h : s.police f = .drop) :
    (s.begin dt).heard.police f = .drop := by
  obtain ⟨hown, hm, hw, hg, hcfg, hrect, hst, hstr⟩ := heard_police s dt
  rw [← h]
  unfold State.police State.policesRect State.policesValve State.policeContactor State.policedContactor State.awayFromBus
    State.watering State.slotPresent State.inState
  simp only [hown, hw, hg, hcfg, hrect, hst, hstr]

/-- The state in which a recall is taken: the frame kept back and counted, and held (R76, R161). -/
def State.recalled (u : State) (i : Str) (f : Frame) : State :=
  (u.heard.modRing Ring.countPoliced).modControl i fun c => { c with heldOrder := some f }

/-- The ring after the good frame's first effect and the count of the policed frame (R158, R161). -/
theorem heard_countPoliced (s : State) (dt : Nat) : (s.begin dt).heard.modRing Ring.countPoliced =
    (s.begin dt).modRing fun r => { r with rx := .hunt, lastGood := some (s.now + dt),
                                           counts := { r.counts with policed := min 65535 (r.counts.policed + 1) } } := by
  rw [← s.begin_now dt]
  generalize s.begin dt = u
  simp [State.heard, State.modRing, Ring.countPoliced, countUp, satAdd, sat16]

section
variable {s : State} {dt : Nat} {b : Byte} {f : Frame} {i : Str}

theorem exec_other (h : s.lastByteOf f b) (hs : s.ring.sight = .seeing)
    (hd : f.dst ≠ s.ring.ownAddress) (hk : f.kind ≠ 0x30) :
    exec (.frameReceived dt b) s = .next ((s.begin dt).heard.classifyOther f).settle := by
  obtain ⟨hown, -⟩ := heard_police s dt
  rw [exec_lastByte h hs, classify_other (by rwa [hown]) hk]

theorem heard_engaged (hm : s.mgmt.mode = .engaged) : (s.begin dt).heard.mgmt.mode = .engaged := by
  rw [(heard_police s dt).2.1, hm]

theorem heard_police_recall (ho : f.src ≠ s.ring.ownAddress)
    (hk : f.kind = 0x21) (hp : f.payload.head? = some 1) (hb : f.dst ≠ 0xFF) (hd : f.dst = (s.cfg i).contactorAddr)
    (ha : (s.control i).state = .called ∨ (s.control i).state = .equalising ∨ (s.control i).state = .returning)
    (hone : ∀ j, j ≠ i → f.dst ≠ (s.cfg j).contactorAddr) : (s.begin dt).heard.police f = .recall i := by
  obtain ⟨hown, -, -, -, hcfg, -, hst, -⟩ := heard_police s dt
  rw [police_contactor (by rwa [hown]) hk]
  exact policeContactor_recall hp hb ((State.awayFromBus_iff _ i).mpr (by rwa [hst])) (by rwa [hcfg])
    fun j hj => by rw [hcfg]; exact hone j hj

/-- What a recall is taken in: the receiver hunting, the frame counted and held. -/
theorem recalled_kept (u : State) (i : Str) (f : Frame) :
    (u.recalled i f).mgmt = u.mgmt ∧ (u.recalled i f).water = u.water ∧ (u.recalled i f).site = u.site
      ∧ (u.recalled i f).images = u.images ∧ (u.recalled i f).cells = u.cells
      ∧ (u.recalled i f).busVoltage = u.busVoltage
      ∧ (u.recalled i f).control i = { u.control i with heldOrder := some f }
      ∧ (∀ j, j ≠ i → (u.recalled i f).str j = u.str j)
      ∧ (u.recalled i f).ring = u.heard.ring.countPoliced :=
  ⟨rfl, rfl, rfl, rfl, rfl, rfl, State.modControl_control ..,
    fun j hj => (frame_modControl (u.heard.modRing Ring.countPoliced) i none _).str j hj, rfl⟩

/-- A recall of a string that is on its way back holds the frame alone (R76). -/
theorem recall_returning {u : State} (h : (u.control i).state = .returning) :
    (u.heard.modRing Ring.countPoliced).recall i f = u.recalled i f := by
  have hin : (u.recalled i f).inRound i = false := by
    simp [State.inRound, State.inState, (recalled_kept u i f).2.2.2.2.2.2.1, h]
  exact if_neg (ne_true_of_eq_false hin)

/-- A recall before RETURNING ends the round with RECALL (R67, R76). -/
theorem recall_inRound {u : State} (h : (u.control i).state = .called ∨ (u.control i).state = .equalising) :
    (u.heard.modRing Ring.countPoliced).recall i f = (u.recalled i f).endRound i .recall := by
  have hstate : ((u.recalled i f).control i).state = .called ∨ ((u.recalled i f).control i).state = .equalising := by
    rw [(recalled_kept u i f).2.2.2.2.2.2.1]; exact h
  have hin : (u.recalled i f).inRound i = true := by simpa [State.inRound, State.inState] using hstate
  exact (if_pos hin).trans (endCause_away hstate _)

end

/-- Settles O14: the policing of the frame gives the effect, which is quiet unless a round ends. -/
theorem policedOrdersAreKeptBack : Obligations.PolicedOrdersAreKeptBack := by
  refine ⟨fun s dt b f h hm hs hd ho hc => ?_, fun s dt b f i h hm hs hd ho hk hp hb hdst hret hone => ?_,
    fun s dt b f i h hm hs hd ho hk hp hb hdst hst hone => ?_⟩
  · have hk : f.kind ≠ 0x30 := by
      rcases hc with ⟨k, -⟩ | ⟨k, -⟩ | ⟨k, -⟩ <;> rw [k] <;> decide
    rw [exec_other h hs hd hk, classifyOther_drop (heard_engaged hm) (heard_police_drop (police_drop ho hc)),
      heard_countPoliced, State.settle_quiet (by simp) (by simp)]
  · rw [exec_other h hs hd (by rw [hk]; decide), classifyOther_recall (heard_engaged hm)
      (heard_police_recall ho hk hp hb hdst (.inr (.inr hret)) hone),
      recall_returning ((s.begin_control_kept dt i).1.trans hret), State.settle_quiet rfl rfl,
      State.recalled, heard_countPoliced]
    rfl
  · rw [exec_other h hs hd (by rw [hk]; decide), classifyOther_recall (heard_engaged hm)
      (heard_police_recall ho hk hp hb hdst (hst.imp_right .inl) hone)]
    obtain ⟨hmg, hw, hsite, himg, hcells, hbus, hcon, hothers, hring⟩ := recalled_kept (s.begin dt) i f
    rw [recall_inRound (by rwa [(s.begin_control_kept dt i).1])]
    have hf := frame_endRound ((s.begin dt).recalled i f) i .recall
    refine ⟨_, rfl, (endRound_ended ..).of_same ?_ (hmg.trans (s.begin_mgmt dt)) ?_ (hbus.trans (s.begin_busVoltage dt))
      (himg.trans (s.begin_images dt)), ?_, ?_, ?_, ?_, ?_, endRound_scan .., fun j hj => (hf.str j hj).trans (hothers j hj),
      hf.cells.trans (hcells.trans (s.begin_cells dt)), hf.water.trans (hw.trans (s.begin_water dt)),
      hf.mgmt.trans (hmg.trans (s.begin_mgmt dt)), hf.images.trans (himg.trans (s.begin_images dt))⟩
    · rw [hcon]; exact (s.begin_control_kept dt i).2.2.1
    · rw [hsite, s.begin_site]
    · rw [endRound_heldOrder, hcon]
    · rw [endRound_sets_holdoff _ _ rfl, hmg, hcon, State.lim, himg, State.begin_control_eq, s.begin_mgmt, s.begin_images]
      rfl
    · rw [hf.ring, hring]; simp [State.heard, Ring.countPoliced, countUp, satAdd, sat16]
    · rw [hf.ring, hring]; simp [State.heard, Ring.countPoliced]
    · rw [hf.ring, hring]; simp [State.heard, Ring.countPoliced]

end Sys2Proof.Machine
end

section
open Sys2Proof Sys2Proof.Machine

namespace Sys2Proof.Machine

/-! ## The slot's own limits (R96, R97, R101) -/

section
variable {s : State} {i : Str} {sl : SlotId}

/-- A withdrawal leaves every entry but the string's WATER entry (R111). -/
theorem mem_withdrawWater (s : State) (i : Str) (e : Entry) :
    e ∈ (s.withdrawWater i).queue ↔ e ∈ s.queue ∧ ¬ (e.string = i ∧ e.kind = .water) := by
  unfold State.withdrawWater
  split
  · rw [State.markScan_queue, State.removeEntry]
    simp [List.mem_filter, ← Entry.named_iff]
  · next h =>
    refine ⟨fun k => ⟨k, fun n => h ?_⟩, And.left⟩
    exact List.find?_isSome.mpr ⟨e, k, (e.named_iff i .water).mpr n⟩

/-- A slot told to stop withdraws the WATER entry of its own water point (R100). -/
theorem mem_stopSlot_iff (hs : (s.slot sl).string = some i) (e : Entry) :
    e ∈ (s.stopSlot sl).queue ↔ e ∈ s.queue ∧ ¬ ((s.slot sl).waterCalled = true ∧ e.string = i ∧ e.kind = .water) := by
  unfold State.stopSlot
  dsimp only
  rw [hs]
  cases hw : (s.slot sl).waterCalled with
  | true => rw [mem_withdrawWater, State.modSlot_queue]; simp
  | false => rw [State.modSlot_queue]; simp

/-- The end of a round withdraws the WATER entry of the slot's water point and no other (R67, R100). -/
theorem mem_endRound (h : s.holds sl i) (c : EndReason) (e : Entry) :
    e ∈ (s.endRound i c).queue ↔ e ∈ s.queue ∧ ¬ ((s.slot sl).waterCalled = true ∧ e.string = i ∧ e.kind = .water) := by
  have hset : ((s.setEnd i c).slot sl).waterCalled = (s.slot sl).waterCalled := by simp [State.setEnd]
  have hstr : ((s.setEnd i c).slot sl).string = some i := by simp [State.setEnd, h.1]
  have hstop : (s.setEnd i c).stopSlotOf i = (s.setEnd i c).stopSlot sl := by
    unfold State.stopSlotOf
    rw [show ((s.setEnd i c).control i).slot = some sl by simp [State.setEnd, h.2]]
  have hq : (s.beforeReturn i c).queue = ((s.setEnd i c).stopSlotOf i).queue := by
    unfold State.beforeReturn State.setHoldoff State.completeEqualise
    dsimp only
    split <;> split <;> simp
  rw [endRound_eq, startReturn_queue, hq, hstop, mem_stopSlot_iff hstr, hset]
  simp [State.setEnd]

/-- A cause without holdoff leaves the holdoff (R67). -/
theorem endRound_keeps_holdoff (s : State) (i : Str) {c : EndReason} (h : c.setsHoldoff = false) :
    ((s.endRound i c).control i).holdoffUntil = (s.control i).holdoffUntil := by
  rw [endRound_holdoff, if_neg (by simp [h])]

theorem endRound_keeps_charge (s : State) (i : Str) {c : EndReason} (h : c ≠ .complete) :
    (s.endRound i c).charge i = s.charge i := by
  rw [endRound_charge, if_neg h]

/-- The slot's ends of a round: what `SlotLimitsEndTheRound` says of the state they leave, for any of its causes. -/
theorem slotEnds_limit (s : State) (dt : Nat) (h : s.holds sl i) (hq : (s.control i).state = .equalising) {c : EndReason}
    (hh : c.setsHoldoff = false) (hc : c ≠ .complete) (w : State) (hw : (s.begin dt).slotEnds sl c = w) :
    s.EndedFor w i c
        ∧ (w.control i).holdoffUntil = (s.control i).holdoffUntil ∧ w.marks.scan = true
        ∧ (∀ j, j ≠ i → w.str j = (s.begin dt).str j) ∧ w.reading i = s.reading i ∧ w.charge i = s.charge i
        ∧ (∀ sl', sl' ≠ sl → w.slot sl' = (s.begin dt).slot sl')
        ∧ (w.slot sl).string = some i ∧ (w.slot sl).recipe = (s.slot sl).recipe ∧ (w.slot sl).reason = (s.slot sl).reason
        ∧ (w.slot sl).cut = (s.slot sl).cut ∧ (w.slot sl).entriesCompleted = (s.slot sl).entriesCompleted
        ∧ (∀ e, e ∈ w.queue ↔ e ∈ s.queue
            ∧ ¬ ((s.slot sl).waterCalled = true ∧ e.string = i ∧ e.kind = .water))
        ∧ w.ring = { s.ring with
            orders := w.ring.orders, orderCount := w.ring.orderCount
            counts := { s.ring.counts with orderDrop := w.ring.counts.orderDrop } }
        ∧ w.busVoltage = s.busVoltage ∧ w.discharge = s.discharge ∧ w.holdoffEnd = s.holdoffEnd
        ∧ w.trigLevel = s.trigLevel ∧ w.pending = s.pending ∧ w.now = s.now + dt ∧ w.site = s.site
        ∧ w.cells = s.cells ∧ w.water = s.water ∧ w.mgmt = s.mgmt ∧ w.images = s.images := by
  obtain ⟨hstate, -, hslot, -⟩ := s.begin_control_kept dt i
  have hstr : ((s.begin dt).slot sl).string = some i := by rw [s.begin_slot, SlotRec.elapse_string, h.1]
  have hhold : (s.begin dt).holds sl i := ⟨hstr, hslot.trans h.2⟩
  have hend : w = (s.begin dt).endRound i c := by
    rw [← hw, State.slotEnds, hstr]
    exact endCause_away (.inr (hstate.trans hq)) c
  have hf : State.RoundFrame i (some sl) (s.begin dt) w := by
    have k := frame_endRound (s.begin dt) i c
    rw [hslot, h.2, ← hend] at k
    exact k
  obtain ⟨bstr, brec, breason, bcut, bdone, -⟩ := hf.bind sl
  rw [s.begin_slot] at brec breason bcut bdone
  refine ⟨hend ▸ (endRound_ended ..).of_same hslot (s.begin_mgmt dt) (by rw [s.begin_site]) (s.begin_busVoltage dt)
      (s.begin_images dt), ?_, hend ▸ endRound_scan .., hf.str, hf.reading.trans (s.begin_reading dt i), ?_,
    fun k hk => hf.slot k fun n => hk (Option.some.inj n).symm, bstr.trans hstr, by simpa using brec, by simpa using breason,
    by simpa using bcut, by simpa using bdone, fun e => ?_, ?_, hf.busVoltage.trans (s.begin_busVoltage dt),
    hf.discharge.trans (s.begin_discharge dt), hf.holdoffEnd.trans (s.begin_holdoffEnd dt),
    hf.trigLevel.trans (s.begin_trigLevel dt), hf.pending.trans (s.begin_pending dt), hf.now.trans (s.begin_now dt),
    hf.site.trans (s.begin_site dt), hf.cells.trans (s.begin_cells dt), hf.water.trans (s.begin_water dt),
    hf.mgmt.trans (s.begin_mgmt dt), hf.images.trans (s.begin_images dt)⟩
  · rw [hend, endRound_keeps_holdoff _ _ hh, State.begin_control_eq]
  · rw [hend, endRound_keeps_charge _ _ hc, s.begin_charge]
  · rw [hend, mem_endRound hhold, s.begin_queue, s.begin_slot, SlotRec.elapse_waterCalled]
  · rw [← s.begin_ring dt]; exact hf.ring

end

/-- Settles O49: each of the three events is due, and its effect is the slot's end of the round. -/
theorem slotLimitsEndTheRound : Obligations.SlotLimitsEndTheRound := by
  intro s dt sl i h hq c cause hc
  suffices hs : exec c s = .next ((s.begin dt).slotEnds sl cause).settle ∧ cause.setsHoldoff = false ∧ cause ≠ .complete from
    ⟨_, hs.1, slotEnds_limit s dt h hq hs.2.1 hs.2.2 _ rfl⟩
  rcases hc with ⟨rfl, rfl, he, hl⟩ | ⟨rfl, rfl, he, hr, x, hx, hl⟩ | ⟨rfl, rfl, he, hl⟩ <;>
    refine ⟨?_, rfl, by decide⟩ <;> simp only [exec]
  · rw [execSuspendLimit, eventIf_due]
    rw [s.begin_slot, SlotRec.elapse_suspended he]
    simpa [he, State.suspendMs, State.begin_lim] using hl
  · rw [execNoSource, eventIf_due]
    have hne : ((s.begin dt).slot sl).entryState.isSome = true := by
      rw [s.begin_slot, SlotRec.elapse_entryState]; exact Option.isSome_iff_ne_none.mpr he
    have hsrc : ((s.begin dt).slot sl).reasons.source = true := by
      rw [s.begin_slot, SlotRec.elapse_reasons]; exact hr
    have hst : ((s.begin dt).slot sl).sourceWaitStart = some x := by
      rw [s.begin_slot, SlotRec.elapse_sourceWaitStart]; exact hx
    unfold State.sourceWaitOver
    dsimp only
    rw [hne, hsrc, hst]
    exact State.begin_reached (x := some _) (by simp) hl
  · rw [execDirectTimeup, eventIf_due]
    rw [s.begin_slot, SlotRec.elapse_running dt (.inr he)]
    simpa [he, State.begin_lim] using hl

end Sys2Proof.Machine
end

section
open Sys2Proof Sys2Proof.Machine

namespace Sys2Proof.Machine

/-! ## The timers of String Control and the refreshes (R66, R68, R69, R74, R79, R90) -/

section
variable {s : State} {i : Str} {sl : SlotId} {dt : Nat}

@[simp] theorem State.begin_rectAddr (s : State) (dt : Nat) (sl : SlotId) : (s.begin dt).rectAddr sl = s.rectAddr sl := by
  cases sl <;> simp [State.rectAddr]

/-- A change of state between two states away from ON_BUS starts a scan and nothing else (R62). -/
theorem stateChanged_away {before : StringState} (hb : before ≠ .onBus) (h : (s.control i).state ≠ .onBus) :
    s.stateChanged i before = s.markScan := by
  unfold State.stateChanged
  dsimp only
  rw [if_pos]
  simp [State.inState, hb, h]

/-- A string that faults from a state away from the bus (R74). -/
theorem enterFaulted_away (h : (s.control i).state ≠ .onBus) :
    s.enterFaulted i = ((s.faultTaken i).noticeStringFault i).markScan := by
  rw [enterFaulted_eq, stateChanged_away h]
  unfold State.noticeStringFault
  rw [notice_control, faultTaken_control]
  simp

/-- The RECT order that String Control hands for a bound string (R60, R79). -/
theorem stringRect_eq (h : (s.control i).slot = some sl) (o : RectOrder) : s.stringRect i o =
    (s.modControl i fun c => { c with rectOrder := some o, lastRectTime := some s.now }).handRect sl o := by
  unfold State.stringRect
  rw [h]

/-- The payload of the STRING_FAULT notice of a string, whose contactor's last position it tells (R173). -/
def State.faultPayload (s : State) (i : Str) : List Byte :=
  [0x05, BitVec.ofNat 8 i.val, ((s.reading i).lastPosition.map fun c => BitVec.ofNat 8 c.code).getD 0xFF]

theorem noticeStringFault_eq (s : State) (i : Str) : s.noticeStringFault i = s.notice (s.faultPayload i) := by
  unfold State.noticeStringFault State.faultPayload strCode
  cases (s.reading i).lastPosition <;> rfl

theorem noticeStringFault_replies (hm : s.mgmt.mode = .engaged) (hr : s.ring.replies.length < 8) (i : Str) :
    (s.noticeStringFault i).ring.replies
      = s.ring.replies ++ [⟨s.lim.controllerAddr, s.ring.ownAddress, 0x32, s.faultPayload i⟩] := by
  rw [noticeStringFault_eq, (notice_replies s _).1 hm hr]
  rfl

/-- Two updates of a control half that agree on the half it stands in make the same state. -/
theorem modControl_congr {f g : Control → Control} (h : f (s.control i) = g (s.control i)) :
    s.modControl i f = s.modControl i g :=
  congrArg (fun c => { s with strings := s.strings.set i.val { s.str i with control := c } }) h

/-- A notice of STRING_FAULT moves the reply queue and its marks alone. -/
theorem noticeStringFault_kept (u : State) (i : Str) :
    (u.noticeStringFault i).strings = u.strings ∧ (u.noticeStringFault i).cells = u.cells
      ∧ (u.noticeStringFault i).water = u.water ∧ (u.noticeStringFault i).mgmt = u.mgmt
      ∧ (u.noticeStringFault i).images = u.images := by
  unfold State.noticeStringFault
  rw [notice_eq]
  exact ⟨rfl, rfl, rfl, rfl, rfl⟩

/-- What a fault of a bound string leaves: the string's record, with RECT OFF standing, the scan, the notice and all blocks but
the orders and the string's slot as they were (R74). -/
theorem faulted_kept (u : State) (hslot : (u.control i).slot = some sl) {w : State}
    (hw : ((u.faultTaken i).noticeStringFault i).markScan = w) :
    (w.control i).state = .faulted ∧ (w.control i).slot = some sl ∧ (w.control i).confirmLeft = none
      ∧ (w.control i).step = none ∧ (w.control i).variant = none ∧ (w.control i).heldOrder = none
      ∧ (w.control i).rectOrder = some .off ∧ (w.control i).lastRectTime = some u.now
      ∧ (w.control i).endReason = (if (u.control i).state = .called ∨ (u.control i).state = .equalising then some .contactor
          else (u.control i).endReason)
      ∧ w.marks.scan = true ∧ (∀ j, j ≠ i → w.str j = u.str j)
      ∧ (u.mgmt.mode = .engaged → u.ring.replies.length < 8 → w.ring.replies = u.ring.replies
          ++ [⟨u.lim.controllerAddr, u.ring.ownAddress, 0x32, u.faultPayload i⟩])
      ∧ w.cells = u.cells ∧ w.water = u.water ∧ w.mgmt = u.mgmt ∧ w.images = u.images := by
  have hf := frame_faultTaken u i
  have hc := faultTaken_control u i
  rw [show (u.control i).ordered u.now .off = { u.control i with rectOrder := some .off, lastRectTime := some u.now } from
    if_neg (by rw [hslot]; simp)] at hc
  generalize u.faultTaken i = v at hw hf hc
  obtain ⟨nstr, ncells, nwater, nmgmt, nimages⟩ := noticeStringFault_kept v i
  have hstr : w.strings = v.strings := by rw [← hw, State.markScan_strings, nstr]
  have hn : ∀ j, w.str j = v.str j := fun j => by rw [State.str, hstr]; rfl
  have hwc : w.control i = v.control i := congrArg StringRec.control (hn i)
  rw [hwc, hc]
  refine ⟨rfl, hslot, rfl, rfl, rfl, rfl, rfl, rfl, rfl, by rw [← hw]; rfl, fun j hj => (hn j).trans (hf.str j hj),
    fun hm hr => ?_, ?_, ?_, ?_, ?_⟩
  · rw [← hw, State.markScan_ring, noticeStringFault_replies (by rw [hf.mgmt]; exact hm) (by rw [hf.replies]; exact hr) i,
      hf.replies, hf.lim, State.faultPayload, hf.reading, hf.ring]
    rfl
  · rw [← hw, State.markScan_cells, ncells, hf.cells]
  · rw [← hw, State.markScan_water, nwater, hf.water]
  · rw [← hw, State.markScan_mgmt, nmgmt, hf.mgmt]
  · rw [← hw, State.markScan_images, nimages, hf.images]

/-- A refresh hands the standing order again and moves its time (R79). -/
theorem refreshRect_eq {o : RectOrder} (h : (s.control i).slot = some sl) (ho : (s.control i).rectOrder = some o) :
    s.refreshRect i = (s.modControl i fun c => { c with lastRectTime := some s.now }).handOrder
      (rectFrame (s.rectAddr sl) s.ring.ownAddress o) := by
  unfold State.refreshRect
  rw [ho]
  dsimp only
  rw [stringRect_eq h, State.handRect]
  rw [modControl_congr (f := fun c => { c with rectOrder := some o, lastRectTime := some s.now })
    (g := fun c => { c with lastRectTime := some s.now }) (by rw [← ho])]
  rfl

/-- The slot's refresh hands its last order again and moves its time (R90). -/
theorem refreshSlot_eq {o : RectOrder} (ho : (s.slot sl).lastOrder = some o) :
    s.refreshSlot sl = (s.modSlot sl fun r => { r with lastOrderTime := some s.now }).handOrder
      (rectFrame (s.rectAddr sl) s.ring.ownAddress o) := by
  unfold State.refreshSlot
  rw [ho]
  cases sl <;> rfl

/-- The event whose effect hands orders and moves a record is quiet. -/
theorem handOrder_quiet (u : State) (hu : u.marks = {}) (f : Frame) : (u.handOrder f).settle = (u.handOrder f).quietEnd :=
  State.settle_quiet (by show u.marks.scan = _; rw [hu]) (by show u.marks.commit = _; rw [hu])

/-- A confirmation that runs out: the state it leaves to its settlement (R65, R66, R69, R74). -/
theorem exec_confirmExpiry {left : Nat} (hs : s.ring.sight = .seeing) (hl : (s.control i).confirmLeft = some left)
    (hle : left ≤ dt)
    (hst : (s.control i).state = .called ∨ ((s.control i).state = .returning ∧ (s.control i).step = some .confirm)) :
    exec (.confirmExpiry dt i) s
      = .next ((((s.begin dt).faultTaken i).noticeStringFault i).markScan).settle := by
  obtain ⟨hstate, hstep, -⟩ := s.begin_control_kept dt i
  have haway : ((s.begin dt).control i).state ≠ .onBus := by
    rw [hstate]; rcases hst with h | ⟨h, -⟩ <;> rw [h] <;> decide
  have hzero : ((s.begin dt).control i).confirmLeft = some 0 := by
    rw [State.begin_control, if_pos hs, Control.elapse, hl]
    simp [Nat.sub_eq_zero_of_le hle]
  simp only [exec]
  rw [execConfirmExpiry, eventIf_due, enterFaulted_away haway]
  rcases hst with h | ⟨h, k⟩ <;> simp [State.confirming, State.inState, hs, hstate, hstep, hzero, h]
  exact k

end

/-- Settles O46: each expiry is due, and its effect is read off the fault, the CONFIRM step or the standing order. -/
theorem stringTimersRunOut : Obligations.StringTimersRunOut := by
  intro s dt i sl hsl
  obtain ⟨hstate, hstep, hslot, hdead, hrect, hlast⟩ := s.begin_control_kept dt i
  refine ⟨fun left hs hl hle hst => ⟨_, exec_confirmExpiry hs hl hle hst, ?_⟩, fun e hst hstp he hle => ?_,
    fun o e hst ho he hle => ?_, fun o e hst ho he hle => ?_⟩
  · have hcause : ((s.control i).state = .called ∨ (s.control i).state = .equalising) ↔ (s.control i).state = .called := by
      rcases hst with h | ⟨h, -⟩ <;> simp [h]
    have hend : ((s.begin dt).control i).endReason = (s.control i).endReason := by rw [State.begin_control_eq]
    obtain ⟨hst', hsl', hleft, hstp, hvar, hheld, ho, hlr, hendr, hscan, hothers, hrep, hcells, hwater, hmgmt, himages⟩ :=
      faulted_kept (s.begin dt) (hslot.trans hsl) rfl
    refine ⟨hst', hsl', hleft, hstp, hvar, hheld, ho, hlr.trans (by rw [s.begin_now]), ?_, hscan, hothers, fun hm hr => ?_,
      hcells.trans (s.begin_cells dt), hwater.trans (s.begin_water dt), hmgmt.trans (s.begin_mgmt dt),
      himages.trans (s.begin_images dt)⟩
    · rw [hendr, hstate, hend]
      exact if_congr hcause rfl rfl
    · rw [hrep (by rwa [s.begin_mgmt]) (by rwa [s.begin_ring]), s.begin_ring, s.begin_lim, State.faultPayload,
        s.begin_reading]
      cases (s.reading i).lastPosition with
      | none => rfl
      | some c => cases c <;> rfl
  · simp only [exec]
    rw [execMatchDeadline, eventIf_due]
    · rw [State.settle_quiet rfl rfl, State.toConfirm, State.handContactor]
      simp [contactorFrame, targetBus, kindContactor]
    · simp [State.matchOver, State.inState, hstate, hstep, hst, hstp]
      exact State.begin_reached (hdead.trans he) hle
  · simp only [exec]
    rw [execRectRefresh, eventIf_due, refreshRect_eq (hslot.trans hsl) (hrect.trans ho), handOrder_quiet _ rfl]
    · rw [s.begin_now, s.begin_rectAddr, s.begin_ring]
      cases o <;> rfl
    · simp [State.rectRefreshDue, hslot, hsl, hstate, hst, hrect, ho]
      exact State.begin_reached (by rw [hlast, he]; simp) hle
  · simp only [exec]
    have hlo : ((s.begin dt).slot sl).lastOrder = some o := by rw [s.begin_slot, SlotRec.elapse_lastOrder, ho]
    have hlt : ((s.begin dt).slot sl).lastOrderTime = some e := by rw [s.begin_slot, SlotRec.elapse_lastOrderTime, he]
    have hes : ((s.begin dt).slot sl).entryState ≠ none := by rw [s.begin_slot, SlotRec.elapse_entryState]; exact hst
    rw [execSlotRefresh, eventIf_due, refreshSlot_eq hlo, handOrder_quiet _ (by simp)]
    · rw [s.begin_now, s.begin_rectAddr, s.begin_ring]
      cases o <;> rfl
    · simp [State.slotRefreshDue, hlo, Option.isSome_iff_ne_none, hes]
      exact State.begin_reached (by rw [hlt]; simp) hle

end Sys2Proof.Machine
end

section
open Sys2Proof Sys2Proof.Machine

/-! ## What the hand-offs leave of the strings that are not away from the bus -/

namespace Sys2Proof.Machine

/-- The string is neither in CALLED nor in EQUALISING nor in RETURNING: no end cause and no bus voltage moves it. -/
def State.home (s : State) (i : Str) : Prop :=
  (s.control i).state ≠ .called ∧ (s.control i).state ≠ .equalising ∧ (s.control i).state ≠ .returning

/-- What a change handed to the strings leaves: the records of the strings at home and, while all of them are, the order queue;
of the slots it only stops some (R67, R68, R100). -/
structure State.HomeKept (s t : State) : Prop where
  control : ∀ i, s.home i → t.control i = s.control i
  slot : ∀ k, t.slot k = s.slot k ∨ t.slot k = (s.slot k).stopped
  scan : s.marks.scan = true → t.marks.scan = true
  commit : s.marks.commit = true → t.marks.commit = true
  water : t.water = s.water
  orders : (∀ i, s.home i) → t.ring.orders = s.ring.orders
  run : s.RunKept t

section
variable {s t u : State}

theorem State.HomeKept.refl (s : State) : s.HomeKept s :=
  ⟨fun _ _ => rfl, fun _ => .inl rfl, id, id, rfl, fun _ => rfl, rfl, rfl, rfl, rfl⟩

theorem State.HomeKept.home (h : s.HomeKept t) {i : Str} (hi : s.home i) : t.home i := by
  unfold State.home; rw [h.control i hi]; exact hi

theorem State.HomeKept.trans (h : s.HomeKept t) (k : t.HomeKept u) : s.HomeKept u where
  control i hi := (k.control i (h.home hi)).trans (h.control i hi)
  slot x := by
    rcases h.slot x with e | e <;> rcases k.slot x with f | f <;> rw [e] at f
    · exact .inl f
    · exact .inr f
    · exact .inr f
    · exact .inr f
  scan x := k.scan (h.scan x)
  commit x := k.commit (h.commit x)
  water := k.water.trans h.water
  orders x := (k.orders fun i => h.home (x i)).trans (h.orders x)
  run := h.run.trans k.run

theorem homeKept_ite {c : Prop} [Decidable c] (h : s.HomeKept t) (k : s.HomeKept u) : s.HomeKept (if c then t else u) := by
  split <;> assumption

/-- An operation on one string that leaves a string at home alone. -/
theorem homeKept_of_frame {j : Str} {m : Option SlotId} (f : State.RoundFrame j m s t) (hj : s.home j → t = s)
    (hs : ∀ k, t.slot k = s.slot k ∨ t.slot k = (s.slot k).stopped) : s.HomeKept t where
  control i hi := by
    by_cases e : i = j
    · subst e; rw [hj hi]
    · exact congrArg StringRec.control (f.str i e)
  slot := hs
  scan := f.scan
  commit x := f.commit.trans x
  water := f.water
  orders x := by rw [hj (x j)]
  run := ⟨f.now, f.images, by rw [f.site], by rw [f.site]⟩

/-- A change of none of the strings' control records, slots, orders and marks. -/
theorem homeKept_same (hc : ∀ i, t.control i = s.control i) (hs : ∀ k, t.slot k = s.slot k)
    (hm : t.marks = s.marks) (ho : t.ring.orders = s.ring.orders) (hw : t.water = s.water) (hr : s.RunKept t) : s.HomeKept t :=
  ⟨fun i _ => hc i, fun k => .inl (hs k), fun x => by rw [hm]; exact x, fun x => by rw [hm]; exact x, hw, fun _ => ho, hr⟩

theorem homeKept_eachStr (f : Str → State → State) (hf : ∀ i u, State.HomeKept u (f i u)) (s : State) : s.HomeKept (s.eachStr f) :=
  eachStr_preserves (P := fun t => s.HomeKept t) (fun i u h => h.trans (hf i u)) (.refl s)

theorem homeKept_markScan (s : State) : s.HomeKept s.markScan :=
  ⟨fun _ _ => rfl, fun k => .inl (by cases k <;> rfl), fun _ => rfl, id, rfl, fun _ => rfl, rfl, rfl, rfl, rfl⟩

theorem notice_orders (s : State) (m : List Byte) : (s.notice m).ring.orders = s.ring.orders := by
  unfold State.notice
  split
  · split <;> rfl
  · rfl

theorem homeKept_notice (s : State) (m : List Byte) : s.HomeKept (s.notice m) :=
  homeKept_same (notice_control s m) (notice_slot s m) (by rw [notice_eq]) (notice_orders s m) (by rw [notice_eq])
    (by rw [notice_eq]; exact ⟨rfl, rfl, rfl, rfl⟩)

theorem homeKept_modCharge (s : State) (i : Str) (f : Charge → Charge) : s.HomeKept (s.modCharge i f) :=
  homeKept_same (fun _ => by simp) (fun _ => by simp) rfl rfl rfl ⟨rfl, rfl, rfl, rfl⟩

theorem homeKept_endCause (s : State) (i : Str) (c : EndReason) : s.HomeKept (s.endCause i c) := by
  refine homeKept_of_frame (frame_endCause s i c) (fun hi => ?_) fun k => ?_
  · unfold State.endCause
    split
    · next h => exact absurd h hi.1
    · next h => exact absurd h hi.2.1
    · next h => exact absurd h hi.2.2
    · rfl
  · by_cases ha : (s.control i).state = .called ∨ (s.control i).state = .equalising
    · rw [endCause_away ha]
      by_cases hk : (s.control i).slot = some k
      · exact .inr (endRound_slot hk c)
      · exact .inl ((frame_endRound s i c).slot k hk)
    · left
      unfold State.endCause
      split
      · next h => exact absurd (.inl h) ha
      · next h => exact absurd (.inr h) ha
      · exact (frame_causeInReturn s i none c).slot k (by simp)
      · rfl

theorem homeKept_matchTakesBus (s : State) (i : Str) : s.HomeKept (s.matchTakesBus i) := by
  refine homeKept_of_frame (frame_matchTakesBus s i none) (fun hi => ?_)
    fun k => .inl ((frame_matchTakesBus s i none).slot k (by simp))
  unfold State.matchTakesBus
  exact if_neg fun h => hi.2.2 (by simpa [State.inState] using h.1)

theorem homeKept_recomputeBus (s : State) : s.HomeKept s.recomputeBus := by
  have h : s.HomeKept { s with busVoltage := s.judgeBusVoltage } :=
    homeKept_same (fun _ => rfl) (fun k => by cases k <;> rfl) rfl rfl rfl ⟨rfl, rfl, rfl, rfl⟩
  unfold State.recomputeBus State.handBus
  exact homeKept_ite h (h.trans (homeKept_eachStr _ (fun i u => homeKept_matchTakesBus u i) _))

theorem homeKept_rejudgeDischarge (s : State) : s.HomeKept s.rejudgeDischarge := by
  unfold State.rejudgeDischarge State.dischargeBegins State.dischargeEnds
  have h0 : ∀ (d : Bool) (e : Option Nat), s.HomeKept { s with discharge := d, holdoffEnd := e } := fun d e =>
    homeKept_same (fun _ => rfl) (fun k => by cases k <;> rfl) rfl rfl rfl ⟨rfl, rfl, rfl, rfl⟩
  refine homeKept_ite (.refl s) (homeKept_ite ?_ (homeKept_ite ?_ (h0 _ _)))
  · exact ((h0 true none).trans (homeKept_eachStr _ (fun i u => homeKept_endCause u i .discharge) _)).trans (homeKept_notice _ _)
  · exact (h0 false s.holdoffEnd).trans (homeKept_markScan _)

/-- A change into or out of ON_BUS leaves the strings at home (R62). -/
theorem homeKept_onBusChanged (s : State) (i : Str) : s.HomeKept (s.onBusChanged i) := by
  have h1 : s.HomeKept (s.fullCleared i) := homeKept_ite (.refl s) (homeKept_modCharge ..)
  have h2 : ∀ u : State, u.HomeKept (u.judgeSpreadTimer i) := fun u => homeKept_ite (homeKept_modCharge ..) (homeKept_modCharge ..)
  rw [onBusChanged_eq]
  exact ((h1.trans (homeKept_recomputeBus _)).trans (h2 _)).trans (homeKept_rejudgeDischarge _)

theorem homeKept_stateChanged (s : State) (i : Str) (b : StringState) : s.HomeKept (s.stateChanged i b) := by
  unfold State.stateChanged
  exact homeKept_ite (homeKept_markScan s) ((homeKept_markScan s).trans (homeKept_onBusChanged _ i))

theorem stateChanged_scan (s : State) (i : Str) (b : StringState) : (s.stateChanged i b).marks.scan = true := by
  unfold State.stateChanged
  dsimp only
  split
  · rfl
  · exact (homeKept_onBusChanged _ i).scan rfl

end

/-! ## Freeing a slot and releasing a held order (R70, R76) -/

section
variable {s : State} {i : Str} {sl : SlotId}

/-- A freeing of the slot of `i`, before it is handed on: the string's record and the slot's (R70). -/
def State.slotFreed (s : State) (i : Str) (sl : SlotId) : State :=
  (s.modControl i fun c => { c with
    lastEqOutcome := some (eqOutcome (s.control i) (s.slot sl)), slot := none, variant := none, step := none
    matchDeadline := none, confirmLeft := none, rectOrder := none, lastRectTime := none, endReason := none }).modSlot sl
    fun _ => {}

theorem freeSlot_eq (h : (s.control i).slot = some sl) : s.freeSlot i =
    (((s.slotFreed i sl).noticeEnded i (eqOutcome (s.control i) (s.slot sl))).markScan).markCommit := by
  unfold State.freeSlot
  rw [h]
  rfl

/-- The record of a string whose slot has been freed (R70). -/
theorem freeSlot_control (h : (s.control i).slot = some sl) : (s.freeSlot i).control i = { s.control i with
    lastEqOutcome := some (eqOutcome (s.control i) (s.slot sl)), slot := none, variant := none, step := none
    matchDeadline := none, confirmLeft := none, rectOrder := none, lastRectTime := none, endReason := none } := by
  rw [freeSlot_eq h, State.noticeEnded]
  refine (notice_control ..).trans ?_
  rw [State.slotFreed, State.modSlot_control, State.modControl_control]

/-- Beside the string's record a freeing clears the slot's, hands its notice and starts a scan (R62, R70). -/
theorem freeSlot_kept (h : (s.control i).slot = some sl) :
    (s.freeSlot i).slot sl = {} ∧ (s.freeSlot i).marks.scan = true ∧ (s.freeSlot i).marks.commit = true
      ∧ (s.freeSlot i).ring.orders = s.ring.orders ∧ (s.freeSlot i).water = s.water
      ∧ ∀ j, j ≠ i → (s.freeSlot i).control j = s.control j := by
  rw [freeSlot_eq h, State.noticeEnded]
  refine ⟨(notice_slot ..).trans ?_, rfl, rfl, (notice_orders ..).trans ?_, ?_, fun j hj => (notice_control ..).trans ?_⟩
  · rw [State.slotFreed, State.modSlot_slot]
  · cases sl <;> rfl
  · rw [notice_eq]; cases sl <;> rfl
  · rw [State.slotFreed, State.modSlot_control, State.modControl_control_ne _ (Ne.symm hj)]

/-- An order that the gas stop lets stand waits in the order queue once it is handed to a queue with room (R164). -/
theorem handOrder_waits (s : State) {f : Frame} (hf : f.isRectOn = false) (hl : s.ring.orders.length ≤ 16) :
    ∃ o ∈ (s.handOrder f).ring.orders, o.frame = f := by
  have hg : gasStopped s.ring.gasStop f = f := if_neg (by simp [hf])
  show ∃ o ∈ (placeOrder s.bindingsName ⟨gasStopped s.ring.gasStop f, s.ring.orderCount⟩ s.ring.orders).1, o.frame = f
  rw [hg]
  unfold placeOrder
  split
  · next h =>
    obtain ⟨w, hw, e⟩ := List.any_eq_true.mp h
    exact ⟨_, List.mem_map.mpr ⟨w, hw, if_pos e⟩, rfl⟩
  · rw [if_pos (by unfold orderCap; omega)]
    exact ⟨_, List.mem_append_right _ (List.mem_singleton_self _), rfl⟩

theorem releaseHeld_control (s : State) (i : Str) : (s.releaseHeld i).control i = { s.control i with heldOrder := none } := by
  unfold State.releaseHeld
  split
  · next f h =>
    exact (State.modControl_control s i fun c => { c with heldOrder := none })
  · next h => rw [← h]

end

end Sys2Proof.Machine

/-! ## CLEAR_FAULT (R78) -/

namespace Sys2Proof.Machine

/-- A request that is accepted and hands no notice leaves the reply alone behind the replies that waited (R160). -/
theorem exec_accepted_alone {c : Instr} {src : Byte} {r : Request} {s t : State} {dt : Nat}
    (hc : requestOf c = some (src, .request r)) (hd : dtOf c = dt) (hs : s.takesFrom src)
    (ha : ((s.begin dt).heldFor src).act r = t.accept)
    (hr : t.ring.replies = ((s.begin dt).heldFor src).ring.replies) :
    exec c s = .next (t.modRing fun x =>
      { x with replies := s.ring.replies ++ [⟨src, s.ring.ownAddress, 0x31, [r.code, 0]⟩] }).settle := by
  have hq : t.ring.replies = s.ring.replies ++ ⟨src, s.ring.ownAddress, kindReply, []⟩ :: [] := by
    rw [hr]; simp [State.heldFor]
  have ho := State.offer_answered (p := .request r) (State.begin_takesFrom hs dt).1
    ((State.answer_request (State.begin_takesFrom hs dt) r).trans ha) (ns := []) (by rw [s.begin_ring]; exact hq)
  rw [exec_request hc, hd, ho, s.begin_ring]
  rfl

section
variable {s : State} {dt : Nat} {src string : Byte} {i : Str}

theorem State.act_clearFault (s : State) (src b : Byte) : (s.heldFor src).act (.clearFault b) =
    (s.heldFor src).askClearFault b := rfl

theorem clearFault_badArg (hs : s.takesFrom src)
    (h : 7 < string.toNat ∨ ∃ j : Str, string.toNat = j.val ∧ (s.cfg j).present = false) :
    exec (.clearFault dt src string) s = .next ((s.begin dt).replied src 0x42 .badArg 0 []).quietEnd := by
  refine exec_refused (r := .clearFault string) rfl rfl hs ?_
  rw [State.act_clearFault, State.askClearFault, State.withStr_absent (by simpa only [State.heldFor_present] using h)]

theorem clearFault_notAllowed (hs : s.takesFrom src) (hi : string.toNat = i.val) (hp : (s.cfg i).present = true)
    (h : (s.control i).state ≠ .faulted ∨ (s.reading i).lastPosition = some .openPos
        ∨ (s.reading i).lastPosition = some .moving ∨ (s.reading i).lastPosition = none
        ∨ ((s.reading i).lastPosition = some .eq ∧ (s.control i).slot = none)) :
    exec (.clearFault dt src string) s = .next ((s.begin dt).replied src 0x42 .notAllowed 0 []).quietEnd := by
  refine exec_refused (r := .clearFault string) rfl rfl hs ?_
  rw [State.act_clearFault, State.askClearFault, State.withStr_present hi (by rw [State.heldFor_present, hp])]
  unfold State.inState State.bound
  rw [State.heldFor_control, State.heldFor_reading]
  by_cases hf : (s.control i).state = .faulted
  · rw [if_neg (by simp [hf])]
    rcases h with h | h | h | h | ⟨h, k⟩
    · exact absurd hf h
    all_goals rw [h]
    · rw [k]; rfl
  · rw [if_pos (by simpa using hf)]

/-- At BUS the string comes to ON_BUS, and frees its slot if it holds one (R78). -/
theorem clearFault_bus (hs : s.takesFrom src) (hi : string.toNat = i.val) (hp : (s.cfg i).present = true)
    (hf : (s.control i).state = .faulted) (hl : (s.reading i).lastPosition = some .bus) :
    ∃ ns, exec (.clearFault dt src string) s = .next ((if (s.control i).slot.isSome = true then
        ((s.begin dt).heldFor src).toBusAndFree i else ((s.begin dt).heldFor src).toBus i).modRing fun x =>
      { x with replies := s.ring.replies ++ ⟨src, s.ring.ownAddress, 0x31, [0x42, 0]⟩ :: ns }).settle := by
  refine exec_accepted (r := .clearFault string) (dt := dt) (wet := false) (com := false) rfl rfl hs ?_ ?_
  · rw [State.act_clearFault, State.askClearFault, State.withStr_present hi (by rw [State.heldFor_present, hp])]
    unfold State.inState State.bound
    rw [State.heldFor_control, State.heldFor_reading, if_neg (by simp [hf]), hl]
    cases (s.control i).slot with
    | none => rfl
    | some sl => rfl
  · split
    · exact evolves_toBusAndFree (.refl _) i
    · exact evolves_toBus (.refl _) i

/-- At EQ with a slot the return begins, in the variant of R67 (R78). -/
theorem clearFault_eq (hs : s.takesFrom src) (hi : string.toNat = i.val) (hp : (s.cfg i).present = true)
    (hf : (s.control i).state = .faulted) (hl : (s.reading i).lastPosition = some .eq) (hsl : (s.control i).slot ≠ none) :
    exec (.clearFault dt src string) s = .next ((((s.begin dt).heldFor src).startReturn i
        (((s.begin dt).heldFor src).variantFor false ((s.begin dt).heldFor src).discharge) false).modRing fun x =>
      { x with replies := s.ring.replies ++ [⟨src, s.ring.ownAddress, 0x31, [0x42, 0]⟩] }).settle := by
  refine exec_accepted_alone (r := .clearFault string) rfl rfl hs ?_ (frame_startReturn _ i none _ _).replies
  rw [State.act_clearFault, State.askClearFault, State.withStr_present hi (by rw [State.heldFor_present, hp])]
  unfold State.inState State.bound
  rw [State.heldFor_control, State.heldFor_reading, if_neg (by simp [hf]), hl]
  cases h : (s.control i).slot with
  | none => exact absurd h hsl
  | some sl => rfl

end

section
variable {b : State} {i : Str} {sl : SlotId}

/-- A string that comes to ON_BUS holds what it held but its state (R62). -/
theorem toBus_control (h : (b.control i).state ≠ .onBus) : (b.toBus i).control i = { b.control i with state := .onBus } := by
  have hc := putOnBus_control b i
  rw [toBus_eq h, (homeKept_onBusChanged (b.putOnBus i) i).control i (by unfold State.home; rw [hc]; simp), hc]

theorem toBus_water (b : State) (i : Str) : (b.toBus i).water = b.water :=
  (homeKept_stateChanged (b.modControl i fun c => { c with state := .onBus }) i _).water

theorem toBus_scan (b : State) (i : Str) : (b.toBus i).marks.scan = true := stateChanged_scan ..

/-- The string in ON_BUS with its slot freed, before the change is handed on (R70). -/
def State.cameHome (b : State) (i : Str) : State := (b.modControl i fun c => { c with state := .onBus }).freeSlot i

theorem toBusAndFree_eq (b : State) (i : Str) :
    b.toBusAndFree i = ((b.cameHome i).stateChanged i (b.control i).state).releaseHeld i := rfl

theorem cameHome_control (h : (b.control i).slot = some sl) : (b.cameHome i).control i = { b.control i with
    state := .onBus, lastEqOutcome := some (eqOutcome (b.control i) (b.slot sl)), slot := none, variant := none, step := none
    matchDeadline := none, confirmLeft := none, rectOrder := none, lastRectTime := none, endReason := none } := by
  rw [State.cameHome, freeSlot_control (sl := sl) (by simpa using h), State.modControl_control, State.modControl_slot]
  rfl

theorem cameHome_kept (h : (b.control i).slot = some sl) :
    (b.cameHome i).slot sl = {} ∧ (b.cameHome i).marks.scan = true ∧ (b.cameHome i).marks.commit = true
      ∧ (b.cameHome i).ring.orders = b.ring.orders ∧ (b.cameHome i).water = b.water
      ∧ ∀ j, j ≠ i → (b.cameHome i).control j = b.control j := by
  obtain ⟨h1, h2, h3, h4, h6, h5⟩ := freeSlot_kept (s := b.modControl i fun c => { c with state := .onBus }) (i := i) (sl := sl)
    (by simpa using h)
  exact ⟨h1, h2, h3, h4, h6, fun j hj => (h5 j hj).trans (State.modControl_control_ne _ (Ne.symm hj) _)⟩

/-- What the coming home of a string with a slot leaves of it: its record, the freed slot, and its held order in the order queue
when nothing else is handed (R70, R76). -/
theorem toBusAndFree_kept (h : (b.control i).slot = some sl) :
    (b.toBusAndFree i).control i = { b.control i with
        state := .onBus, lastEqOutcome := some (eqOutcome (b.control i) (b.slot sl)), slot := none, variant := none
        step := none, matchDeadline := none, confirmLeft := none, rectOrder := none, lastRectTime := none, endReason := none
        heldOrder := none }
      ∧ (b.toBusAndFree i).slot sl = {} ∧ (b.toBusAndFree i).water = b.water ∧ (b.toBusAndFree i).marks.scan = true
      ∧ (b.toBusAndFree i).marks.commit = true
      ∧ (∀ f, (b.control i).heldOrder = some f → f.isRectOn = false → b.ring.orders.length ≤ 16 → b.onlyAway i →
          ∃ o ∈ (b.toBusAndFree i).ring.orders, o.frame = f) := by
  have hc := cameHome_control h
  obtain ⟨hslot, -, hcommit, horders, hwater, hothers⟩ := cameHome_kept h
  have hhome : (b.cameHome i).home i := by unfold State.home; rw [hc]; simp
  have k := homeKept_stateChanged (b.cameHome i) i (b.control i).state
  have hscan := stateChanged_scan (b.cameHome i) i (b.control i).state
  rw [toBusAndFree_eq]
  generalize (b.cameHome i).stateChanged i (b.control i).state = v at k hscan
  have hv : v.control i = (b.cameHome i).control i := k.control i hhome
  refine ⟨by rw [releaseHeld_control, hv, hc], ?_, ?_, ?_, ?_, fun f hf hr hl ho => ?_⟩
  · have e : (v.releaseHeld i).slot sl = v.slot sl := by
      unfold State.releaseHeld
      split
      · exact State.modControl_slot v i (fun c => { c with heldOrder := none }) sl
      · rfl
    rw [e]
    rcases k.slot sl with e | e <;> rw [e, hslot]
    rfl
  · unfold State.releaseHeld; split <;> exact k.water.trans hwater
  · unfold State.releaseHeld; split <;> exact hscan
  · unfold State.releaseHeld; split <;> exact k.commit hcommit
  · have hall : ∀ j, (b.cameHome i).home j := fun j => by
      by_cases e : j = i
      · rw [e]; exact hhome
      · unfold State.home; rw [hothers j e]; exact ho j e
    have hheld : (v.control i).heldOrder = some f := by rw [hv, hc]; exact hf
    unfold State.releaseHeld
    rw [hheld]
    exact handOrder_waits _ hr (by
      show v.ring.orders.length ≤ 16
      rw [k.orders hall, horders]; exact hl)

end

/-- What a request finds of the state it acts on (R160). -/
theorem State.heldFor_kept (s : State) (dt : Nat) (src : Byte) :
    ((s.begin dt).heldFor src).cells = s.cells ∧ ((s.begin dt).heldFor src).water = s.water
      ∧ ((s.begin dt).heldFor src).mgmt = s.mgmt ∧ ((s.begin dt).heldFor src).images = s.images
      ∧ ((s.begin dt).heldFor src).site = s.site ∧ ((s.begin dt).heldFor src).discharge = s.discharge
      ∧ ((s.begin dt).heldFor src).busVoltage = s.busVoltage ∧ ((s.begin dt).heldFor src).ring.sight = s.ring.sight
      ∧ (∀ k, ((s.begin dt).heldFor src).slot k = (s.begin dt).slot k)
      ∧ (∀ i, ((s.begin dt).heldFor src).windowHolds i = (s.begin dt).windowHolds i)
      ∧ ∀ i, ((s.begin dt).heldFor src).str i = (s.begin dt).str i := by
  refine ⟨?_, ?_, ?_, ?_, ?_, ?_, ?_, ?_, fun k => by cases k <;> rfl, fun _ => rfl, fun _ => rfl⟩ <;> simp [State.heldFor]

/-- The step in which a return begins: MATCH for a NORMAL one whose window does not hold, unless sight is BLIND (R68). -/
theorem returned_step_eq (b : State) (i : Str) (v : Variant) : (b.returned i v false).step =
    some (if v = .normal ∧ b.ring.sight ≠ .blind ∧ b.windowHolds i = false then .matching else .confirm) := by
  by_cases hoff : v ≠ .normal ∨ b.ring.sight = .blind
  · rw [if_neg fun k => hoff.elim (· k.1) k.2.1]
    exact (returned_off b i false hoff).1
  · obtain ⟨hv, hb⟩ : v = .normal ∧ b.ring.sight ≠ .blind := by tauto
    have k := returned_step b i false hb
    subst hv
    by_cases hw : b.windowHolds i = true
    · rw [if_pos (.inr hw)] at k
      rw [k.1, if_neg (by simp [hw])]
    · rw [if_neg (by simpa using hw)] at k
      rw [k.1, if_pos ⟨rfl, hb, by simpa using hw⟩]

/-- Settles O43: the refusals by their conditions, the coming home and the return by what they leave. -/
theorem clearFaultByPosition : Obligations.ClearFaultByPosition := by
  intro s dt src string hs
  refine ⟨clearFault_badArg hs, fun i hi hp => ⟨clearFault_notAllowed hs hi hp, fun hf hl => ?_, fun sl hf hl hsl => ?_⟩⟩
  · obtain ⟨ns, e⟩ := clearFault_bus (dt := dt) hs hi hp hf hl
    have hev : State.Evolves false false ((s.begin dt).heldFor src) (if (s.control i).slot.isSome = true then
        ((s.begin dt).heldFor src).toBusAndFree i else ((s.begin dt).heldFor src).toBus i) := by
      split
      · exact evolves_toBusAndFree (.refl _) i
      · exact evolves_toBus (.refl _) i
    obtain ⟨hcells, hmgmt, himages⟩ := State.heldFor_evolves hev
    have hctl := State.heldFor_control s dt src
    have hslot : ∀ sl, ((s.begin dt).heldFor src).slot sl = (s.slot sl).elapse dt := s.begin_slot dt
    have horders : ((s.begin dt).heldFor src).ring.orders = s.ring.orders := by simp [State.heldFor]
    have hw := State.heldFor_water s dt src
    generalize (s.begin dt).heldFor src = b at e hcells hmgmt himages hctl hslot horders hw
    have hbus : (b.control i).state ≠ .onBus := by rw [hctl]; dsimp only; rw [hf]; decide
    have hcontrol : b.control i = { s.control i with confirmLeft := (b.control i).confirmLeft } := by rw [hctl]
    cases hsl : (s.control i).slot with
    | none =>
      have hc := toBus_control hbus
      have hscan := toBus_scan b i
      have hwater := toBus_water b i
      rw [hsl, if_neg (by simp)] at e hcells hmgmt himages
      generalize b.toBus i = v at e hcells hmgmt himages hc hscan hwater
      exact ⟨_, ns, e, congrArg Control.state hc, (congrArg Control.slot hc).trans (by rw [hcontrol]; exact hsl), hscan,
        fun sl h => (by cases h), rfl, hcells, hwater.trans hw, hmgmt, himages⟩
    | some sl =>
      obtain ⟨hc, hfree, hwater, hscan, hcommit, hheld⟩ :=
        toBusAndFree_kept (b := b) (i := i) (sl := sl) (by rw [hcontrol]; exact hsl)
      rw [hsl, if_pos (by simp)] at e hcells hmgmt himages
      generalize b.toBusAndFree i = v at e hcells hmgmt himages hc hfree hscan hcommit hheld hwater
      refine ⟨_, ns, e, congrArg Control.state hc, congrArg Control.slot hc, hscan, fun x hx => ?_, rfl, hcells,
        hwater.trans hw, hmgmt, himages⟩
      cases hx
      refine ⟨hcommit, hfree, congrArg Control.rectOrder hc, congrArg Control.endReason hc, congrArg Control.heldOrder hc,
        fun f hf hr hlen ho => ?_, (congrArg Control.lastEqOutcome hc).trans ?_⟩
      · exact hheld f (by rw [hcontrol]; exact hf) hr (by rw [horders]; exact hlen) fun j hj => by rw [hctl]; exact ho j hj
      · rw [hcontrol, hslot]
        simp [eqOutcome]
  · have e := clearFault_eq (dt := dt) hs hi hp hf hl (by rw [hsl]; simp)
    have hown := State.heldFor_kept s dt src
    have hctl := State.heldFor_control s dt src i
    generalize (s.begin dt).heldFor src = b at e hown hctl
    obtain ⟨hcells, hw, hmgmt, himages, hsite, hdis, hbus, hsight, hslot, hwin, hstr⟩ := hown
    have hvariant : b.variantFor false b.discharge = if s.site.gasLatch = true then .gas
        else if s.discharge = true ∧ s.busLowOrAbsent = true then .fast else .normal := by
      have hlow : b.busLowOrAbsent = s.busLowOrAbsent := by unfold State.busLowOrAbsent State.lim; rw [hbus, himages]
      unfold State.variantFor
      rw [hsite, hdis, hlow, Bool.false_or]
      simp only [Bool.and_eq_true]
    generalize b.variantFor false b.discharge = v at e hvariant
    have hf := frame_startReturn b i none v false
    obtain ⟨kstate, kvar, kslot, -, kend, -⟩ := returned_kept b i v false
    have kstep := returned_step_eq b i v
    have hscan := startReturn_scan b i v false
    have hrest := startReturn_slot b i v false sl
    rw [← startReturn_control] at kstate kvar kslot kend kstep
    generalize b.startReturn i v false = w at e hf kstate kvar kslot kend kstep hscan hrest
    refine ⟨_, e, kstate, kslot.trans (by rw [hctl]; exact hsl), hrest.trans (hslot sl), kend.trans (by rw [hctl]),
      kvar.trans (by rw [hvariant]), kstep.trans ?_, hscan, fun j hj => (hf.str j hj).trans (hstr j), rfl,
      hf.cells.trans hcells, hf.water.trans hw, hf.mgmt.trans hmgmt, hf.images.trans himages⟩
    have hv : ((w.modRing fun x => { x with replies := s.ring.replies ++ [⟨src, s.ring.ownAddress, 0x31, [0x42, 0]⟩] }).control
        i).variant = some v := kvar
    rw [hv, hsight, hwin]
    simp only [Option.some.injEq]

end Sys2Proof.Machine
end

section
open Sys2Proof Sys2Proof.Machine

/-! ## The turns of the strings in a pass over all of them (log 40) -/

namespace Sys2Proof.Machine

/-- What the turns of the other strings in a pass of end causes leave to the string `i`: beside its record and the blocks, the
slots but for those they stop, and the marks but for the scan. -/
structure State.Aside (i : Str) (s t : State) : Prop where
  beside : State.Beside i s t
  slot : ∀ k, t.slot k = s.slot k ∨ t.slot k = (s.slot k).stopped
  scan : s.marks.scan = true → t.marks.scan = true
  gate : t.marks.gate = s.marks.gate
  commit : t.marks.commit = s.marks.commit
  trigLevel : t.trigLevel = s.trigLevel
  pending : t.pending = s.pending

section
variable {i j : Str} {s t u v w : State} {c : EndReason}

theorem State.Aside.refl (i : Str) (s : State) : State.Aside i s s :=
  ⟨.refl i s, fun _ => .inl rfl, id, rfl, rfl, rfl, rfl⟩

theorem State.Aside.trans (h : State.Aside i s t) (k : State.Aside i t u) : State.Aside i s u where
  beside := h.beside.trans k.beside
  slot x := by
    rcases h.slot x with e | e <;> rcases k.slot x with f | f <;> rw [e] at f
    · exact .inl f
    · exact .inr f
    · exact .inr f
    · exact .inr f
  scan x := k.scan (h.scan x)
  gate := k.gate.trans h.gate
  commit := k.commit.trans h.commit
  trigLevel := k.trigLevel.trans h.trigLevel
  pending := k.pending.trans h.pending

theorem State.Aside.control (h : State.Aside i s t) : t.control i = s.control i := congrArg StringRec.control h.beside.str

theorem aside_endCause (u : State) (h : j ≠ i) (c : EndReason) : State.Aside i u (u.endCause j c) :=
  have f := frame_endCause u j c
  ⟨f.beside h, (homeKept_endCause u j c).slot, f.scan, f.gate, f.commit, f.trigLevel, f.pending⟩

/-- The trigger of a round is not moved by the turns of other strings. -/
theorem State.Aside.triggered (h : State.Aside i s t) : t.triggered i = s.triggered i := by
  have hs : ∀ k, (t.slot k).triggerStarted = (s.slot k).triggerStarted := fun k => by
    rcases h.slot k with e | e <;> rw [e]
    rfl
  unfold State.triggered State.inState
  rw [h.control]
  cases (s.control i).slot with
  | none => rfl
  | some k => simp only [hs]

/-- An end of a round stands through the turns of other strings. -/
theorem State.EndedFor.aside (h : s.EndedFor v i c) (k : State.Aside i v w) : s.EndedFor w i c where
  state := by rw [k.control]; exact h.state
  endReason := by rw [k.control]; exact h.endReason
  endStamp := by rw [k.control]; exact h.endStamp
  slot := by rw [k.control]; exact h.slot
  stopped sl hs := by
    rcases k.slot sl with e | e <;> rw [e]
    · exact h.stopped sl hs
    · exact ⟨rfl, rfl, rfl, rfl⟩
  variant := by rw [k.control]; exact h.variant

/-- The end of a round that turns of other strings came before. -/
theorem State.EndedFor.after (h : State.Aside i s u) (k : u.EndedFor w i c) : s.EndedFor w i c :=
  k.of_same (by rw [h.control]) h.beside.mgmt (by rw [h.beside.site]) h.beside.busVoltage h.beside.images

/-! ## The triggered rounds (R121, R122) -/

theorem triggered_inRound (h : s.triggered i = true) :
    (s.control i).state = .called ∨ (s.control i).state = .equalising := by
  simp only [State.triggered, State.inState, Bool.and_eq_true, Bool.or_eq_true, beq_iff_eq] at h
  exact h.1

/-- A string's turn in the pass that ends the triggered rounds. -/
def State.endIfTriggered (c : EndReason) (i : Str) (s : State) : State :=
  if s.triggered i then s.endCause i c else s

theorem endTriggered_eq (s : State) (c : EndReason) : s.endTriggered c = s.eachStr (State.endIfTriggered c) := rfl

theorem aside_endIfTriggered (c : EndReason) (j : Str) (u : State) (h : j ≠ i) :
    State.Aside i u (u.endIfTriggered c j) := by
  unfold State.endIfTriggered
  split
  · exact aside_endCause u h c
  · exact .refl i u

/-- The turn of each string in the pass, between the turns of the strings before and behind it. -/
theorem endTriggered_turn (s : State) (c : EndReason) (i : Str) :
    ∃ u, State.Aside i s u ∧ State.Aside i (u.endIfTriggered c i) (s.endTriggered c) :=
  eachStr_turn (State.Aside.refl i) State.Aside.trans (fun k u hk => aside_endIfTriggered c k u hk) s

/-- Every triggered round has ended with the cause (R67). -/
theorem endTriggered_ended (h : s.triggered i = true) (c : EndReason) : s.EndedFor (s.endTriggered c) i c
    ∧ ((s.endTriggered c).control i).holdoffUntil =
      if c.setsHoldoff = true ∧ s.lim.holdoffMin ≠ 0 then some (s.mgmt.clock.plusMinutes s.lim.holdoffMin)
      else (s.control i).holdoffUntil := by
  obtain ⟨u, hu, hw⟩ := endTriggered_turn s c i
  have ht : u.triggered i = true := hu.triggered.trans h
  have e : u.endIfTriggered c i = u.endRound i c := (if_pos ht).trans (endCause_away (triggered_inRound ht) c)
  rw [e] at hw
  have hlim : u.lim = s.lim := by unfold State.lim; rw [hu.beside.images]
  exact ⟨((endRound_ended u i c).after hu).aside hw, by rw [hw.control, endRound_holdoff, hlim, hu.beside.mgmt, hu.control]⟩

/-- A string without a triggered round keeps its record. -/
theorem endTriggered_str (h : s.triggered i = false) (c : EndReason) : (s.endTriggered c).str i = s.str i := by
  obtain ⟨u, hu, hw⟩ := endTriggered_turn s c i
  have e : u.endIfTriggered c i = u := if_neg (by rw [hu.triggered, h]; decide)
  rw [e] at hw
  exact hw.beside.str.trans hu.beside.str

/-- The pass leaves the blocks that end causes do not move. -/
theorem endTriggered_kept (s : State) (c : EndReason) :
    (s.endTriggered c).cells = s.cells ∧ (s.endTriggered c).water = s.water ∧ (s.endTriggered c).mgmt = s.mgmt
      ∧ (s.endTriggered c).images = s.images ∧ (s.endTriggered c).trigLevel = s.trigLevel
      ∧ (s.endTriggered c).marks.gate = s.marks.gate := by
  obtain ⟨u, hu, hw⟩ := endTriggered_turn s c 0
  have f : State.RoundFrame 0 (u.control 0).slot u (u.endIfTriggered c 0) := frame_ite (frame_endCause u 0 c) (.refl ..)
  exact ⟨hw.beside.cells.trans (f.cells.trans hu.beside.cells), hw.beside.water.trans (f.water.trans hu.beside.water),
    hw.beside.mgmt.trans (f.mgmt.trans hu.beside.mgmt), hw.beside.images.trans (f.images.trans hu.beside.images),
    hw.trigLevel.trans (f.trigLevel.trans hu.trigLevel), hw.gate.trans (f.gate.trans hu.gate)⟩

/-! ## The edge (R120, R144) -/

/-- The state in which a settled TRIG edge is taken: the level filtered, and handed to the Scheduler (R120, R144). -/
def State.trigTaken (u : State) (high : Bool) : State :=
  { u.modSite fun t => { t with trig := ⟨high, high, none⟩ } with trigLevel := high }

/-- The scan of an edge, and the gate of a rise, are the only marks of its event (R120, R121). -/
theorem trigTaken_marks {u : State} (h : u.marks = {}) (high : Bool) :
    (u.trigTaken high).markScan
        = { u.modSite fun t => { t with trig := ⟨high, high, none⟩ } with trigLevel := high, marks := { scan := true } }
      ∧ ({ u.trigTaken high with marks := { (u.trigTaken high).marks with gate := true } } : State).markScan
        = { u.modSite fun t => { t with trig := ⟨high, high, none⟩ } with
            trigLevel := high, marks := { scan := true, gate := true } } := by
  obtain ⟨⟩ := u
  cases h
  exact ⟨rfl, rfl⟩

theorem trigTaken_slot (u : State) (high : Bool) (k : SlotId) : (u.trigTaken high).slot k = u.slot k := by
  cases k <;> rfl

theorem trigTaken_triggered (u : State) (high : Bool) (i : Str) : (u.trigTaken high).triggered i = u.triggered i := by
  unfold State.triggered State.inState
  simp only [trigTaken_slot]
  rfl

theorem State.begin_triggered (s : State) (dt : Nat) (i : Str) : (s.begin dt).triggered i = s.triggered i := by
  unfold State.triggered State.inState
  simp only [(s.begin_control_kept dt i).1, (s.begin_control_kept dt i).2.2.1, s.begin_slot, SlotRec.elapse_triggerStarted]

/-- What the pass over the triggered rounds leaves of the state before the edge. -/
theorem trigTaken_endTriggered (s : State) (dt : Nat) (high : Bool) (c : EndReason) {w : State}
    (hw : ((s.begin dt).trigTaken high).endTriggered c = w) :
    w.trigLevel = high ∧ w.marks.gate = false
      ∧ (∀ i, s.triggered i = true → s.EndedFor w i c ∧ (w.control i).holdoffUntil =
          if c.setsHoldoff = true ∧ s.lim.holdoffMin ≠ 0 then some (s.mgmt.clock.plusMinutes s.lim.holdoffMin)
          else (s.control i).holdoffUntil)
      ∧ (∀ i, s.triggered i = false → w.str i = (s.begin dt).str i)
      ∧ w.cells = s.cells ∧ w.water = s.water ∧ w.mgmt = s.mgmt ∧ w.images = s.images := by
  subst hw
  have hcells := s.begin_cells dt
  have hwater := s.begin_water dt
  have hmgmt := s.begin_mgmt dt
  have himages := s.begin_images dt
  have hsite := s.begin_site dt
  have hbus := s.begin_busVoltage dt
  have hctl := s.begin_control_eq dt
  have htrig := s.begin_triggered dt
  have hmarks : (s.begin dt).marks.gate = false := by rw [s.begin_marks]
  have hlim := s.begin_lim dt
  generalize s.begin dt = b at hcells hwater hmgmt himages hsite hbus hctl htrig hmarks hlim
  obtain ⟨kcells, kwater, kmgmt, kimages, klevel, kgate⟩ := endTriggered_kept (b.trigTaken high) c
  refine ⟨klevel, kgate.trans hmarks, fun i hi => ?_, fun i hi => ?_, kcells.trans hcells, kwater.trans hwater,
    kmgmt.trans hmgmt, kimages.trans himages⟩
  · obtain ⟨he, hh⟩ := endTriggered_ended (s := b.trigTaken high) (i := i) (by rw [trigTaken_triggered, htrig, hi]) c
    refine ⟨he.of_same ?_ hmgmt ?_ hbus himages, hh.trans ?_⟩
    · show (b.control i).slot = _
      rw [hctl]
    · show b.site.gasLatch = _
      rw [hsite]
    · show (if c.setsHoldoff = true ∧ b.lim.holdoffMin ≠ 0 then some (b.mgmt.clock.plusMinutes b.lim.holdoffMin)
        else (b.control i).holdoffUntil) = _
      rw [hlim, hmgmt, hctl]
  · exact endTriggered_str (s := b.trigTaken high) (by rw [trigTaken_triggered, htrig, hi]) c

end

section
variable {s : State} {dt : Nat} {high : Bool}

/-- A settled line has settled when its event is due (R144). -/
theorem State.begin_settled {l : Line} (h : s.lineSettles l high dt) : (s.begin dt).settled l high = true := by
  obtain ⟨hraw, hlevel, e, he, hle⟩ := h
  unfold State.settled
  dsimp only
  rw [s.begin_site, hraw, hlevel, State.begin_reached he hle]
  simp

/-- A settled TRIG line is an edge, which the Scheduler takes (R120, R144). -/
theorem exec_trigEdge (h : s.lineSettles .trig high dt) :
    exec (.trigEdge dt) s = .next (((s.begin dt).takeLevel .trig).trigChanges high).settle := by
  have hdue : ((s.begin dt).settled .trig true || (s.begin dt).settled .trig false) = true := by
    have := State.begin_settled h
    cases high <;> simp [this]
  have hraw : (s.begin dt).site.trig.raw = high := by rw [s.begin_site]; exact h.1
  simp only [exec]
  rw [execTrigEdge, eventIf_due hdue, hraw]

/-- The filtered level of a settled TRIG line with the trig level of the Scheduler. -/
theorem takeLevel_trig {u : State} (h : u.site.trig.raw = high) :
    { u.takeLevel .trig with trigLevel := high } = u.trigTaken high := by
  subst h
  rfl

/-- An edge that ends no round and opens no gate (R120). -/
theorem trigChanges_quiet {u : State} (h : u.lim.triggerMode = .off ∨ (u.lim.triggerMode = .edge ∧ high = false)
    ∨ (u.lim.triggerMode = .level ∧ high = true)) : u.trigChanges high = State.markScan { u with trigLevel := high } := by
  unfold State.trigChanges
  have hl : ({ u with trigLevel := high } : State).lim = u.lim := rfl
  dsimp only
  rw [hl]
  rcases h with h | ⟨h, rfl⟩ | ⟨h, rfl⟩ <;> rw [h]

/-- The gate stands open for the scan of this event (R121). -/
def State.gateOpened (s : State) : State := { s with marks := { s.marks with gate := true } }

/-- A rise in EDGE mode cancels the triggered rounds, or opens the gate when there is none (R121). -/
theorem trigChanges_edge {u : State} (h : u.lim.triggerMode = .edge) : u.trigChanges true = State.markScan
    (if allStrs.any fun i => State.triggered { u with trigLevel := true } i then
      State.endTriggered { u with trigLevel := true } .trigCancel
      else State.gateOpened { u with trigLevel := true }) := by
  unfold State.trigChanges
  have hl : ({ u with trigLevel := true } : State).lim = u.lim := rfl
  dsimp only
  rw [hl, h]
  rfl

/-- A fall in LEVEL mode ends the triggered rounds (R122). -/
theorem trigChanges_level {u : State} (h : u.lim.triggerMode = .level) :
    u.trigChanges false = (State.endTriggered { u with trigLevel := false } .trigFall).markScan := by
  unfold State.trigChanges
  have hl : ({ u with trigLevel := false } : State).lim = u.lim := rfl
  dsimp only
  rw [hl, h]

end

theorem aside_markScan (s : State) (i : Str) : State.Aside i s s.markScan :=
  have f := frame_markScan s 0 none
  ⟨⟨rfl, rfl, rfl, rfl, rfl, rfl, rfl, rfl, rfl, rfl, fun _ h => h, rfl⟩, fun k => .inl (markScan_slot s k), f.scan, f.gate,
    f.commit, f.trigLevel, f.pending⟩

/-- Settles O25: the edge by its trigger mode, the rounds that it ends by the turns of the strings. -/
theorem triggerEdgesStartAndStopRounds : Obligations.TriggerEdgesStartAndStopRounds := by
  intro s dt high h
  have hraw : (s.begin dt).site.trig.raw = high := by rw [s.begin_site]; exact h.1
  have hlim : ((s.begin dt).takeLevel .trig).lim = s.lim := s.begin_lim dt
  have htaken := takeLevel_trig hraw
  have htrig : ∀ i, ((s.begin dt).trigTaken high).triggered i = s.triggered i := fun i => by
    rw [trigTaken_triggered, s.begin_triggered]
  have hends : ∀ c w, ((s.begin dt).trigTaken high).endTriggered c = w → ∀ i, s.triggered i = true →
      s.EndedFor w.markScan i c ∧ (w.markScan.control i).holdoffUntil =
        if c.setsHoldoff = true ∧ s.lim.holdoffMin ≠ 0 then some (s.mgmt.clock.plusMinutes s.lim.holdoffMin)
        else (s.control i).holdoffUntil := fun c w hw i hi => by
    obtain ⟨-, -, hend, -⟩ := trigTaken_endTriggered s dt high c hw
    obtain ⟨he, hh⟩ := hend i hi
    exact ⟨he.aside (aside_markScan w i), hh⟩
  rw [exec_trigEdge h]
  refine ⟨fun hm => ?_, fun hm hh hn => ?_, fun hm hh hex => ?_, fun hm hh => ?_⟩
  · rw [trigChanges_quiet (by rw [hlim]; exact hm), htaken, (trigTaken_marks (s.begin_marks dt) high).1]
  · subst hh
    rw [trigChanges_edge (by rw [hlim]; exact hm), htaken, if_neg (by simp [htrig, hn]), State.gateOpened,
      (trigTaken_marks (s.begin_marks dt) true).2]
  · subst hh
    obtain ⟨j, hj⟩ := hex
    have hany : (allStrs.any fun i => ((s.begin dt).trigTaken true).triggered i) = true :=
      List.any_eq_true.mpr ⟨j, mem_allStrs j, (htrig j).trans hj⟩
    rw [trigChanges_edge (by rw [hlim]; exact hm), htaken, if_pos hany]
    obtain ⟨hlevel, hgate, -, hrest, hcells, hwater, hmgmt, himages⟩ := trigTaken_endTriggered s dt true .trigCancel rfl
    have hend := hends .trigCancel _ rfl
    generalize ((s.begin dt).trigTaken true).endTriggered .trigCancel = w at hlevel hgate hrest hcells hwater hmgmt himages hend
    refine ⟨_, rfl, hlevel, rfl, hgate, fun i hi => ?_, hrest, hcells, hwater, hmgmt, himages⟩
    obtain ⟨he, hh⟩ := hend i hi
    exact ⟨he, fun h0 => hh.trans (by rw [if_pos ⟨rfl, h0⟩, Stamp.plusMinutes])⟩
  · subst hh
    rw [trigChanges_level (by rw [hlim]; exact hm), htaken]
    obtain ⟨hlevel, hgate, -, hrest, hcells, hwater, hmgmt, himages⟩ := trigTaken_endTriggered s dt false .trigFall rfl
    have hend := hends .trigFall _ rfl
    generalize ((s.begin dt).trigTaken false).endTriggered .trigFall = w at hlevel hgate hrest hcells hwater hmgmt himages hend
    refine ⟨_, rfl, hlevel, rfl, hgate, fun i hi => ?_, hrest, hcells, hwater, hmgmt, himages⟩
    obtain ⟨he, hh⟩ := hend i hi
    exact ⟨he, hh.trans (if_neg (by simp [EndReason.setsHoldoff]))⟩

end Sys2Proof.Machine
end

section
open Sys2Proof Sys2Proof.Machine

/-! ## What the start of an entry leaves outside its slot -/

namespace Sys2Proof.Machine

/-- A slot that starts an entry, or ends its round for a cause of its own, leaves the Watering Unit and the cells,
the record of every string that is neither CALLED nor EQUALISING, and the outcome of every watering round (R83, R84). -/
structure State.EntryMoves (s t : State) : Prop where
  now : t.now = s.now
  cells : t.cells = s.cells
  busVoltage : t.busVoltage = s.busVoltage
  discharge : t.discharge = s.discharge
  water : t.water = s.water
  mgmt : t.mgmt = s.mgmt
  images : t.images = s.images
  str : ∀ j, (s.control j).state ≠ .called → (s.control j).state ≠ .equalising → t.str j = s.str j
  outcome : ∀ j, (t.control j).lastWaterOutcome = (s.control j).lastWaterOutcome

section
variable {s t u : State} {sl : SlotId}

theorem State.EntryMoves.refl (s : State) : s.EntryMoves s :=
  ⟨rfl, rfl, rfl, rfl, rfl, rfl, rfl, fun _ _ _ => rfl, fun _ => rfl⟩

theorem State.EntryMoves.trans (h : s.EntryMoves t) (k : t.EntryMoves u) : s.EntryMoves u where
  now := k.now.trans h.now
  cells := k.cells.trans h.cells
  busVoltage := k.busVoltage.trans h.busVoltage
  discharge := k.discharge.trans h.discharge
  water := k.water.trans h.water
  mgmt := k.mgmt.trans h.mgmt
  images := k.images.trans h.images
  str j h1 h2 := by
    have e := h.str j h1 h2
    have ec : t.control j = s.control j := congrArg StringRec.control e
    exact (k.str j (by rw [ec]; exact h1) (by rw [ec]; exact h2)).trans e
  outcome j := (k.outcome j).trans (h.outcome j)

theorem entryMoves_ite {c : Prop} [Decidable c] (h : s.EntryMoves t) (k : s.EntryMoves u) :
    s.EntryMoves (if c then t else u) := by
  split <;> assumption

/-- What a slot does to its own record, its orders and the generator request. -/
theorem State.SlotActs.entryMoves (h : s.SlotActs sl t) : s.EntryMoves t where
  now := h.now
  cells := by rw [h.eq]
  busVoltage := by rw [h.eq]
  discharge := by rw [h.eq]
  water := h.water
  mgmt := h.mgmt
  images := h.images
  str j _ _ := by unfold State.str; rw [h.strings]
  outcome j := by rw [h.control]

theorem endRound_lastWaterOutcome (s : State) (i : Str) (c : EndReason) :
    ((s.endRound i c).control i).lastWaterOutcome = (s.control i).lastWaterOutcome := by
  obtain ⟨-, -, -, -, -, -, -, -, -, -, hw⟩ := returned_kept (s.beforeReturn i c) i
    (s.variantFor (c == .gas) (c == .discharge)) (s.inState i .called)
  rw [endRound_control, hw, beforeReturn_control]
  unfold State.endedRecord
  dsimp only
  split <;> rfl

/-- The end causes of a slot's own find a return in flight without effect (R67). -/
theorem endCause_own {c : EndReason} {i : Str} (hc : c ≠ .gas ∧ c ≠ .discharge ∧ c ≠ .blind)
    (h1 : (s.control i).state ≠ .called) (h2 : (s.control i).state ≠ .equalising) : s.endCause i c = s := by
  unfold State.endCause
  split
  · next h => exact absurd h h1
  · next h => exact absurd h h2
  · obtain ⟨g, d, b⟩ := hc
    unfold State.causeInReturn
    cases c with
    | gas => exact absurd rfl g
    | discharge => exact absurd rfl d
    | blind => exact absurd rfl b
    | _ => rfl
  · rfl

theorem entryMoves_slotEnds (s : State) (sl : SlotId) {c : EndReason} (hc : c ≠ .gas ∧ c ≠ .discharge ∧ c ≠ .blind) :
    s.EntryMoves (s.slotEnds sl c) := by
  unfold State.slotEnds
  split
  · next i _ =>
    have f := frame_endCause s i c
    refine ⟨f.now, f.cells, f.busVoltage, f.discharge, f.water, f.mgmt, f.images,
      fun j h1 h2 => ?_, fun j => ?_⟩
    · by_cases hj : j = i
      · subst hj; rw [endCause_own hc h1 h2]
      · exact f.str j hj
    · by_cases hj : j = i
      · subst hj
        by_cases ha : (s.control j).state = .called ∨ (s.control j).state = .equalising
        · rw [endCause_away ha, endRound_lastWaterOutcome]
        · rw [endCause_own hc (fun h => ha (.inl h)) fun h => ha (.inr h)]
      · exact congrArg (fun r => r.control.lastWaterOutcome) (f.str j hj)
  · exact .refl s

theorem entryMoves_followSite (s : State) : s.EntryMoves s.followSite := by
  rw [followSite_fixed s]
  generalize s.followSite.site = t
  exact ⟨rfl, rfl, rfl, rfl, rfl, rfl, rfl, fun _ _ _ => rfl, fun _ => rfl⟩

theorem entryMoves_enqueue (s : State) (e : Entry) : s.EntryMoves (s.enqueue e) := by
  obtain ⟨q, hq, -⟩ := enqueue_spec s e
  rw [hq]
  exact ⟨rfl, rfl, rfl, rfl, rfl, rfl, rfl, fun _ _ _ => rfl, fun _ => rfl⟩

theorem entryMoves_suspend (s : State) (sl : SlotId) (b : ResumeState) (o : RectOrder) : s.EntryMoves (s.suspend sl b o) := by
  obtain ⟨u, hu, -, heq⟩ := suspend_eq s sl b o
  rw [heq]
  exact entryMoves_ite (hu.entryMoves.trans (entryMoves_slotEnds u sl (by decide))) hu.entryMoves

theorem stretchBarred_own {c : EndReason} (h : s.stretchBarred sl = some c) : c ≠ .gas ∧ c ≠ .discharge ∧ c ≠ .blind := by
  unfold State.stretchBarred at h
  split at h
  · cases h; decide
  · split at h
    · cases h; decide
    · cases h

theorem entryMoves_beginStretch (s : State) (sl : SlotId) (b : ResumeState) : s.EntryMoves (s.beginStretch sl b) := by
  have hj := (acts_judgeReasons s sl).entryMoves
  unfold State.beginStretch
  dsimp only
  split
  · next c hc => exact hj.trans (entryMoves_slotEnds _ sl (stretchBarred_own hc))
  · exact hj.trans (entryMoves_ite (entryMoves_suspend ..)
      (((acts_modSlot ..).trans (acts_slotOrder ..)).trans (acts_judgeCriterion ..)).entryMoves)

theorem entryMoves_startWater (s : State) (sl : SlotId) (i : Str) : s.EntryMoves (s.startWater sl i) := by
  unfold State.startWater
  dsimp only
  refine State.EntryMoves.trans ?_ ((acts_modSlot ..).trans (acts_slotOrder ..)).entryMoves
  exact (acts_judgeReasons s sl).entryMoves.trans (entryMoves_ite (.refl _) (entryMoves_enqueue ..))

theorem entryMoves_startEntry (sl : SlotId) (n : Nat) : ∀ s : State, s.EntryMoves (s.startEntry sl n) := by
  induction n with
  | zero => exact .refl
  | succ n ih =>
    intro s
    have h0 : s.EntryMoves (s.modSlot sl SlotRec.entryReset) := (acts_modSlot ..).entryMoves
    unfold State.startEntry
    dsimp only
    split
    · exact h0.trans ((acts_modSlot ..).entryMoves.trans (entryMoves_beginStretch ..))
    · split
      · exact h0.trans ((acts_modSlot ..).entryMoves.trans (entryMoves_beginStretch ..))
      · exact h0.trans (((acts_judgeReasons ..).trans (acts_modSlot ..)).trans (acts_slotOrder ..)).entryMoves
      · exact h0.trans (entryMoves_slotEnds _ sl (by decide))
      · split
        · split
          · exact h0.trans (entryMoves_startWater ..)
          · exact h0.trans ((acts_modSlot ..).entryMoves.trans (ih _))
        · exact h0

theorem entryMoves_nextEntry (s : State) (sl : SlotId) : s.EntryMoves (s.nextEntry sl) :=
  ((acts_modSlot ..).entryMoves.trans (entryMoves_startEntry sl 13 _)).trans (entryMoves_followSite _)

/-- The report of a watering round's end to the slot that waits for it (R88). -/
theorem entryMoves_reportToSlot (s : State) (i : Str) : s.EntryMoves (s.reportToSlot i) := by
  unfold State.reportToSlot State.endWaterWait
  split
  · exact entryMoves_ite ((acts_modSlot ..).entryMoves.trans (entryMoves_nextEntry ..)) (.refl s)
  · exact .refl s

end

end Sys2Proof.Machine
end

section
open Sys2Proof Sys2Proof.Machine

/-! ## The early end of a watering round (R130, R131, R134, R135) -/

namespace Sys2Proof.Machine

/-! ### Cells and positions -/

theorem cellPos_cellIx (i : Str) (p : Pos) : cellPos (cellIx i p) = p :=
  Fin.ext (by show (i.val * 24 + p.val) % 24 = p.val; omega)

theorem cellStr_cellIx (i : Str) (p : Pos) : cellStr (cellIx i p) = i :=
  Fin.ext (by show (i.val * 24 + p.val) / 24 = i.val; omega)

/-- A sum over the elements that pass a test. -/
theorem sum_map_filter {α : Type} (q : α → Bool) (f : α → Nat) (l : List α) :
    ((l.filter q).map f).sum = (l.map fun x => if q x = true then f x else 0).sum := by
  induction l with
  | nil => rfl
  | cons x l ih =>
    cases h : q x with
    | true => simp [h, ih]
    | false => simp [h, ih]

/-! ### The account of the open valves (R134) -/

/-- What the valve at a position of the group has given when it closes now; a position without an item gives nothing (R131). -/
def State.closeMl (s : State) (p : Pos) : Nat :=
  match s.groupItem? p with
  | some g => g.dispensed s.lim.flowX10 s.now
  | none => 0

/-- One valve in the pass that accounts for the open ones. -/
def State.accountAt (i : Str) (s : State) (p : Pos) : State :=
  match s.groupItem? p with
  | some g => s.accountClose i p (g.dispensed s.lim.flowX10 s.now) false
  | none => s

theorem accountOpen_foldl (s : State) (i : Str) :
    s.accountOpen i = (allPos.filter fun p => s.water.openSet.contains p).foldl (State.accountAt i) s := rfl

/-- What the closes of the positions `ps` on the manifold of `i` make of a state. -/
structure State.Closed (i : Str) (ps : List Pos) (s t : State) : Prop where
  water : t.water = { s.water with
    reservoir := s.water.reservoir - (ps.map s.closeMl).sum
    cellsDosed := s.water.cellsDosed + (ps.filter fun p => decide (0 < s.closeMl p)).length
    roundMl := s.water.roundMl + (ps.map s.closeMl).sum }
  given : ∀ p g, p ∈ ps → s.groupItem? p = some g → t.cellAt i p = { s.cellAt i p with
    deficit := (s.cellAt i p).deficit - s.closeMl p * 1000
    lastDose := s.closeMl p
    confirmDeadline := if 0 < s.closeMl p ∧ (s.cfg i).hasProbe p = true then some (s.now + s.lim.confirmMin * 60000)
      else (s.cellAt i p).confirmDeadline }
  others : ∀ j, (∀ p ∈ ps, j ≠ cellIx i p) → t.cell j = s.cell j
  rest : ∃ w c, t = { s with water := w, cells := c }

section
variable {i : Str} {s t : State}

theorem closed_nil (i : Str) (s : State) : State.Closed i [] s s :=
  ⟨rfl, fun _ _ h => absurd h (by simp), fun _ _ => rfl, ⟨s.water, s.cells, rfl⟩⟩

theorem afterClose_normal (ml : Nat) (probe : Bool) (deadline : Nat) (c : Cell) : c.afterClose ml probe false deadline =
    { c with deficit := c.deficit - ml * 1000, lastDose := ml
             confirmDeadline := if 0 < ml ∧ probe = true then some deadline else c.confirmDeadline } := by
  unfold Cell.afterClose
  dsimp only
  rw [if_neg (by decide)]
  split <;> rfl

/-- One valve is accounted for (R130). -/
theorem closed_accountAt (i : Str) (s : State) (p : Pos) : State.Closed i [p] s (s.accountAt i p) := by
  unfold State.accountAt
  cases h : s.groupItem? p with
  | none =>
    have h0 : s.closeMl p = 0 := by unfold State.closeMl; rw [h]
    refine ⟨by simp [h0], fun q g hq hg => ?_, fun _ _ => rfl, ⟨s.water, s.cells, rfl⟩⟩
    rw [List.mem_singleton.mp hq, h] at hg
    cases hg
  | some g =>
    have hml : s.closeMl p = g.dispensed s.lim.flowX10 s.now := by unfold State.closeMl; rw [h]
    dsimp only
    rw [← hml]
    refine ⟨?_, fun q g hq _ => ?_, fun j hj => ?_, ⟨_, _, rfl⟩⟩
    · unfold State.accountClose
      by_cases h0 : 0 < s.closeMl p <;> simp [h0]
    · rw [List.mem_singleton.mp hq]
      have e : (s.accountClose i p (s.closeMl p) false).cellAt i p = Cell.afterClose (s.closeMl p) ((s.cfg i).hasProbe p) false
          (s.now + s.lim.confirmMin * 60000) (s.cellAt i p) := State.modCell_cell ..
      rw [e, afterClose_normal]
    · exact State.modCell_cell_ne _ (Ne.symm (hj p (List.mem_singleton_self p))) _

theorem closed_cons {p : Pos} {ps : List Pos} (hp : p ∉ ps) (h : State.Closed i [p] s t) {u : State}
    (k : State.Closed i ps t u) : State.Closed i (p :: ps) s u := by
  have hitem : ∀ q, t.groupItem? q = s.groupItem? q := fun q => by unfold State.groupItem?; rw [h.water]
  obtain ⟨w, c, hst⟩ := h.rest
  have hnow : t.now = s.now := by rw [hst]
  have hlim : t.lim = s.lim := by rw [hst]; rfl
  have hcfg : t.cfg i = s.cfg i := by rw [hst]; rfl
  have hml : t.closeMl = s.closeMl := by funext q; unfold State.closeMl; rw [hitem, hlim, hnow]
  refine ⟨?_, fun q g hq hg => ?_, fun j hj => ?_, ?_⟩
  · rw [k.water, hml, h.water]
    by_cases h0 : 0 < s.closeMl p <;> simp [h0, Nat.sub_sub, Nat.add_assoc, Nat.add_comm, Nat.add_left_comm]
  · by_cases hqp : q = p
    · subst hqp
      have e : u.cellAt i q = t.cellAt i q := k.others _ fun x hx hn => hp (by
        rw [show q = x by rw [← cellPos_cellIx i q, hn, cellPos_cellIx]]; exact hx)
      rw [e, h.given q g (List.mem_singleton_self q) hg]
    · have hqs : q ∈ ps := (List.mem_cons.mp hq).resolve_left hqp
      have e : t.cellAt i q = s.cellAt i q := h.others _ fun x hx hn => hqp (by
        rw [List.mem_singleton.mp hx] at hn
        rw [← cellPos_cellIx i q, hn, cellPos_cellIx])
      rw [k.given q g hqs ((hitem q).trans hg), hml, e, hcfg, hlim, hnow]
  · rw [k.others j fun q hq => hj q (List.mem_cons_of_mem p hq), h.others j fun q hq => ?_]
    rw [List.mem_singleton.mp hq]
    exact hj p List.mem_cons_self
  · obtain ⟨w', c', hu⟩ := k.rest
    exact ⟨w', c', by rw [hu, hst]⟩

theorem closed_foldl (i : Str) (ps : List Pos) (hd : ps.Nodup) :
    ∀ s : State, State.Closed i ps s (ps.foldl (State.accountAt i) s) := by
  induction ps with
  | nil => exact closed_nil i
  | cons p ps ih =>
    intro s
    obtain ⟨hp, hps⟩ := List.nodup_cons.mp hd
    exact closed_cons hp (closed_accountAt i s p) (ih hps _)

/-! ### The end of the round (R135) -/

/-- The round of `i` over and its outcome stored, before the end is reported to the slot (R135). -/
def State.wateringStored (s : State) (i : Str) (c : EndReason) : State :=
  let o := s.water.outcome c s.mgmt.clock
  let t := (s.modWater Water.ended).modControl i fun r => { r with lastWaterOutcome := some o }
  if c = .restart then t else t.noticeEnded i o

theorem endWatering_eq (s : State) (i : Str) (c : EndReason) :
    s.endWatering i c = (((s.wateringStored i c).reportToSlot i).markScan).markCommit := rfl

/-- What the parts of an early end leave: the clock, the tables, the bus voltage and DISCHARGE, and of a string that is neither
CALLED nor EQUALISING everything but the outcome of its watering. -/
structure State.WaterKept (s t : State) : Prop where
  now : t.now = s.now
  mgmt : t.mgmt = s.mgmt
  images : t.images = s.images
  busVoltage : t.busVoltage = s.busVoltage
  discharge : t.discharge = s.discharge
  control : ∀ j, (s.control j).state ≠ .called → (s.control j).state ≠ .equalising →
    ∃ o, t.control j = { s.control j with lastWaterOutcome := o }

theorem State.WaterKept.trans {u : State} (h : s.WaterKept t) (k : t.WaterKept u) : s.WaterKept u where
  now := k.now.trans h.now
  mgmt := k.mgmt.trans h.mgmt
  images := k.images.trans h.images
  busVoltage := k.busVoltage.trans h.busVoltage
  discharge := k.discharge.trans h.discharge
  control j h1 h2 := by
    obtain ⟨a, ha⟩ := h.control j h1 h2
    obtain ⟨b, hb⟩ := k.control j (by rw [ha]; exact h1) (by rw [ha]; exact h2)
    exact ⟨b, by rw [hb, ha]⟩

/-- A state with the blocks of another but the ring, the unit, the cells and the marks. -/
theorem waterKept_same (hn : t.now = s.now) (hm : t.mgmt = s.mgmt) (hi : t.images = s.images)
    (hb : t.busVoltage = s.busVoltage) (hd : t.discharge = s.discharge) (hs : ∀ j, t.control j = s.control j) :
    s.WaterKept t :=
  ⟨hn, hm, hi, hb, hd, fun j _ _ => ⟨_, hs j⟩⟩

theorem State.EntryMoves.waterKept (h : s.EntryMoves t) : s.WaterKept t :=
  ⟨h.now, h.mgmt, h.images, h.busVoltage, h.discharge, fun j h1 h2 => ⟨_, congrArg StringRec.control (h.str j h1 h2)⟩⟩

theorem waterKept_notice (s : State) (m : List Byte) : s.WaterKept (s.notice m) := by
  rw [notice_eq]
  exact waterKept_same rfl rfl rfl rfl rfl fun _ => rfl

theorem waterKept_wateringStored (s : State) (i : Str) (c : EndReason) : s.WaterKept (s.wateringStored i c) := by
  have h : ∀ o, s.WaterKept ((s.modWater Water.ended).modControl i fun r => { r with lastWaterOutcome := some o }) := by
    refine fun o => ⟨rfl, rfl, rfl, rfl, rfl, fun j _ _ => ?_⟩
    by_cases hj : i = j
    · subst hj; exact ⟨some o, State.modControl_control ..⟩
    · exact ⟨(s.control j).lastWaterOutcome, State.modControl_control_ne _ hj _⟩
  unfold State.wateringStored
  dsimp only
  split
  · exact h _
  · exact (h _).trans (waterKept_notice ..)

theorem wateringStored_kept (s : State) (i : Str) (c : EndReason) :
    (s.wateringStored i c).water = s.water.ended ∧ (s.wateringStored i c).cells = s.cells
      ∧ ((s.wateringStored i c).control i).lastWaterOutcome = some (s.water.outcome c s.mgmt.clock) := by
  unfold State.wateringStored
  dsimp only
  split
  · exact ⟨rfl, rfl, by rw [State.modControl_control]⟩
  · refine ⟨?_, ?_, ?_⟩
    · rw [State.noticeEnded, notice_eq]; rfl
    · rw [State.noticeEnded, notice_eq]; rfl
    · rw [State.noticeEnded, notice_control, State.modControl_control]

/-- The end of a round: the unit rests and the outcome is stored, whatever the slot makes of the report (R88, R135). -/
theorem endWatering_kept (s : State) (i : Str) (c : EndReason) :
    (s.endWatering i c).water = s.water.ended ∧ (s.endWatering i c).cells = s.cells
      ∧ ((s.endWatering i c).control i).lastWaterOutcome = some (s.water.outcome c s.mgmt.clock)
      ∧ s.WaterKept (s.endWatering i c) := by
  obtain ⟨hw, hc, ho⟩ := wateringStored_kept s i c
  have h := entryMoves_reportToSlot (s.wateringStored i c) i
  have hk := waterKept_wateringStored s i c
  rw [endWatering_eq]
  generalize (s.wateringStored i c).reportToSlot i = v at h ⊢
  have k : v.WaterKept v.markScan.markCommit := waterKept_same rfl rfl rfl rfl rfl fun _ => rfl
  exact ⟨h.water.trans hw, h.cells.trans hc, (h.outcome i).trans ho,
    (hk.trans h.waterKept).trans k⟩

/-! ### The early end (R134) -/

/-- The open valves closed by one order and accounted for, in DOSING (R134). -/
def State.earlyClosed (s : State) (i : Str) : State :=
  if s.water.state = .dosing then
    (s.handValve i (closings (allPos.filter fun p => s.water.openSet.contains p))).accountOpen i
  else s

theorem endWateringEarly_eq (h : s.water.string = some i) (hs : s.water.state ≠ .idle) (c : EndReason) :
    s.endWateringEarly c = (s.earlyClosed i).endWatering i c := by
  unfold State.endWateringEarly
  rw [h]
  exact if_neg hs

theorem endWateringEarly_idle (h : s.water.state = .idle ∨ s.water.string = none) (c : EndReason) :
    s.endWateringEarly c = s := by
  unfold State.endWateringEarly
  split
  · rfl
  · next j hj => exact if_pos (h.resolve_right (by simp [hj]))

theorem handValve_water (s : State) (i : Str) (a : List Alter) : ∃ d n, (s.handValve i a).water = { s.water with
    unsent := if s.water.lastValveDst = some (s.cfg i).manifoldAddr then mergeAlters s.water.unsent a else a
    lastValveDst := d, lastValveOrder := n } := ⟨_, _, rfl⟩

/-- The alterations of the closing order (R128, R134). -/
theorem mergeAlters_closing (s : State) (i : Str) :
    (if s.water.lastValveDst = some (s.cfg i).manifoldAddr then
      mergeAlters s.water.unsent (closings (allPos.filter fun p => s.water.openSet.contains p))
      else closings (allPos.filter fun p => s.water.openSet.contains p)) = s.altersClosing i := by
  have hps : s.openPositions = allPos.filter fun p => s.water.openSet.contains p := by
    unfold State.openPositions
    rw [allPos_eq]
    simp
  unfold State.altersClosing State.altersTo
  rw [hps]
  unfold mergeAlters closings
  split
  · refine congrArg₂ _ (List.filter_congr fun u _ => ?_) rfl
    rw [Bool.eq_iff_iff]
    simp only [allPos_eq, List.any_map, Function.comp_def]
    simp
    exact ⟨fun h k => h _ k rfl, fun h x hx e => h (e ▸ hx)⟩
  · rfl

/-- What the open valves give, position by position (R131, R134). -/
theorem earlyMl_eq (h : s.water.state = .dosing) (p : Pos) :
    s.earlyMl s.now p = if s.water.openSet.contains p = true then s.closeMl p else 0 := by
  unfold State.earlyMl State.closeMl
  by_cases hp : p ∈ s.water.openSet
  · rw [if_pos ⟨h, hp⟩, if_pos (List.contains_iff_mem.mpr hp)]
    cases s.groupItem? p with
    | none => rfl
    | some g =>
      unfold GroupItem.dispensed
      cases g.sent <;> rfl
  · rw [if_neg fun k => hp k.2, if_neg (mt List.contains_iff_mem.mp hp)]

theorem earlyTotal_eq (h : s.water.state = .dosing) :
    s.earlyTotal s.now = ((allPos.filter fun p => s.water.openSet.contains p).map s.closeMl).sum := by
  rw [sum_map_filter, State.earlyTotal, allPos_eq]
  exact congrArg List.sum (List.map_congr_left fun p _ => earlyMl_eq h p)

theorem earlyCount_eq (h : s.water.state = .dosing) :
    ((List.finRange 24).filter fun p => decide (0 < s.earlyMl s.now p)).length
      = ((allPos.filter fun p => s.water.openSet.contains p).filter fun p => decide (0 < s.closeMl p)).length := by
  rw [List.filter_filter, allPos_eq]
  congr 1
  refine List.filter_congr fun p _ => ?_
  rw [earlyMl_eq h]
  split <;> simp_all

theorem earlyMl_gap (h : s.water.state ≠ .dosing) (n : Nat) (p : Pos) : s.earlyMl n p = 0 :=
  if_neg fun k => h k.1

theorem earlyTotal_gap (h : s.water.state ≠ .dosing) (n : Nat) : s.earlyTotal n = 0 := by
  unfold State.earlyTotal
  rw [List.map_congr_left fun p _ => earlyMl_gap h n p]
  simp

/-- The account of an early end (R130, R131, R134). -/
theorem earlyClosed_kept (s : State) (i : Str) (c : EndReason) :
    (s.earlyClosed i).water.reservoir = s.water.reservoir - s.earlyTotal s.now
      ∧ (s.earlyClosed i).water.unsent = (if s.water.state = .dosing then s.altersClosing i else s.water.unsent)
      ∧ (s.earlyClosed i).water.outcome c (s.earlyClosed i).mgmt.clock = s.earlyOutcome s.now c
      ∧ (∀ p g, s.water.state = .dosing → p ∈ s.water.openSet → s.groupItem? p = some g →
          (s.earlyClosed i).cellAt i p = { s.cellAt i p with
            deficit := (s.cellAt i p).deficit - s.earlyMl s.now p * 1000
            lastDose := s.earlyMl s.now p
            confirmDeadline := if 0 < s.earlyMl s.now p ∧ (s.cfg i).hasProbe p = true then
                some (s.now + s.lim.confirmMin * 60000) else (s.cellAt i p).confirmDeadline })
      ∧ (∀ j, (s.water.state = .dosing → cellStr j = i → cellPos j ∉ s.water.openSet) → (s.earlyClosed i).cell j = s.cell j)
      ∧ s.WaterKept (s.earlyClosed i) := by
  by_cases hd : s.water.state = .dosing
  · have hps : (allPos.filter fun p => s.water.openSet.contains p).Nodup := by
      rw [allPos_eq]; exact (List.nodup_finRange 24).filter _
    have hmem : ∀ p, p ∈ (allPos.filter fun p => s.water.openSet.contains p) ↔ p ∈ s.water.openSet := fun p => by
      simp [allPos_eq]
    have htot := earlyTotal_eq hd
    have hcount := earlyCount_eq hd
    have hml := earlyMl_eq hd
    obtain ⟨d, n, hv⟩ := handValve_water s i (closings (allPos.filter fun p => s.water.openSet.contains p))
    rw [mergeAlters_closing] at hv
    have hk : s.WaterKept (s.handValve i (closings (allPos.filter fun p => s.water.openSet.contains p))) :=
      waterKept_same rfl rfl rfl rfl rfl fun _ => rfl
    have hcells : ∀ j, (s.handValve i (closings (allPos.filter fun p => s.water.openSet.contains p))).cell j = s.cell j :=
      fun _ => rfl
    have he : s.earlyClosed i
      = (s.handValve i (closings (allPos.filter fun p => s.water.openSet.contains p))).accountOpen i := if_pos hd
    have hclosed := closed_foldl i _ hps (s.handValve i (closings (allPos.filter fun p => s.water.openSet.contains p)))
    rw [he, accountOpen_foldl]
    generalize s.handValve i (closings (allPos.filter fun p => s.water.openSet.contains p)) = v at hv hk hcells hclosed
    have hopen : v.water.openSet = s.water.openSet := by rw [hv]
    have hitem : v.closeMl = s.closeMl := by
      funext p
      unfold State.closeMl State.groupItem? State.lim
      rw [hk.images, hk.now, hv]
    rw [hopen]
    obtain ⟨hw, hgiven, hothers, w, cs, hrest⟩ := hclosed
    generalize (allPos.filter fun p => s.water.openSet.contains p).foldl (State.accountAt i) v = u at hw hgiven hothers hrest
    have hm : u.mgmt = s.mgmt := by rw [hrest]; exact hk.mgmt
    rw [hw, hm, hv, hitem, htot, if_pos hd]
    refine ⟨rfl, rfl, ?_, fun p g _ hp hg => ?_, fun j hj => ?_, ?_⟩
    · unfold Water.outcome State.earlyOutcome
      rw [htot, hcount]
    · have hg' : v.groupItem? p = some g := by unfold State.groupItem?; rw [hv]; exact hg
      have hp' : s.earlyMl s.now p = s.closeMl p := by rw [hml, if_pos (by simpa using hp)]
      have hcell : v.cellAt i p = s.cellAt i p := hcells _
      have hcfg : v.cfg i = s.cfg i := by unfold State.cfg; rw [hk.images]
      have hlim : v.lim = s.lim := by unfold State.lim; rw [hk.images]
      rw [hgiven p g ((hmem p).mpr hp) hg', hitem, hp', hcell, hcfg, hlim, hk.now]
    · refine (hothers j fun p hp hn => ?_).trans (hcells j)
      subst hn
      exact hj hd (cellStr_cellIx i p) (by rw [cellPos_cellIx]; exact (hmem p).mp hp)
    · rw [hrest]
      exact hk.trans (waterKept_same rfl rfl rfl rfl rfl fun _ => rfl)
  · have he : s.earlyClosed i = s := if_neg hd
    rw [he, earlyTotal_gap hd, if_neg hd]
    refine ⟨rfl, rfl, ?_, fun _ _ h => absurd h hd, fun _ _ => rfl, waterKept_same rfl rfl rfl rfl rfl fun _ => rfl⟩
    unfold Water.outcome State.earlyOutcome
    simp [earlyTotal_gap hd, earlyMl_gap hd]

/-- An early end of the round in progress, but for the clamp of RESLOW (R130, R131, R134, R135). -/
theorem endWateringEarly_ended (h : s.water.string = some i) (hs : s.water.state ≠ .idle) {c : EndReason} (hc : c ≠ .reslow) :
    s.WateringEnded (s.endWateringEarly c) s.now i c := by
  obtain ⟨hres, hunsent, hout, hgiven, hothers, -⟩ := earlyClosed_kept s i c
  obtain ⟨hw, hcells, ho, -⟩ := endWatering_kept (s.earlyClosed i) i c
  have hcell : ∀ j, ((s.earlyClosed i).endWatering i c).cell j = (s.earlyClosed i).cell j := fun j => by
    unfold State.cell; rw [hcells]
  rw [endWateringEarly_eq h hs]
  exact {
    state := by rw [hw]; rfl
    pump := by rw [hw]; rfl
    openSet := by rw [hw]; rfl
    plan := by rw [hw]; rfl
    group := by rw [hw]; rfl
    gapEnd := fun _ => by rw [hw]; rfl
    unsent := by rw [hw]; exact hunsent
    reservoir := by rw [hw, if_neg hc]; exact hres
    outcome := by rw [ho, hout]
    given := fun p g hd hp hg => (hcell _).trans (hgiven p g hd hp hg)
    others := fun j hj => (hcell j).trans (hothers j hj) }

/-- What an early end leaves of the rest (R134). -/
theorem waterKept_endWateringEarly (s : State) (c : EndReason) : s.WaterKept (s.endWateringEarly c) := by
  unfold State.endWateringEarly
  split
  · exact waterKept_same rfl rfl rfl rfl rfl fun _ => rfl
  · next i _ =>
    split
    · exact waterKept_same rfl rfl rfl rfl rfl fun _ => rfl
    · obtain ⟨-, -, -, -, -, hk⟩ := earlyClosed_kept s i c
      exact hk.trans (endWatering_kept (s.earlyClosed i) i c).2.2.2

/-- An early end speaks of the unit, the cells, the tables and the clock of the state it is taken in. -/
theorem State.WateringEnded.of_same {w : State} {n : Nat} {c : EndReason} (h : t.WateringEnded w n i c)
    (hw : t.water = s.water) (hi : t.images = s.images) (hm : t.mgmt = s.mgmt) (hc : t.cells = s.cells) :
    s.WateringEnded w n i c := by
  have hlim : t.lim = s.lim := by unfold State.lim; rw [hi]
  have hcfg : t.cfg = s.cfg := by funext j; unfold State.cfg; rw [hi]
  have hitem : t.groupItem? = s.groupItem? := by funext p; unfold State.groupItem?; rw [hw]
  have hml : t.earlyMl = s.earlyMl := by funext m p; unfold State.earlyMl; rw [hw, hitem, hlim]
  have htot : t.earlyTotal = s.earlyTotal := by funext m; unfold State.earlyTotal; rw [hml]
  have hout : t.earlyOutcome = s.earlyOutcome := by funext m d; unfold State.earlyOutcome; rw [hw, hm, htot, hml]
  have halter : t.altersClosing = s.altersClosing := by
    funext j; unfold State.altersClosing State.altersTo State.openPositions; rw [hw, hcfg]
  have hcell : t.cell = s.cell := by funext j; unfold State.cell; rw [hc]
  have hat : t.cellAt = s.cellAt := by funext j p; unfold State.cellAt; rw [hcell]
  obtain ⟨h1, h2, h3, h4, h5, h6, h7, h8, h9, h10, h11⟩ := h
  rw [hw] at h6 h7 h8 h10 h11
  rw [halter] at h7
  rw [htot, hlim] at h8
  rw [hout] at h9
  rw [hitem, hml, hat, hlim, hcfg] at h10
  rw [hcell] at h11
  exact ⟨h1, h2, h3, h4, h5, h6, h7, h8, h9, h10, h11⟩

/-- An early end stands in a later state with the same unit, cells and outcome. -/
theorem State.WateringEnded.stands {v w : State} {n : Nat} {c : EndReason} (h : s.WateringEnded v n i c)
    (hw : w.water = v.water) (hc : w.cells = v.cells)
    (ho : (w.control i).lastWaterOutcome = (v.control i).lastWaterOutcome) : s.WateringEnded w n i c := by
  have hcell : ∀ j, w.cell j = v.cell j := fun j => by unfold State.cell; rw [hc]
  exact {
    state := by rw [hw]; exact h.state
    pump := by rw [hw]; exact h.pump
    openSet := by rw [hw]; exact h.openSet
    plan := by rw [hw]; exact h.plan
    group := by rw [hw]; exact h.group
    gapEnd := fun k => by rw [hw]; exact h.gapEnd k
    unsent := by rw [hw]; exact h.unsent
    reservoir := by rw [hw]; exact h.reservoir
    outcome := by rw [ho]; exact h.outcome
    given := fun p g hd hp hg => (hcell _).trans (h.given p g hd hp hg)
    others := fun j hj => (hcell j).trans (h.others j hj) }

end

end Sys2Proof.Machine
end

section
open Sys2Proof Sys2Proof.Machine

/-! ## ABORT (R134, R185) -/

namespace Sys2Proof.Machine

section
variable {s t u : State} {dt : Nat} {src string : Byte} {i : Str}

/-! ### The slots at the end of a watering round -/

/-- A report to a slot that does not wait for water moves nothing (R88). -/
theorem reportToSlot_none (h : ∀ sl, (s.control i).slot = some sl → (s.slot sl).entryState ≠ some .waterWait) :
    s.reportToSlot i = s := by
  unfold State.reportToSlot State.endWaterWait
  split
  · next sl hsl => exact if_neg (h sl hsl)
  · rfl

theorem wateringStored_slot (s : State) (i : Str) (c : EndReason) (k : SlotId) : (s.wateringStored i c).slot k = s.slot k := by
  unfold State.wateringStored
  dsimp only
  split
  · rw [State.modControl_slot, State.modWater_slot]
  · rw [State.noticeEnded, notice_slot, State.modControl_slot, State.modWater_slot]

theorem wateringStored_control (s : State) (i : Str) (c : EndReason) :
    (s.wateringStored i c).control i
      = { s.control i with lastWaterOutcome := some (s.water.outcome c s.mgmt.clock) } := by
  unfold State.wateringStored
  dsimp only
  split
  · rw [State.modControl_control]; rfl
  · rw [State.noticeEnded, notice_control, State.modControl_control]; rfl

theorem watered_earlyClosed (s : State) (i : Str) : s.Watered (s.earlyClosed i) := by
  unfold State.earlyClosed
  split
  · exact (watered_handValve ..).trans (watered_accountOpen ..)
  · exact watered_modWater s id

/-- An early end for a string whose slot does not wait for water leaves the slots and the string's record (R88, R134). -/
theorem endWateringEarly_bystander (h : s.water.string = some i) (hs : s.water.state ≠ .idle) (c : EndReason)
    (hn : ∀ sl, (s.control i).slot = some sl → (s.slot sl).entryState ≠ some .waterWait) :
    (∀ k, (s.endWateringEarly c).slot k = s.slot k)
      ∧ ∃ o, (s.endWateringEarly c).control i = { s.control i with lastWaterOutcome := o } := by
  have hw := watered_earlyClosed s i
  obtain ⟨o, ho⟩ := hw.control i
  have hstored := wateringStored_control (s.earlyClosed i) i c
  have hslot := wateringStored_slot (s.earlyClosed i) i c
  have hreport : ((s.earlyClosed i).wateringStored i c).reportToSlot i = (s.earlyClosed i).wateringStored i c := by
    refine reportToSlot_none fun sl hsl => ?_
    rw [hstored, ho] at hsl
    rw [hslot, hw.slot]
    exact hn sl hsl
  rw [endWateringEarly_eq h hs, endWatering_eq, hreport]
  generalize (s.earlyClosed i).wateringStored i c = v at hstored hslot
  have hc : v.markScan.markCommit.control i = v.control i := rfl
  have hk : ∀ k, v.markScan.markCommit.slot k = v.slot k := fun k => by cases k <;> rfl
  refine ⟨fun k => by rw [hk, hslot, hw.slot], some ((s.earlyClosed i).water.outcome c (s.earlyClosed i).mgmt.clock), ?_⟩
  rw [hc, hstored, ho]

/-- The end of a string's round stands through the early end of its watering. -/
theorem State.EndedFor.wateringEnds {c : EndReason} (h : s.EndedFor t i c) (hw : t.water.string = some i)
    (hs : t.water.state ≠ .idle) (d : EndReason) : s.EndedFor (t.endWateringEarly d) i c := by
  obtain ⟨hslot, o, ho⟩ := endWateringEarly_bystander hw hs d fun sl hsl => by
    rw [(h.stopped sl (h.slot.symm.trans hsl)).1]; simp
  exact ⟨by rw [ho]; exact h.state, by rw [ho]; exact h.endReason, by rw [ho]; exact h.endStamp, by rw [ho]; exact h.slot,
    fun sl hsl => by rw [hslot]; exact h.stopped sl hsl, by rw [ho]; exact h.variant⟩

/-! ### The request -/

theorem State.act_abort (s : State) (src b : Byte) : (s.heldFor src).act (.abort b) = (s.heldFor src).askAbort b := rfl

theorem State.inRound_iff (s : State) (i : Str) : s.inRound i = true
    ↔ (s.control i).state = .called ∨ (s.control i).state = .equalising := by
  simp [State.inRound, State.inState]

theorem State.watering_iff (s : State) (i : Str) : s.watering i = true ↔ s.water.state ≠ .idle ∧ s.water.string = some i := by
  simp [State.watering]

theorem abort_badArg (hs : s.takesFrom src)
    (h : 7 < string.toNat ∨ ∃ j : Str, string.toNat = j.val ∧ (s.cfg j).present = false) :
    exec (.abort dt src string) s = .next ((s.begin dt).replied src 0x32 .badArg 0 []).quietEnd := by
  refine exec_refused (r := .abort string) rfl rfl hs ?_
  rw [State.act_abort, State.askAbort, State.withStr_absent (by simpa only [State.heldFor_present] using h)]

/-- What the request finds of the rounds of the string. -/
theorem State.heldFor_rounds (s : State) (dt : Nat) (src : Byte) (i : Str) :
    ((s.begin dt).heldFor src).inRound i = s.inRound i ∧ ((s.begin dt).heldFor src).watering i = s.watering i := by
  unfold State.inRound State.inState State.watering
  rw [State.heldFor_control, State.heldFor_water]
  exact ⟨rfl, rfl⟩

theorem abort_notAllowed (hs : s.takesFrom src) (hi : string.toNat = i.val) (hp : (s.cfg i).present = true)
    (hr : s.inRound i = false) (hw : s.watering i = false) :
    exec (.abort dt src string) s = .next ((s.begin dt).replied src 0x32 .notAllowed 0 []).quietEnd := by
  obtain ⟨h1, h2⟩ := s.heldFor_rounds dt src i
  refine exec_refused (r := .abort string) rfl rfl hs ?_
  rw [State.act_abort, State.askAbort, State.withStr_present hi (by rw [State.heldFor_present, hp]), h1, h2, hr, hw]
  rfl

theorem askAbort_taken (hi : string.toNat = i.val) (hp : (s.cfg i).present = true)
    (h : s.inRound i = true ∨ s.watering i = true) :
    ((s.begin dt).heldFor src).act (.abort string) = (((s.begin dt).heldFor src).abortRounds i).accept := by
  obtain ⟨h1, h2⟩ := s.heldFor_rounds dt src i
  rw [State.act_abort, State.askAbort, State.withStr_present hi (by rw [State.heldFor_present, hp]), h1, h2,
    if_pos (by simpa using h)]

/-- The round of the string alone ends (R134). -/
theorem abortRounds_round (hr : (s.control i).state = .called ∨ (s.control i).state = .equalising)
    (hw : s.watering i = false) : s.abortRounds i = s.endRound i .abortRequest := by
  unfold State.abortRounds
  rw [if_pos ((s.inRound_iff i).mpr hr), if_neg (by simp [hw]), endCause_away hr]

theorem abortRounds_water (hr : ¬ ((s.control i).state = .called ∨ (s.control i).state = .equalising))
    (hw : s.watering i = true) : s.abortRounds i = s.endWateringEarly .abortRequest := by
  have hn : ¬ s.inRound i = true := by rwa [s.inRound_iff]
  unfold State.abortRounds
  rw [if_neg hn, if_pos hw]

theorem abortRounds_both (hr : (s.control i).state = .called ∨ (s.control i).state = .equalising)
    (hw : s.watering i = true) : s.abortRounds i = (s.endRound i .abortRequest).endWateringEarly .abortRequest := by
  unfold State.abortRounds
  rw [if_pos ((s.inRound_iff i).mpr hr), if_pos hw, endCause_away hr]

/-! ### The return of an aborted round -/

/-- The return voltage of a NORMAL return is that of the bus, within the order ceiling, or the float voltage (R64, R68). -/
theorem matchVolts_eq (s : State) (i : Str) : s.matchVolts i =
    min (s.busVoltage.getD (s.lim.floatMv * (s.cfg i).cells / 10)) (s.lim.cellCeilingMv * (s.cfg i).cells / 10) := by
  unfold State.matchVolts State.floatVolts State.orderCeiling orderVolts
  cases s.busVoltage <;> rfl

/-- The record of a string whose round ends with a cause that is neither GAS nor DISCHARGE, outside the gas latch and BLIND: a
NORMAL return at the match voltage (R67, R68). -/
theorem endRound_normal (s : State) (i : Str) {c : EndReason} (hc : c ≠ .gas ∧ c ≠ .discharge) (hg : s.site.gasLatch = false)
    (hb : s.ring.sight ≠ .blind) :
    ((s.control i).slot ≠ none → ((s.endRound i c).control i).rectOrder = some (.on (s.matchVolts i) s.lim.iFloor))
      ∧ (if s.inState i .called = true ∨ s.windowHolds i = true then
          ((s.endRound i c).control i).step = some .confirm ∧ ((s.endRound i c).control i).matchDeadline = none
            ∧ ((s.endRound i c).control i).confirmLeft = some (s.lim.contactorTimeoutS * 1000)
        else ((s.endRound i c).control i).step = some .matching
          ∧ ((s.endRound i c).control i).matchDeadline = some (s.now + s.lim.returnWaitMin * 60000)) := by
  have f := frame_beforeReturn s i c
  have hv : s.variantFor (c == .gas) (c == .discharge) = .normal := by
    simp [State.variantFor, hg, hc.1, hc.2]
  have hslot : ((s.beforeReturn i c).control i).slot = (s.control i).slot := by
    rw [beforeReturn_control]; unfold State.endedRecord; dsimp only; split <;> rfl
  have hsight : (s.beforeReturn i c).ring.sight ≠ .blind := by rw [f.sight]; exact hb
  have h1 := returned_match (s.beforeReturn i c) i (s.inState i .called) hsight
  have h2 := returned_step (s.beforeReturn i c) i (s.inState i .called) hsight
  rw [endRound_control, hv]
  rw [hslot, f.matchVolts, f.lim] at h1
  rw [f.windowHolds, f.lim, f.now] at h2
  exact ⟨h1, h2⟩

/-- Under the gas latch or in BLIND the return of an ended round stands at RECT OFF in the CONFIRM step (R71 to R73). -/
theorem endRound_off (s : State) (i : Str) (c : EndReason) (h : s.site.gasLatch = true ∨ s.ring.sight = .blind) :
    ((s.control i).slot ≠ none → ((s.endRound i c).control i).rectOrder = some .off)
      ∧ ((s.endRound i c).control i).step = some .confirm
      ∧ ((s.endRound i c).control i).confirmLeft = some (s.lim.contactorTimeoutS * 1000) := by
  have f := frame_beforeReturn s i c
  have hslot : ((s.beforeReturn i c).control i).slot = (s.control i).slot := by
    rw [beforeReturn_control]; unfold State.endedRecord; dsimp only; split <;> rfl
  have hv : s.variantFor (c == .gas) (c == .discharge) ≠ .normal ∨ (s.beforeReturn i c).ring.sight = .blind := by
    rcases h with h | h
    · left; simp [State.variantFor, h]
    · right; rw [f.sight, h]
  obtain ⟨h1, h2, -, h4⟩ := returned_off (s.beforeReturn i c) i (s.inState i .called) hv
  rw [endRound_control]
  rw [f.lim] at h2
  rw [hslot] at h4
  exact ⟨h4, h1, h2⟩

end

theorem State.EndedFor.modRing {s w : State} {i : Str} {c : EndReason} (h : s.EndedFor w i c) (f : Ring → Ring) :
    s.EndedFor (w.modRing f) i c :=
  ⟨h.state, h.endReason, h.endStamp, h.slot, fun sl hs => by rw [State.modRing_slot]; exact h.stopped sl hs, h.variant⟩

/-- The end of the string's round alone, as the request finds and leaves it (R67, R68, R134). -/
theorem abort_round {s b w : State} {i : Str} {l : Option Nat} (dt : Nat) (hw : b.endRound i .abortRequest = w)
    (hctl : b.control i = { s.control i with confirmLeft := l })
    (hmgmt : b.mgmt = s.mgmt) (himages : b.images = s.images) (hsite : b.site = s.site)
    (hbus : b.busVoltage = s.busVoltage) (hsight : b.ring.sight = s.ring.sight) (hnow : b.now = s.now + dt) :
    s.EndedFor w i .abortRequest
      ∧ (w.control i).holdoffUntil = (if s.lim.holdoffMin = 0 then (s.control i).holdoffUntil else
          some ⟨(s.mgmt.clock.day + (s.mgmt.clock.minute + s.lim.holdoffMin) / 1440) % 65536,
            (s.mgmt.clock.minute + s.lim.holdoffMin) % 1440⟩)
      ∧ ((s.control i).slot ≠ none → s.site.gasLatch = false → s.ring.sight ≠ .blind →
          (w.control i).rectOrder = some (.on
            (min (s.busVoltage.getD (s.lim.floatMv * (s.cfg i).cells / 10)) (s.lim.cellCeilingMv * (s.cfg i).cells / 10))
            s.lim.iFloor))
      ∧ ((s.control i).slot ≠ none → (s.site.gasLatch = true ∨ s.ring.sight = .blind) →
          (w.control i).rectOrder = some .off)
      ∧ (s.site.gasLatch = true ∨ s.ring.sight = .blind ∨ (s.control i).state = .called →
          (w.control i).step = some .confirm
            ∧ (w.control i).confirmLeft = some (s.lim.contactorTimeoutS * 1000))
      ∧ (s.site.gasLatch = false → s.ring.sight ≠ .blind → (s.control i).state = .equalising →
          if b.windowHolds i = true then
            (w.control i).step = some .confirm ∧ (w.control i).matchDeadline = none
          else (w.control i).step = some .matching
            ∧ (w.control i).matchDeadline = some (s.now + dt + s.lim.returnWaitMin * 60000)) := by
  subst hw
  have hlim : b.lim = s.lim := by unfold State.lim; rw [himages]
  have hcfg : b.cfg i = s.cfg i := by unfold State.cfg; rw [himages]
  have hslot : (b.control i).slot = (s.control i).slot := by rw [hctl]
  have hstate : (b.control i).state = (s.control i).state := by rw [hctl]
  have hhold : (b.control i).holdoffUntil = (s.control i).holdoffUntil := by rw [hctl]
  have hnormal := endRound_normal b i (c := .abortRequest) (by decide)
  have hoff := endRound_off b i .abortRequest
  have hvolts := matchVolts_eq b i
  rw [hsite, hsight, hslot, hlim, hvolts, hbus, hlim, hcfg, hnow] at hnormal
  rw [hsite, hsight, hslot, hlim] at hoff
  refine ⟨(endRound_ended ..).of_same hslot hmgmt (by rw [hsite]) hbus himages, ?_, fun h1 h2 h3 => (hnormal h2 h3).1 h1,
    fun h1 h2 => (hoff h2).1 h1, fun h => ?_, fun h1 h2 h3 => ?_⟩
  · rw [endRound_sets_holdoff _ _ rfl, hlim, hmgmt, hhold]
  · by_cases hg : s.site.gasLatch = true ∨ s.ring.sight = .blind
    · exact (hoff hg).2
    · obtain ⟨hg1, hg2⟩ := not_or.mp hg
      have hcalled : b.inState i .called = true := by
        simp [State.inState, hstate, (h.resolve_left hg1).resolve_left hg2]
      have hstep := (hnormal (Bool.eq_false_iff.mpr hg1) hg2).2
      rw [if_pos (.inl hcalled)] at hstep
      exact ⟨hstep.1, hstep.2.2⟩
  · have hcalled : b.inState i .called = false := by simp [State.inState, hstate, h3]
    have hstep := (hnormal h1 h2).2
    by_cases hwin : b.windowHolds i = true
    · rw [if_pos (.inr hwin)] at hstep
      rw [if_pos hwin]
      exact ⟨hstep.1, hstep.2.1⟩
    · rw [if_neg (by simp [hcalled, hwin])] at hstep
      rw [if_neg hwin]
      exact hstep

/-- Settles O40: the refusals by their conditions, the ends by those of the string's round and of its watering round. -/
theorem abortEndsTheRounds : Obligations.AbortEndsTheRounds := by
  intro s dt src string hs
  refine ⟨fun i hi hp => ⟨fun h1 h2 hw => ?_, fun hr hw => ?_, fun hw1 hw2 => ?_⟩, abort_badArg hs⟩
  · refine abort_notAllowed hs hi hp ?_ ?_
    · exact Bool.eq_false_iff.mpr fun k => ((s.inRound_iff i).mp k).elim h1 h2
    · exact Bool.eq_false_iff.mpr fun k => hw.elim ((s.watering_iff i).mp k).1 (· ((s.watering_iff i).mp k).2)
  · have hwater : s.watering i = false :=
      Bool.eq_false_iff.mpr fun k => hw.elim ((s.watering_iff i).mp k).1 (· ((s.watering_iff i).mp k).2)
    have hround := (s.heldFor_rounds dt src i).2.trans hwater
    have hask := askAbort_taken (s := s) (dt := dt) (src := src) hi hp (.inl ((s.inRound_iff i).mpr hr))
    have hctl := State.heldFor_control s dt src i
    have hnow : ((s.begin dt).heldFor src).now = s.now + dt := s.begin_now dt
    have hkept := s.heldFor_kept dt src
    have hb : (((s.begin dt).heldFor src).control i).state = .called
        ∨ (((s.begin dt).heldFor src).control i).state = .equalising := by rw [hctl]; exact hr
    rw [abortRounds_round hb hround] at hask
    have he := exec_accepted_alone (c := .abort dt src string) (r := .abort string) rfl rfl hs hask (frame_endRound ..).replies
    generalize (s.begin dt).heldFor src = b at hctl hnow hkept he
    obtain ⟨hcells, hw', hmgmt, himages, hsite, -, hbus, hsight, -, hwin, hstr⟩ := hkept
    have hf := frame_endRound b i .abortRequest
    have hscan := endRound_scan b i .abortRequest
    generalize hv : b.endRound i .abortRequest = v at he hf hscan
    obtain ⟨h1, h2, h3, h4, h5, h6⟩ := abort_round dt hv hctl hmgmt himages hsite hbus hsight hnow
    rw [hwin] at h6
    exact ⟨_, he, h1.modRing _, h2, h3, h4, h5, h6, fun j hj => (hf.str j hj).trans (hstr j), hscan, rfl,
      hf.cells.trans hcells, hf.water.trans hw', hf.mgmt.trans hmgmt, hf.images.trans himages⟩
  · have hwater : s.watering i = true := (s.watering_iff i).mpr ⟨hw1, hw2⟩
    have hround := (s.heldFor_rounds dt src i).2.trans hwater
    have hask := askAbort_taken (s := s) (dt := dt) (src := src) hi hp (.inr hwater)
    obtain ⟨ns, he⟩ := exec_accepted (c := .abort dt src string) (r := .abort string) (wet := true) (com := false) rfl rfl hs hask
      (evolves_abortRounds (.refl _) i)
    have hctl := State.heldFor_control s dt src i
    have hnow : ((s.begin dt).heldFor src).now = s.now + dt := s.begin_now dt
    have hkept := s.heldFor_kept dt src
    generalize (s.begin dt).heldFor src = b at hctl hnow hkept he hround
    obtain ⟨hcells, hw', hmgmt, himages, hsite, -, hbus, -⟩ := hkept
    have hslot : (b.control i).slot = (s.control i).slot := by rw [hctl]
    have hstate : (b.control i).state = (s.control i).state := by rw [hctl]
    have hb1 : b.water.state ≠ .idle := by rw [hw']; exact hw1
    have hb2 : b.water.string = some i := by rw [hw']; exact hw2
    by_cases hr : (b.control i).state = .called ∨ (b.control i).state = .equalising
    · have hf := frame_endRound b i .abortRequest
      have hend : s.EndedFor (b.endRound i .abortRequest) i .abortRequest :=
        (endRound_ended ..).of_same hslot hmgmt (by rw [hsite]) hbus himages
      rw [abortRounds_both hr hround] at he
      generalize b.endRound i .abortRequest = t at he hf hend
      have ht1 : t.water.state ≠ .idle := by rw [hf.water]; exact hb1
      have ht2 : t.water.string = some i := by rw [hf.water]; exact hb2
      have k := endWateringEarly_ended ht2 ht1 (c := .abortRequest) (by decide)
      have hkept := waterKept_endWateringEarly t .abortRequest
      have hend' := hend.wateringEnds ht2 ht1 .abortRequest
      generalize t.endWateringEarly .abortRequest = v at he k hkept hend'
      refine ⟨_, ns, he, ?_, fun _ => hend'.modRing _, rfl, hkept.mgmt.trans (hf.mgmt.trans hmgmt),
        hkept.images.trans (hf.images.trans himages)⟩
      rw [← hnow, ← hf.now]
      exact (k.of_same (hf.water.trans hw') (hf.images.trans himages) (hf.mgmt.trans hmgmt) (hf.cells.trans hcells)).stands
        rfl rfl rfl
    · rw [abortRounds_water hr hround] at he
      have k := endWateringEarly_ended hb2 hb1 (c := .abortRequest) (by decide)
      have hkept := waterKept_endWateringEarly b .abortRequest
      generalize b.endWateringEarly .abortRequest = v at he k hkept
      refine ⟨_, ns, he, ?_, fun h => absurd (by rw [hstate]; exact h) hr, rfl, hkept.mgmt.trans hmgmt,
        hkept.images.trans himages⟩
      rw [← hnow]
      exact (k.of_same hw' himages hmgmt hcells).stands rfl rfl rfl

end Sys2Proof.Machine
end

section
open Sys2Proof Sys2Proof.Machine

/-! ## A GAS rise (R144, R153) -/

namespace Sys2Proof.Machine

section
variable {s t u : State} {i : Str} {dt : Nat}

/-! ### The turn of one string -/

/-- A RECT order of String Control for a string with a slot stands in its record (R60). -/
theorem Control.ordered_bound {c : Control} (h : c.slot ≠ none) (now : Nat) (o : RectOrder) :
    c.ordered now o = { c with rectOrder := some o, lastRectTime := some now } := if_neg h

/-- A variant that a return in flight takes puts it at RECT OFF (R71, R72). -/
theorem changeVariant_off (s : State) (i : Str) (v : Variant) : ((s.changeVariant i v).control i).state = (s.control i).state
    ∧ ((s.control i).slot ≠ none → ((s.changeVariant i v).control i).rectOrder = some .off) := by
  have hs : ∀ n o, (({ s.control i with variant := some v } : Control).ordered n o).state = (s.control i).state := fun n o => by
    unfold Control.ordered; split <;> rfl
  have ho : (s.control i).slot ≠ none → ∀ n, (({ s.control i with variant := some v } : Control).ordered n .off).rectOrder
      = some .off := fun h n => congrArg Control.rectOrder (Control.ordered_bound (by exact h) n .off)
  unfold State.changeVariant State.offAndConfirm
  dsimp only
  split
  · rw [toConfirm_control, stringRect_control, State.modControl_control]
    exact ⟨hs _ _, fun h => ho h _⟩
  · rw [stringRect_control, State.modControl_control]
    exact ⟨hs _ _, fun h => ho h _⟩

/-- GAS finds a return in flight: a NORMAL one becomes a GAS return, and the string is at RECT OFF (R71). -/
theorem endCause_gas_returning (h : (u.control i).state = .returning) :
    ((u.endCause i .gas).control i).state = .returning
      ∧ ((u.endCause i .gas).control i).endReason = (u.control i).endReason
      ∧ ((u.control i).variant = some .normal → ((u.endCause i .gas).control i).variant = some .gas)
      ∧ ((u.control i).slot ≠ none → ((u.endCause i .gas).control i).rectOrder = some .off) := by
  have e : u.endCause i .gas = u.causeInReturn i .gas := by unfold State.endCause; rw [h]
  rw [e]
  unfold State.causeInReturn
  dsimp only
  split
  · obtain ⟨he, -, hv⟩ := changeVariant_control u i .gas
    obtain ⟨hs, ho⟩ := changeVariant_off u i .gas
    exact ⟨hs.trans h, he, fun _ => hv, ho⟩
  · next hn =>
    split
    · next ho => exact ⟨h, rfl, fun k => absurd k hn, fun _ => ho⟩
    · obtain ⟨he, -, -, -⟩ := Control.ordered_kept u.now .off (u.control i)
      rw [stringRect_control]
      refine ⟨?_, he, fun k => absurd k hn, fun k => by rw [Control.ordered_bound k]⟩
      unfold Control.ordered
      split <;> exact h

/-! ### The pass over the strings -/

/-- The latch set and every string told, before the Watering Unit (R153; log 47). -/
def State.gasTold (s : State) : State :=
  (s.modSite fun t => { t with gasLatch := true }).eachStr fun i s => s.endCause i .gas

theorem gasTrips_eq (h : s.site.gasLatch = false) :
    s.gasTrips = ((s.gasTold.endWateringEarly .gas).setGasStop).noticeAlarm .gas := by
  unfold State.gasTrips
  rw [if_neg (by simp [h])]
  rfl

theorem gasTold_turn (s : State) (i : Str) : ∃ u, State.Aside i (s.modSite fun t => { t with gasLatch := true }) u
    ∧ State.Aside i (u.endCause i .gas) s.gasTold :=
  eachStr_turn (State.Aside.refl i) State.Aside.trans (fun _ u hk => aside_endCause u hk .gas) _

/-- The pass leaves the blocks that an end cause does not move. -/
theorem gasTold_kept (s : State) : s.gasTold.now = s.now ∧ s.gasTold.cells = s.cells ∧ s.gasTold.water = s.water
    ∧ s.gasTold.mgmt = s.mgmt ∧ s.gasTold.images = s.images ∧ s.gasTold.discharge = s.discharge
    ∧ s.gasTold.busVoltage = s.busVoltage ∧ s.gasTold.site = { s.site with gasLatch := true } := by
  obtain ⟨u, hu, hw⟩ := gasTold_turn s 0
  have f := frame_endCause u 0 .gas
  exact ⟨hw.beside.now.trans (f.now.trans hu.beside.now), hw.beside.cells.trans (f.cells.trans hu.beside.cells),
    hw.beside.water.trans (f.water.trans hu.beside.water), hw.beside.mgmt.trans (f.mgmt.trans hu.beside.mgmt),
    hw.beside.images.trans (f.images.trans hu.beside.images),
    hw.beside.discharge.trans (f.discharge.trans hu.beside.discharge),
    hw.beside.busVoltage.trans (f.busVoltage.trans hu.beside.busVoltage), hw.beside.site.trans (f.site.trans hu.beside.site)⟩

/-- Every round in CALLED or EQUALISING has ended with GAS, at RECT OFF (R71, R153). -/
theorem gasTold_inRound (h : (s.control i).state = .called ∨ (s.control i).state = .equalising) :
    (s.gasTold.control i).state = .returning ∧ (s.gasTold.control i).endReason = some .gas
      ∧ (s.gasTold.control i).variant = some .gas ∧ (s.gasTold.control i).endStamp = some s.mgmt.clock
      ∧ ((s.control i).slot ≠ none → (s.gasTold.control i).rectOrder = some .off) := by
  obtain ⟨u, hu, hw⟩ := gasTold_turn s i
  have hc : u.control i = s.control i := hu.control
  rw [endCause_away (by rw [hc]; exact h)] at hw
  have he := endRound_ended u i .gas
  obtain ⟨ho, -⟩ := endRound_off u i .gas (.inl (by rw [hu.beside.site]; rfl))
  rw [hw.control]
  refine ⟨he.state, he.endReason, he.variant.trans (by rw [if_pos (.inl rfl)]), he.endStamp.trans ?_, fun k => ho (by rwa [hc])⟩
  rw [hu.beside.mgmt]
  rfl

theorem gasTold_returning (h : (s.control i).state = .returning) :
    (s.gasTold.control i).state = .returning ∧ (s.gasTold.control i).endReason = (s.control i).endReason
      ∧ ((s.control i).variant = some .normal → (s.gasTold.control i).variant = some .gas)
      ∧ ((s.control i).slot ≠ none → (s.gasTold.control i).rectOrder = some .off) := by
  obtain ⟨u, hu, hw⟩ := gasTold_turn s i
  have hc : u.control i = s.control i := hu.control
  have k := endCause_gas_returning (u := u) (by rw [hc]; exact h)
  rw [← hw.control, hc] at k
  exact k

theorem gasTold_home (h : s.home i) : s.gasTold.control i = s.control i := by
  obtain ⟨u, hu, hw⟩ := gasTold_turn s i
  have hc : u.control i = s.control i := hu.control
  rw [hw.control, (homeKept_endCause u i .gas).control i (by unfold State.home; rw [hc]; exact h), hc]

/-- No string is in CALLED or EQUALISING once all have been told. -/
theorem gasTold_none (s : State) (i : Str) : (s.gasTold.control i).state ≠ .called ∧ (s.gasTold.control i).state ≠ .equalising := by
  by_cases h : (s.control i).state = .called ∨ (s.control i).state = .equalising
  · rw [(gasTold_inRound h).1]; decide
  · by_cases k : (s.control i).state = .returning
    · rw [(gasTold_returning k).1]; decide
    · obtain ⟨h1, h2⟩ := not_or.mp h
      rw [gasTold_home ⟨h1, h2, k⟩]
      exact ⟨h1, h2⟩

/-! ### The rest of the rise -/

/-- The gas stop set and the ALARM notice handed, at the end of a rise (R153, R165). -/
theorem gasStopped_kept (v : State) {w : State} (hw : v.setGasStop.noticeAlarm .gas = w) :
    w.strings = v.strings ∧ w.cells = v.cells ∧ w.water = v.water ∧ w.site = v.site ∧ w.mgmt = v.mgmt ∧ w.images = v.images
      ∧ w.discharge = v.discharge ∧ w.busVoltage = v.busVoltage ∧ w.ring.gasStop = true ∧ noRectOn w.ring.orders := by
  have horders : w.ring.orders = v.ring.orders.map fun o => { o with frame := gasStopped true o.frame } := by
    rw [← hw]; exact notice_orders ..
  have hstop : w.ring.gasStop = true := by
    rw [← hw, State.noticeAlarm, State.notice]
    split
    · split <;> rfl
    · rfl
  rw [State.noticeAlarm, notice_eq] at hw
  refine ⟨?_, ?_, ?_, ?_, ?_, ?_, ?_, ?_, hstop, fun o ho => ?_⟩
  case refine_9 =>
    rw [horders] at ho
    obtain ⟨x, -, rfl⟩ := List.mem_map.mp ho
    exact gasStopped_isRectOn x.frame
  all_goals rw [← hw]; rfl

/-- What the rise makes of the state it is taken in: all that the pass over the strings made of them, the watering round ended,
and no RECT ON waiting (R134, R153, R165). -/
theorem gasTrips_kept (h : s.site.gasLatch = false) :
    (∀ i, ∃ o, s.gasTrips.control i = { s.gasTold.control i with lastWaterOutcome := o })
      ∧ (∀ i, s.water.string = some i → s.water.state ≠ .idle → s.WateringEnded s.gasTrips s.now i .gas)
      ∧ s.gasTrips.site.gas = s.site.gas ∧ s.gasTrips.site.gasLatch = true ∧ s.gasTrips.ring.gasStop = true
      ∧ noRectOn s.gasTrips.ring.orders ∧ s.gasTrips.mgmt = s.mgmt ∧ s.gasTrips.images = s.images
      ∧ s.gasTrips.discharge = s.discharge ∧ s.gasTrips.busVoltage = s.busVoltage := by
  obtain ⟨tnow, tcells, twater, tmgmt, timages, tdis, tbus, tsite⟩ := gasTold_kept s
  have hk := waterKept_endWateringEarly s.gasTold .gas
  have hsite := (evolves_endWateringEarly (State.Evolves.refl (com := false) s.gasTold) .gas).site
  have hended : ∀ i, s.water.string = some i → s.water.state ≠ .idle →
      s.WateringEnded (s.gasTold.endWateringEarly .gas) s.now i .gas := fun i h1 h2 => by
    rw [← tnow]
    exact (endWateringEarly_ended (by rw [twater]; exact h1) (by rw [twater]; exact h2) (by decide)).of_same twater timages
      tmgmt tcells
  rw [gasTrips_eq h]
  obtain ⟨zstr, zcells, zwater, zsite, zmgmt, zimages, zdis, zbus, zstop, zorders⟩ :=
    gasStopped_kept (s.gasTold.endWateringEarly .gas) rfl
  generalize (s.gasTold.endWateringEarly .gas).setGasStop.noticeAlarm .gas = w at *
  generalize s.gasTold.endWateringEarly .gas = v at *
  have hgas : v.site.gas = s.site.gas := (congrArg (fun k => k.1.2.1) hsite).trans (by rw [tsite]; rfl)
  have hlatch : v.site.gasLatch = true := (congrArg (fun k => k.2.2.1) hsite).trans (by rw [tsite]; rfl)
  have hctl : ∀ i, w.control i = v.control i := fun i => by unfold State.control State.str; rw [zstr]
  refine ⟨fun i => ?_, fun i h1 h2 => (hended i h1 h2).stands zwater zcells (by rw [hctl]), by rw [zsite, hgas],
    by rw [zsite, hlatch], zstop, zorders, zmgmt.trans (hk.mgmt.trans tmgmt), zimages.trans (hk.images.trans timages),
    zdis.trans (hk.discharge.trans tdis), zbus.trans (hk.busVoltage.trans tbus)⟩
  obtain ⟨h1, h2⟩ := gasTold_none s i
  rw [hctl]
  exact hk.control i h1 h2

end

/-- The filtered level of a settled GAS line (R144). -/
theorem takeLevel_gas {u : State} {high : Bool} (h : u.site.gas.raw = high) :
    u.takeLevel .gas = u.modSite fun t => { t with gas := ⟨high, high, none⟩ } := by
  subst h
  rfl

/-- The state in which a GAS rise is taken: its time passed and the level filtered (R144). -/
theorem gasFiltered_kept (s : State) (dt : Nat) {b : State}
    (hb : ((s.begin dt).modSite fun t => { t with gas := ⟨true, true, none⟩ }) = b) :
    b.now = s.now + dt ∧ b.cells = s.cells ∧ b.water = s.water ∧ b.mgmt = s.mgmt ∧ b.images = s.images
      ∧ b.discharge = s.discharge ∧ b.busVoltage = s.busVoltage ∧ b.site = { s.site with gas := ⟨true, true, none⟩ }
      ∧ ∀ i, ∃ l, b.control i = { s.control i with confirmLeft := l } := by
  subst hb
  exact ⟨s.begin_now dt, s.begin_cells dt, s.begin_water dt, s.begin_mgmt dt, s.begin_images dt, s.begin_discharge dt,
    s.begin_busVoltage dt, by rw [State.modSite_site, s.begin_site], fun i => ⟨_, s.begin_control_eq dt i⟩⟩

/-- Settles O22: the level by the filter, the rise by what the pass over the strings and the Watering Unit leave. -/
theorem gasRiseStopsTheSite : Obligations.GasRiseStopsTheSite := by
  intro s dt
  refine ⟨fun h => ?_, fun h hl => ?_, fun h hl => ?_⟩
  · have hraw : (s.begin dt).site.gas.raw = false := by rw [s.begin_site]; exact h.1
    simp only [exec]
    rw [execGasFall, eventIf_due (State.begin_settled h), takeLevel_gas hraw, State.settle_quiet rfl rfl]
  · have hraw : (s.begin dt).site.gas.raw = true := by rw [s.begin_site]; exact h.1
    have hlatch : ((s.begin dt).modSite fun t => { t with gas := ⟨true, true, none⟩ }).site.gasLatch = true := by
      simp [hl]
    simp only [exec]
    rw [execGasRise, eventIf_due (State.begin_settled h), takeLevel_gas hraw, State.gasTrips, if_pos hlatch,
      State.settle_quiet rfl rfl]
  · have hraw : (s.begin dt).site.gas.raw = true := by rw [s.begin_site]; exact h.1
    have he : exec (.gasRise dt) s
        = .next (((s.begin dt).modSite fun t => { t with gas := ⟨true, true, none⟩ }).gasTrips).settle := by
      simp only [exec]
      rw [execGasRise, eventIf_due (State.begin_settled h), takeLevel_gas hraw]
    have hb := gasFiltered_kept s dt rfl
    generalize ((s.begin dt).modSite fun t => { t with gas := ⟨true, true, none⟩ }) = b at he hb
    obtain ⟨hnow, hcells, hwater, hmgmt, himages, hdis, hbus, hsite, hctl⟩ := hb
    obtain ⟨kctl, kwater, kgas, klatch, kstop, korders, kmgmt, kimages, kdis, kbus⟩ :=
      gasTrips_kept (s := b) (by rw [hsite]; exact hl)
    generalize b.gasTrips = w at he kctl kwater kgas klatch kstop korders kmgmt kimages kdis kbus
    refine ⟨w, he, kgas.trans (by rw [hsite]), klatch, kstop, korders, fun i hi => ?_, fun i hi => ?_, fun i hr hsl => ?_,
      fun i hi => ?_, fun i h1 h2 => ?_, kmgmt.trans hmgmt, kimages.trans himages, kdis.trans hdis, kbus.trans hbus⟩
    · obtain ⟨l, hl⟩ := hctl i
      obtain ⟨o, ho⟩ := kctl i
      obtain ⟨h1, h2, h3, h4, -⟩ := gasTold_inRound (s := b) (i := i) (by rw [hl]; exact hi)
      rw [ho]
      dsimp only
      exact ⟨h1, h2, h3, h4.trans (by rw [hmgmt])⟩
    · obtain ⟨l, hl⟩ := hctl i
      obtain ⟨o, ho⟩ := kctl i
      obtain ⟨-, h2, h3, -⟩ := gasTold_returning (s := b) (i := i) (by rw [hl]; exact hi)
      rw [hl] at h2 h3
      rw [ho]
      dsimp only at h2 h3 ⊢
      exact ⟨h2, h3⟩
    · obtain ⟨l, hl⟩ := hctl i
      obtain ⟨o, ho⟩ := kctl i
      have hslot : (b.control i).slot ≠ none := by rw [hl]; exact hsl
      rw [ho] at hr ⊢
      dsimp only at hr ⊢
      by_cases ha : (b.control i).state = .called ∨ (b.control i).state = .equalising
      · exact (gasTold_inRound ha).2.2.2.2 hslot
      · by_cases hret : (b.control i).state = .returning
        · exact (gasTold_returning hret).2.2.2 hslot
        · obtain ⟨n1, n2⟩ := not_or.mp ha
          rw [gasTold_home ⟨n1, n2, hret⟩] at hr
          exact absurd hr hret
    · obtain ⟨l, hl⟩ := hctl i
      obtain ⟨o, ho⟩ := kctl i
      have hst : (b.control i).state = (s.control i).state := by rw [hl]
      have hhome : b.home i := by
        unfold State.home
        rw [hst]
        rcases hi with hi | hi | hi <;> rw [hi] <;> decide
      rw [ho, gasTold_home hhome]
      dsimp only
      exact hst
    · rw [← hnow]
      exact (kwater i (by rw [hwater]; exact h1) (by rw [hwater]; exact h2)).of_same hwater himages hmgmt hcells

end Sys2Proof.Machine
end

section
open Sys2Proof Sys2Proof.Machine

/-! ## The run-on through the end of an event (R150; log 5) -/

namespace Sys2Proof.Machine

/-- What neither starts nor stops a stretch: the run-on's items stand, and no slot at rest takes an entry. -/
structure State.Still (s t : State) : Prop where
  run : s.RunKept t
  idle : ∀ k, (s.slot k).entryState = none → (t.slot k).entryState = none

section
variable {s t u : State}

theorem State.RunKept.refl (s : State) : s.RunKept s := ⟨rfl, rfl, rfl, rfl⟩

theorem State.RunKept.lim (h : s.RunKept t) : t.lim = s.lim := by
  obtain ⟨-, hi, -, -⟩ := h
  unfold State.lim; rw [hi]

theorem State.Still.trans (h : s.Still t) (k : t.Still u) : s.Still u :=
  ⟨h.run.trans k.run, fun x hx => k.idle x (h.idle x hx)⟩

theorem still_ite {c : Prop} [Decidable c] (h : s.Still t) (k : s.Still u) : s.Still (if c then t else u) := by
  split <;> assumption

theorem still_of_slot (h : s.RunKept t) (k : ∀ x, t.slot x = s.slot x) : s.Still t :=
  ⟨h, fun x hx => by rw [k x]; exact hx⟩

theorem State.HomeKept.still (h : s.HomeKept t) : s.Still t := by
  refine ⟨h.run, fun k hk => ?_⟩
  rcases h.slot k with e | e <;> rw [e]
  · exact hk
  · rfl

theorem State.RoundFrame.still {i : Str} (h : State.RoundFrame i none s t) : s.Still t :=
  still_of_slot ⟨h.now, h.images, by rw [h.site], by rw [h.site]⟩ fun k => h.slot k (by simp)

theorem still_modWater (s : State) (f : Water → Water) : s.Still (s.modWater f) :=
  still_of_slot ⟨rfl, rfl, rfl, rfl⟩ fun k => by cases k <;> rfl

theorem still_modControl (s : State) (i : Str) (f : Control → Control) : s.Still (s.modControl i f) :=
  still_of_slot ⟨rfl, rfl, rfl, rfl⟩ fun k => by cases k <;> rfl

theorem still_removeEntry (s : State) (i : Str) (k : RoundKind) : s.Still (s.removeEntry i k) :=
  still_of_slot ⟨rfl, rfl, rfl, rfl⟩ fun k => by cases k <;> rfl

theorem still_modRing (s : State) (f : Ring → Ring) : s.Still (s.modRing f) :=
  still_of_slot ⟨rfl, rfl, rfl, rfl⟩ fun k => by cases k <;> rfl

theorem still_marks (s : State) (m : Marks) : s.Still { s with marks := m } :=
  still_of_slot ⟨rfl, rfl, rfl, rfl⟩ fun k => by cases k <;> rfl

theorem still_notice (s : State) (m : List Byte) : s.Still (s.notice m) := (homeKept_notice s m).still

theorem still_handValve (s : State) (i : Str) (a : List Alter) : s.Still (s.handValve i a) :=
  still_of_slot ⟨rfl, rfl, rfl, rfl⟩ fun k => by cases k <;> rfl

theorem still_wateringStored (s : State) (i : Str) (c : EndReason) : s.Still (s.wateringStored i c) := by
  have h : s.Still ((s.modWater Water.ended).modControl i fun r =>
      { r with lastWaterOutcome := some (s.water.outcome c s.mgmt.clock) }) := (still_modWater ..).trans (still_modControl ..)
  exact still_ite h (h.trans (still_notice ..))

/-- A string enters CALLED with its slot at rest (R63, R82). -/
theorem still_calledIn (s : State) (e : Entry) (sl : SlotId) : s.Still (s.calledIn e sl) := by
  refine ⟨by cases sl <;> exact ⟨rfl, rfl, rfl, rfl⟩, fun k hk => ?_⟩
  by_cases hks : k = sl
  · subst hks
    unfold State.calledIn
    rw [State.modSlot_slot]
    rfl
  · have e1 : (s.calledIn e sl).slot k = s.slot k := by
      unfold State.calledIn
      rw [State.modSlot_slot_ne _ hks]
      cases k <;> rfl
    rw [e1]; exact hk

theorem still_admitEqualise (s : State) (e : Entry) (sl : SlotId) : s.Still (s.admitEqualise e sl) := by
  rw [admitEqualise_eq]
  have hs : (s.calledIn e sl).Still ((s.calledIn e sl).setup e.string) := by
    unfold State.setup
    exact ((frame_stringRect _ e.string none _).still.trans (frame_handContactor _ e.string none _ _).still).trans
      (still_modControl ..)
  exact (((still_calledIn s e sl).trans hs).trans (still_notice ..)).trans (homeKept_stateChanged ..).still

/-! ### The start of an entry, whatever it is -/

theorem runKept_suspend (s : State) (sl : SlotId) (b : ResumeState) (o : RectOrder) : s.RunKept (s.suspend sl b o) := by
  obtain ⟨u, hu, -, heq⟩ := suspend_eq s sl b o
  rw [heq]
  exact runKept_ite (hu.runKept.trans (runKept_slotEnds ..)) hu.runKept

theorem runKept_beginStretch (s : State) (sl : SlotId) (b : ResumeState) : s.RunKept (s.beginStretch sl b) := by
  have hj := (acts_judgeReasons s sl).runKept
  unfold State.beginStretch
  dsimp only
  split
  · exact hj.trans (runKept_slotEnds ..)
  · exact hj.trans (runKept_ite (runKept_suspend ..)
      (((acts_modSlot ..).trans (acts_slotOrder ..)).trans (acts_judgeCriterion ..)).runKept)

/-- The start of an entry leaves the run-on's items; only the judgement after it moves them (R83, R103). -/
theorem runKept_startAny (s : State) (sl : SlotId) (n : Nat) : s.RunKept (s.startEntry sl n) := by
  by_cases hr : (s.slot sl).recipe = 0
  · cases n with
    | zero => exact .refl s
    | succ n =>
      have hr' : ((s.modSlot sl SlotRec.entryReset).slot sl).recipe = 0 := by rw [State.modSlot_slot]; exact hr
      rw [State.startEntry, if_pos hr']
      exact (acts_modSlot ..).runKept.trans ((acts_modSlot ..).runKept.trans (runKept_beginStretch ..))
  · exact runKept_startEntry sl n hr

/-! ### The run-on that an event starts -/

/-- The run-on end that a stop of the gassing run sets: none with a run_on_min of 0 (R150). -/
def runOnFrom (n m : Nat) : Option Nat :=
  if m = 0 then none else some (n + m * 60000)

/-- The run-on stands at what a stop at `n` with run_on_min `m` makes of it, unless a gassing run stands; and no judgement makes
another of it, because run_on_min is still `m` or no slot runs. -/
structure State.RunOnHeld (n m : Nat) (s : State) : Prop where
  now : s.now = n
  runs : s.site.gassingRun = true → s.site.runOnEnd = none
  stopped : s.site.gassingRun = false → s.site.runOnEnd = runOnFrom n m
  bound : s.lim.runOnMin = m ∨ (s.site.gassingRun = false ∧ ∀ k, (s.slot k).entryState = none)

variable {n m : Nat}

theorem judgeGassingRun_idle (h : ∀ k, (s.slot k).entryState = none) : s.judgeGassingRun = false := by
  have ha : ∀ k, (s.slot k).active = false := fun k => by unfold SlotRec.active; rw [h k]; decide
  unfold State.judgeGassingRun
  simp only [ha, Bool.false_and, List.any_eq_false]
  exact fun _ _ => Bool.false_ne_true

theorem followSite_run (s : State) : s.followSite.site.gassingRun = s.judgeGassingRun
    ∧ s.followSite.site.runOnEnd = if s.judgeGassingRun = true then none
      else if s.site.gassingRun = true ∧ s.lim.runOnMin ≠ 0 then some (s.now + s.lim.runOnMin * 60000) else s.site.runOnEnd := by
  rw [s.followSite_eq _ _ _ _ _ rfl rfl rfl rfl rfl]
  exact ⟨rfl, rfl⟩

theorem State.RunOnHeld.run (h : s.RunOnHeld n m) (k : s.RunKept t) (hl : s.lim.runOnMin = m) : t.RunOnHeld n m := by
  have hlim := k.lim
  obtain ⟨hnow, -, hg, hr⟩ := k
  exact ⟨hnow.trans h.now, by rw [hg, hr]; exact h.runs, by rw [hg, hr]; exact h.stopped, .inl (by rw [hlim]; exact hl)⟩

theorem State.RunOnHeld.still (h : s.RunOnHeld n m) (k : s.Still t) : t.RunOnHeld n m := by
  rcases h.bound with hl | ⟨hg, hi⟩
  · exact h.run k.run hl
  · obtain ⟨hnow, -, kg, kr⟩ := k.run
    exact ⟨hnow.trans h.now, by rw [kg, kr]; exact h.runs, by rw [kg, kr]; exact h.stopped,
      .inr ⟨kg.trans hg, fun x => k.idle x (hi x)⟩⟩

theorem State.RunOnHeld.followSite (h : s.RunOnHeld n m) : s.followSite.RunOnHeld n m := by
  obtain ⟨hg, hr⟩ := followSite_run s
  refine ⟨h.now, fun k => ?_, fun k => ?_, ?_⟩
  · rw [hr, if_pos (hg ▸ k)]
  · rw [hg] at k
    rw [hr, if_neg (by rw [k]; exact Bool.false_ne_true)]
    cases hs : s.site.gassingRun with
    | false => rw [if_neg (fun x => Bool.false_ne_true x.1)]; exact h.stopped hs
    | true =>
      have hl : s.lim.runOnMin = m := h.bound.resolve_right fun x => by rw [hs] at x; exact absurd x.1 (by decide)
      rw [hl, h.now, h.runs hs]
      unfold runOnFrom
      by_cases hm : m = 0 <;> simp [hm]
  · rcases h.bound with hl | ⟨-, hi⟩
    · exact .inl hl
    · have hi' : ∀ k, (s.followSite.slot k).entryState = none := fun k => by rw [followSite_slot]; exact hi k
      exact .inr ⟨hg.trans (judgeGassingRun_idle hi), hi'⟩

theorem runOnHeld_ite {c : Prop} [Decidable c] (h : s.RunOnHeld n m) (k : t.RunOnHeld n m) :
    (if c then s else t).RunOnHeld n m := by
  split <;> assumption

/-! ### Scans -/

/-- The report of a watering's end: only a slot in WATER_WAIT starts an entry (R88). -/
theorem State.RunOnHeld.reportToSlot (h : s.RunOnHeld n m) (i : Str) : (s.reportToSlot i).RunOnHeld n m := by
  unfold State.reportToSlot State.endWaterWait
  split
  · next sl _ =>
    split
    · next hw =>
      have hl : s.lim.runOnMin = m := h.bound.resolve_right fun x => by rw [x.2 sl] at hw; cases hw
      have hk : s.RunKept ((((s.modSlot sl fun r => { r with waterCalled := false }).modSlot sl fun r =>
          { r with index := r.index + 1 })).startEntry sl 13) :=
        ((acts_modSlot ..).trans (acts_modSlot ..)).runKept.trans (runKept_startAny ..)
      exact (h.run hk hl).followSite
    · exact h
  · exact h

theorem State.RunOnHeld.endWatering (h : s.RunOnHeld n m) (i : Str) (c : EndReason) : (s.endWatering i c).RunOnHeld n m := by
  rw [endWatering_eq]
  exact ((h.still (still_wateringStored s i c)).reportToSlot i).still ((still_marks ..).trans (still_marks ..))

theorem State.RunOnHeld.beginWatering (h : s.RunOnHeld n m) (i : Str) (r : Reason) : (s.beginWatering i r).RunOnHeld n m := by
  unfold State.beginWatering State.nothingToWater State.formGroup
  dsimp only
  refine runOnHeld_ite ?_ (runOnHeld_ite ?_ ?_)
  · exact (h.still (((still_modWater ..).trans (still_modControl ..)).trans (still_notice ..))).reportToSlot i
  · exact (h.still (((still_modWater ..).trans (still_modWater ..)).trans (still_notice ..))).endWatering i _
  · exact h.still (((((still_modWater ..).trans (still_modWater ..)).trans (still_notice ..)).trans (still_handValve ..)).trans
      (still_modWater ..))

theorem State.RunOnHeld.scanEntry {c : ScanState} (h : c.state.RunOnHeld n m) (edge : Bool) (key : Str × RoundKind) :
    (scanEntry edge c key).state.RunOnHeld n m := by
  unfold Sys2Proof.Machine.scanEntry
  split
  · exact h
  · next e _ =>
    split
    · split
      · split
        · exact h.still ((still_admitEqualise ..).trans (still_marks ..))
        · exact h
      · exact h
    · split
      · exact ((h.still (still_removeEntry ..)).beginWatering ..).still (still_marks ..)
      · exact h

theorem State.RunOnHeld.scanOnce (h : s.RunOnHeld n m) (edge : Bool) : (s.scanOnce edge).RunOnHeld n m := by
  unfold State.scanOnce
  generalize s.queue.map (fun e => (e.string, e.kind)) = l
  suffices hl : ∀ c : ScanState, c.state.RunOnHeld n m → (l.foldl (Sys2Proof.Machine.scanEntry edge) c).state.RunOnHeld n m from hl _ h
  induction l with
  | nil => exact fun _ hc => hc
  | cons key l ih => exact fun _ hc => ih _ (hc.scanEntry edge key)

theorem State.RunOnHeld.runScans (h : s.RunOnHeld n m) (fuel : Nat) : (s.runScans fuel).RunOnHeld n m := by
  induction fuel generalizing s with
  | zero => exact h.still (still_marks ..)
  | succ fuel ih => exact runOnHeld_ite (ih ((h.still (still_marks ..)).scanOnce _)) h

/-! ### An image applied at rest -/

/-- At `n` no slot runs an entry and the Watering Unit is IDLE, as when an image is applied (R178, R181); the run-on stands at
`x`. -/
structure State.Parked (n : Nat) (x : Option Nat) (s : State) : Prop where
  now : s.now = n
  gassing : s.site.gassingRun = false
  runOn : s.site.runOnEnd = x
  idle : ∀ k, (s.slot k).entryState = none
  water : s.water.state = .idle

variable {x : Option Nat}

theorem State.Parked.of_same (h : s.Parked n x) (hn : t.now = s.now) (hg : t.site.gassingRun = s.site.gassingRun)
    (hr : t.site.runOnEnd = s.site.runOnEnd) (hs : ∀ k, t.slot k = s.slot k) (hw : t.water.state = s.water.state) :
    t.Parked n x :=
  ⟨hn.trans h.now, hg.trans h.gassing, hr.trans h.runOn, fun k => by rw [hs]; exact h.idle k, hw.trans h.water⟩

theorem State.Parked.still (h : s.Parked n x) (k : s.Still t) (hw : t.water.state = s.water.state) : t.Parked n x := by
  obtain ⟨kn, -, kg, kr⟩ := k.run
  exact ⟨kn.trans h.now, kg.trans h.gassing, kr.trans h.runOn, fun y => k.idle y (h.idle y), hw.trans h.water⟩

theorem State.Parked.home (h : s.Parked n x) (k : s.HomeKept t) : t.Parked n x :=
  h.still k.still (by rw [k.water])

theorem State.Parked.modRing (h : s.Parked n x) (f : Ring → Ring) : (s.modRing f).Parked n x :=
  h.still (still_modRing s f) rfl

theorem parked_ite {c : Prop} [Decidable c] (h : s.Parked n x) (k : t.Parked n x) : (if c then s else t).Parked n x := by
  split <;> assumption

theorem parked_eachStr (f : Str → State → State) (hf : ∀ i u, State.Parked n x u → (f i u).Parked n x) (h : s.Parked n x) :
    (s.eachStr f).Parked n x :=
  eachStr_preserves (P := State.Parked n x) hf h

theorem State.Parked.recomputeAll (h : s.Parked n x) (hs : ∀ j, (s.control j).slot = none) : s.recomputeAll.Parked n x := by
  have e := (rederived_each hs).eq
  rw [recomputeAll_eq]
  generalize s.eachStr State.rederiveOne = u at e
  have hu : u.Parked n x := by
    rw [e]; exact h.of_same rfl rfl rfl (fun k => by cases k <;> rfl) rfl
  exact hu.home (homeKept_recomputeBus u)

theorem State.Parked.reviews (h : s.Parked n x) : (s.eachSlot fun sl s => s.reviewReasons sl).Parked n x := by
  rw [reviewReasons_idle h.idle]; exact h

theorem State.Parked.blindOrders (h : s.Parked n x) : s.blindOrders.Parked n x := by
  unfold State.blindOrders State.safeOrders
  refine State.Parked.modRing (parked_eachStr _ (fun i u k => ?_) h) _
  split
  · exact parked_ite (k.still ((frame_handRect _ i none _ _).still.trans (frame_handContactor _ i none _ _).still) rfl) k
  · exact k

theorem State.Parked.goBlind (h : s.Parked n x) : s.goBlind.Parked n x := by
  have h1 : ((s.modRing fun r => { r with sight := .blind }).eachStr fun i s => s.endCause i .blind).Parked n x :=
    parked_eachStr _ (fun i u k => k.home (homeKept_endCause u i .blind)) (h.modRing _)
  unfold State.goBlind
  dsimp only
  generalize (s.modRing fun r => { r with sight := .blind }).eachStr (fun i s => s.endCause i .blind) = t at h1
  have hw : t.endWateringEarly .blind = t := endWateringEarly_idle (.inl h1.water) .blind
  rw [hw]
  have h2 : (if s.ring.sight = .seeing then t.eachSlot fun sl s => s.reviewReasons sl else t).Parked n x :=
    parked_ite h1.reviews h1
  generalize (if s.ring.sight = .seeing then t.eachSlot fun sl s => s.reviewReasons sl else t) = v at h2
  have h3 : (v.noticeAlarm .blind).Parked n x := h2.home (homeKept_notice v _)
  exact parked_ite h3.blindOrders h3

theorem State.Parked.reviewSilence (h : s.Parked n x) : s.reviewSilence.Parked n x :=
  parked_ite h.goBlind (parked_ite (h.modRing _).reviews h)

theorem State.Parked.staleChanged (h : s.Parked n x) (hs : ∀ j, (s.control j).slot = none) (b : Nat) :
    (s.staleChanged b).Parked n x := by
  rw [staleChanged_eq]
  refine parked_ite h (State.Parked.recomputeAll ?_ fun j => ?_)
  · exact h.of_same rfl rfl rfl (fun k => by cases k <;> rfl) rfl
  · obtain ⟨-, -, hc, -⟩ := reExpired_records s
    rw [hc]; exact hs j

theorem State.Parked.limitsApplied (h : s.Parked n x) (hs : ∀ j, (s.control j).slot = none) (b : Nat) :
    (s.limitsApplied b).Parked n x := by
  rw [limitsApplied_eq]
  have h1 := h.staleChanged hs b
  have h2 : (s.limitsSet b).Parked n x := by
    unfold State.limitsSet
    dsimp only
    rw [setReservoir_eq]
    exact h1.of_same rfl rfl rfl (fun k => by cases k <;> rfl) rfl
  exact h2.reviewSilence

theorem State.Parked.removeAtCommit (h : s.Parked n x) (g d : Entry → Bool) : (s.removeAtCommit g d).Parked n x := by
  rw [removeAtCommit_eq, noticeAll_eq]
  exact h.of_same rfl rfl rfl (fun k => by cases k <;> rfl) rfl

theorem State.Parked.stringsApplied (h : s.Parked n x) (ha : s.AllHome) (b : List Byte) : (s.stringsApplied b).Parked n x := by
  rw [stringsApplied_eq]
  refine State.Parked.removeAtCommit ?_ _ _
  unfold State.recommitted
  have hc : (s.eachStr fun i s => s.commitString b i).AllHome :=
    eachStr_preserves (P := State.AllHome) (fun i _ k => k.commitString b i) ha
  have hp : (s.eachStr fun i s => s.commitString b i).Parked n x := parked_eachStr _ (fun i u k => by
    obtain ⟨e, -⟩ := commitString_records u b i
    generalize u.commitString b i = t at e
    rw [e]
    exact k.of_same rfl rfl rfl (fun k => by cases k <;> rfl) rfl) h
  refine State.Parked.home (parked_eachStr _ (fun i u k => ?_) (hp.recomputeAll hc.unbound)) (homeKept_rejudgeDischarge _)
  exact parked_ite (k.still (frame_judgeSpreadTimer u i none).still (by rw [(frame_judgeSpreadTimer u i none).water])) k

/-- An image applied where every string is home moves no run-on and starts no entry (R181). -/
theorem State.Parked.applyImage (h : s.Parked n x) (ha : s.AllHome) (t : TableId) (b : List Byte) :
    (s.applyImage t b).Parked n x := by
  have k : (s.imagePut t b).Parked n x := h.of_same rfl rfl rfl (fun k => by cases k <;> rfl) rfl
  have kh : (s.imagePut t b).AllHome := by
    refine ⟨ha.unbound, ha.home, fun k => ?_⟩
    have e : (s.imagePut t b).slot k = s.slot k := by cases k <;> rfl
    rw [e]; exact ha.rest k
  have hb : (s.imageActed t b).Parked n x := by
    unfold State.imageActed State.blocksAct State.recipesJudged
    split
    · exact k.limitsApplied kh.unbound _
    · exact k.stringsApplied kh _
    · exact k.removeAtCommit _ _
    · exact k.removeAtCommit _ _
    · exact k.modRing _
  obtain ⟨_, -, e⟩ := applyImage_eq s t b
  rw [e]
  exact hb.of_same rfl rfl rfl (fun k => by cases k <;> rfl) rfl

/-- A deferred commit finds the gassing run ended and moves no run-on (R75, R150, R181). -/
theorem State.RunOnHeld.deferredCommit (h : s.RunOnHeld n m) (hb : s.BoundOk)
    (hg : s.site.gassingRun = s.judgeGassingRun) : s.deferredCommit.RunOnHeld n m := by
  have h0 : State.RunOnHeld n m { s with marks := { s.marks with commit := false } } := h.still (still_marks ..)
  have b0 : State.BoundOk { s with marks := { s.marks with commit := false } } := hb.withMarks _
  have g0 : ({ s with marks := { s.marks with commit := false } } : State).site.gassingRun
    = ({ s with marks := { s.marks with commit := false } } : State).judgeGassingRun := hg
  unfold State.deferredCommit
  dsimp only
  generalize ({ s with marks := { s.marks with commit := false } } : State) = t at h0 b0 g0
  refine runOnHeld_ite ?_ h0
  unfold State.applyPending
  split
  · next tb hc _ =>
    rw [Bool.and_eq_true] at hc
    obtain ⟨hw, hn⟩ := (State.mayApply_iff t).1 hc.2
    have ha := b0.allHome hn
    have hi : ∀ k, (t.slot k).entryState = none := fun k => (ha.rest k).2.1
    have hgr : t.site.gassingRun = false := g0.trans (judgeGassingRun_idle hi)
    have hp : t.Parked n (runOnFrom n m) := ⟨h0.now, hgr, h0.stopped hgr, hi, hw⟩
    have k := hp.applyImage ha tb t.mgmt.staged
    exact ⟨k.now, fun x => absurd x (by rw [k.gassing]; decide), fun _ => k.runOn, .inr ⟨k.gassing, k.idle⟩⟩
  · exact h0

end

end Sys2Proof.Machine
end

section
open Sys2Proof Sys2Proof.Machine

/-! ## The outputs of the Site Line Unit (R103, R143 to R150, R155) -/

namespace Sys2Proof.Machine

/-- Every output of the Site Line Unit is the judgement of the state, and its timers and windows go with them. -/
structure State.OutputsJudged (t : State) : Prop where
  gassing : t.site.gassingRun = t.judgeGassingRun
  spending : t.site.spending = t.judgeSpending
  duty : t.site.duty = t.judgeDuty
  measuring : t.site.measuring = t.judgeMeasuring
  lamp : t.site.lamp = t.judgeLamp
  runOn : t.site.gassingRun = true → t.site.runOnEnd = none
  mark : t.site.src.level = true → t.site.spending = true → t.site.spendMark = true
  window : t.site.window.isSome = t.site.measuring
  counts : t.site.measuring = false → t.site.lowWindows = 0 ∧ t.site.okWindows = 0

section
variable {s t : State}

theorem outputsJudged_followSite (s : State) : s.followSite.OutputsJudged := by
  obtain ⟨hg, hp⟩ := s.followSite_activity
  obtain ⟨hd, hm, hl⟩ := s.followSite_judged
  have e := congrArg State.site (s.followSite_eq _ _ _ _ _ rfl rfl rfl rfl rfl)
  generalize s.followActivity.followDuty.judgeMeasuring = b at e
  generalize s.judgeGassingRun = g at e
  generalize s.judgeSpending = p at e
  refine ⟨hg, hp, hd, hm, hl, ?_, ?_, ?_, ?_⟩ <;> rw [e] <;> dsimp only
  · intro h; rw [if_pos h]
  · intro h1 h2; rw [h1, h2]; simp
  · cases b
    · rfl
    · simp only [if_true]; split <;> simp_all
  · intro h; rw [h]; exact ⟨rfl, rfl⟩

/-- The arbiter, which comes after the outputs, moves none of their inputs (R167). -/
theorem State.OutputsJudged.arbitrated (h : t.OutputsJudged) : State.OutputsJudged { t.arbitrate with marks := {} } := by
  have hs : t.arbitrate.ring.sight = t.ring.sight := by
    obtain ⟨-, -, -, -, -, -, h7, -⟩ := Ring.arbitrate_kept t.now t.ring
    exact h7
  have hl : State.judgeLamp { t.arbitrate with marks := {} } = t.judgeLamp := by
    unfold State.judgeLamp
    dsimp only
    rw [hs]
    rfl
  exact ⟨h.gassing, h.spending, h.duty, h.measuring, h.lamp.trans hl.symm, h.runOn, h.mark, h.window, h.counts⟩

theorem any_slots (f : SlotId → Bool) : allSlots.any f = true ↔ ∃ x, f x = true := by
  simp only [List.any_eq_true]
  exact ⟨fun ⟨x, _, h⟩ => ⟨x, h⟩, fun ⟨x, h⟩ => ⟨x, by cases x <;> decide, h⟩⟩

theorem SlotRec.active_iff (r : SlotRec) : r.active = true ↔ r.entryState = some .run ∨ r.entryState = some .direct := by
  simp [SlotRec.active]

/-- The activity that the fan, the run-on and the allowance follow (R103, R143). -/
theorem State.OutputsJudged.activity (h : t.OutputsJudged) :
    (t.site.gassingRun = true ↔ ∃ sl, ((t.slot sl).entryState = some .run ∨ (t.slot sl).entryState = some .direct)
        ∧ (t.stretch sl).gassing = true)
    ∧ (t.site.spending = true ↔ ∃ sl, ((t.slot sl).entryState = some .run ∨ (t.slot sl).entryState = some .direct)
        ∧ (t.stretch sl).source = true) := by
  rw [h.gassing, h.spending]
  unfold State.judgeGassingRun State.judgeSpending
  simp only [any_slots, Bool.and_eq_true, SlotRec.active_iff, and_self]

/-- The duty by R149's table. -/
theorem judgeDuty_table (t : State) : t.judgeDuty = if t.site.gasLatch = true then 15
    else if t.mgmt.loaded.limits = false then 0
    else if t.site.gassingRun = true ∨ t.site.runOnEnd ≠ none ∨ t.site.fanFail = true then t.lim.fanGasDuty
    else t.lim.fanBaseDuty := by
  have hc : (t.site.gassingRun || t.site.runOnEnd.isSome || t.site.fanFail) = true
      ↔ t.site.gassingRun = true ∨ t.site.runOnEnd ≠ none ∨ t.site.fanFail = true := by
    simp [Option.isSome_iff_ne_none, or_assoc]
  have hl : (!t.limitsLoaded) = true ↔ t.mgmt.loaded.limits = false := by simp [State.limitsLoaded]
  unfold State.judgeDuty
  simp only [hc, hl]

theorem judgeMeasuring_iff (t : State) :
    t.judgeMeasuring = true ↔ t.mgmt.loaded.limits = true ∧ t.lim.fanGasDuty ≤ t.site.duty := by
  simp [State.judgeMeasuring, State.limitsLoaded]

theorem boundCount_pos (t : State) : 0 < t.boundCount ↔ ∃ i, (t.control i).slot ≠ none := by
  rw [Nat.pos_iff_ne_zero, ne_eq, State.boundCount_eq_zero, not_forall]

/-- The lamp by R155's table. -/
theorem judgeLamp_table (t : State) : t.judgeLamp = if t.site.gasLatch = true then .fast
    else if (∃ i, (t.cfg i).present = true ∧ (t.control i).state = .faulted) ∨ t.site.fanFail = true
      ∨ t.ring.sight = .blind then .blink
    else if t.mgmt.mode = .transparent then .slow
    else if (∃ i, (t.control i).slot ≠ none) ∨ t.water.state ≠ .idle then .on
    else .off := by
  have hb : ((allStrs.any fun i => t.present i && t.inState i .faulted) || t.site.fanFail || t.ring.sight == .blind) = true
      ↔ (∃ i, (t.cfg i).present = true ∧ (t.control i).state = .faulted) ∨ t.site.fanFail = true ∨ t.ring.sight = .blind := by
    simp [List.any_eq_true, mem_allStrs, State.present, State.inState, or_assoc]
  have hm : (!t.engaged) = true ↔ t.mgmt.mode = .transparent := by
    unfold State.engaged
    cases t.mgmt.mode <;> decide
  have hw : (decide (0 < t.boundCount) || t.water.state != .idle) = true
      ↔ (∃ i, (t.control i).slot ≠ none) ∨ t.water.state ≠ .idle := by
    rw [Bool.or_eq_true, decide_eq_true_iff, boundCount_pos, bne_iff_ne]
  unfold State.judgeLamp
  simp only [hb, hm, hw]

/-- The run-on end that the last gassing stretch of an event leaves, whatever the event's deferred commit and scans make of the
state after it (R150, R181; log 5). -/
theorem runOnHeld_event {n m : Nat} (h : s.RunOnHeld n m) (hb : s.BoundOk) (ht : t = s.settle ∨ t = s.quietEnd ∨ t = s.followSite) :
    t.RunOnHeld n m := by
  have end_still : ∀ u : State, u.Still { u.arbitrate with marks := {} } := fun u => (still_modRing u _).trans (still_marks _ _)
  rcases ht with rfl | rfl | rfl
  · exact (((h.followSite.deferredCommit hb.followSite s.followSite_activity.1).followSite.runScans scanFuel).followSite).still
      (end_still _)
  · exact h.followSite.still (end_still _)
  · exact h.followSite

theorem outputsJudged_event (ht : t = s.settle ∨ t = s.quietEnd ∨ t = s.followSite) : t.OutputsJudged := by
  rcases ht with rfl | rfl | rfl
  · exact (outputsJudged_followSite _).arbitrated
  · exact (outputsJudged_followSite _).arbitrated
  · exact outputsJudged_followSite s

/-- What a judgement of the outputs moves, in terms of the outputs it leaves (R145, R147, R150, R155). -/
theorem followSite_site (s : State) (t : Site) (h : t = s.followSite.site) : t = { s.site with
    gassingRun := t.gassingRun, spending := t.spending, duty := t.duty, measuring := t.measuring, lamp := t.lamp
    runOnEnd := if t.gassingRun = true then none
      else if s.site.gassingRun = true ∧ s.lim.runOnMin ≠ 0 then some (s.now + s.lim.runOnMin * 60000) else s.site.runOnEnd
    spendMark := s.site.spendMark || (s.site.src.level && t.spending)
    window := if t.measuring = false then none
      else if s.site.measuring = true ∧ s.site.window ≠ none then s.site.window else some ⟨s.now, 0⟩
    lowWindows := if t.measuring = false then 0 else s.site.lowWindows
    okWindows := if t.measuring = false then 0 else s.site.okWindows
    lampStart := if t.lamp = s.site.lamp then s.site.lampStart else s.now } := by
  rw [s.followSite_eq _ _ _ _ _ rfl rfl rfl rfl rfl] at h
  dsimp only at h
  generalize s.followActivity.followDuty.judgeMeasuring = b at h
  generalize s.judgeGassingRun = g at h
  generalize s.judgeSpending = p at h
  generalize s.followActivity.judgeDuty = d at h
  generalize s.judgeLamp = l at h
  have hw : (s.site.measuring && s.site.window.isSome) = true ↔ s.site.measuring = true ∧ s.site.window ≠ none := by
    simp [Option.isSome_iff_ne_none]
  rw [h]
  cases b <;> simp only [hw, if_true, if_false, Bool.false_eq_true, Bool.true_eq_false]

end

end Sys2Proof.Machine

namespace Sys2Proof.Machine

/-- Settles O27: the outputs are the judgements of the state that the last followSite of an event leaves, and the run-on
end is an invariant of what follows the first one (`State.RunOnHeld`). -/
theorem siteOutputsFollowTheState : Obligations.SiteOutputsFollowTheState := by
  refine ⟨fun s t ht => ?_, fun s h1 h2 => State.settle_quiet h1 h2, fun s => ⟨followSite_fixed s, fun t ht => ?_⟩⟩
  · have h := outputsJudged_event ht
    obtain ⟨hg, hp⟩ := h.activity
    refine ⟨hg, hp, h.duty.trans (judgeDuty_table t), by rw [h.measuring, judgeMeasuring_iff], ?_, h.counts, h.runOn,
      fun hok hb hrun hstop _ => ?_, h.mark, h.lamp.trans (judgeLamp_table t)⟩
    · rw [← h.window, Option.isSome_iff_ne_none]
    · have h0 : s.RunOnHeld s.now s.lim.runOnMin :=
        ⟨rfl, hok, fun hf => absurd (hrun.symm.trans hf) (by decide), .inl rfl⟩
      rw [(runOnHeld_event h0 hb ht).stopped hstop, hok hrun]
      rfl
  · have hsite : t.site = s.followSite.site := by
      rcases ht with rfl | rfl <;> rfl
    have hrest : t.strings = s.strings ∧ t.cells = s.cells ∧ t.slotA = s.slotA ∧ t.slotB = s.slotB ∧ t.queue = s.queue
        ∧ t.water = s.water ∧ t.mgmt = s.mgmt ∧ t.images = s.images := by
      rcases ht with rfl | rfl
      · unfold State.quietEnd
        rw [followSite_fixed s]
        generalize s.followSite.site = u
        exact ⟨rfl, rfl, rfl, rfl, rfl, rfl, rfl, rfl⟩
      · rw [followSite_fixed s]
        generalize s.followSite.site = u
        exact ⟨rfl, rfl, rfl, rfl, rfl, rfl, rfl, rfl⟩
    exact ⟨followSite_site s t.site hsite, hrest⟩

end Sys2Proof.Machine
end

section
open Sys2Proof Sys2Proof.Machine

/-! ## The conditions of admission, and the entries that a scan passes over (R113 to R117) -/

namespace Sys2Proof.Machine

section
variable {s : State} {e : Entry}

theorem engaged_iff (s : State) : s.engaged = true ↔ s.mgmt.mode ≠ .transparent := by
  unfold State.engaged
  cases s.mgmt.mode <;> decide

theorem gateOpen_iff (s : State) (edge : Bool) : s.gateOpen edge = true
    ↔ ¬ (s.lim.triggerMode = .edge ∧ edge = false) ∧ ¬ (s.lim.triggerMode = .level ∧ s.trigLevel = false) := by
  unfold State.gateOpen
  cases s.lim.triggerMode <;> simp

theorem slotFree_iff (s : State) (sl : SlotId) : s.slotFree sl = true ↔ s.rectAddr sl ≠ 0xFF ∧ (s.slot sl).string = none := by
  simp [State.slotFree, State.slotPresent]

theorem freeSlot_isSome (s : State) :
    s.freeSlot?.isSome = true ↔ ¬ ∀ sl, s.rectAddr sl = 0xFF ∨ (s.slot sl).string ≠ none := by
  unfold State.freeSlot?
  rw [List.find?_isSome, not_forall]
  simp only [slotFree_iff, not_or, not_not, ne_eq]
  exact ⟨fun ⟨x, _, h⟩ => ⟨x, h⟩, fun ⟨x, h⟩ => ⟨x, mem_allSlots x, h⟩⟩

theorem temperatureOk_iff (s : State) (i : Str) : s.temperatureOk i = true ↔ (s.reading i).ts ≠ none
    ∧ ¬ ∃ t, (s.reading i).ts = some t ∧ (t < s.lim.coldLimit ∨ s.lim.hotLimit ≤ t) := by
  unfold State.temperatureOk
  cases (s.reading i).ts with
  | none => simp
  | some t => simp [not_or]

/-- The site conditions of an EQUALISE entry (R114). -/
theorem equaliseSite_iff (s : State) (edge : Bool) : s.equaliseSite edge = true ↔
    s.mgmt.mode ≠ .transparent ∧ s.mgmt.staging ≠ .pending ∧ ¬ s.site.gasLatch = true ∧ ¬ s.site.fanFail = true
      ∧ ¬ s.discharge = true ∧ s.holdoffEnd = none ∧ s.ring.sight = .seeing
      ∧ ¬ (s.lim.triggerMode = .edge ∧ edge = false) ∧ ¬ (s.lim.triggerMode = .level ∧ s.trigLevel = false)
      ∧ ¬ (∀ sl, s.rectAddr sl = 0xFF ∨ (s.slot sl).string ≠ none) ∧ ¬ s.lim.maxOut ≤ s.boundCount := by
  unfold State.equaliseSite
  simp only [Bool.and_eq_true, engaged_iff, gateOpen_iff, freeSlot_isSome, State.commitPending, Bool.not_eq_true',
    decide_eq_true_iff, beq_iff_eq, Option.isNone_iff_eq_none, beq_eq_false_iff_ne, Bool.not_eq_true, Nat.not_le, and_assoc]

/-- The conditions of the string of an EQUALISE entry (R115). -/
theorem equaliseString_iff (s : State) (e : Entry) : s.equaliseString e = true ↔
    (s.control e.string).state = .onBus ∧ ¬ (s.reading e.string).dry = true
      ∧ ¬ (e.recipe ≠ 0 ∧ ((s.charge e.string).qBal ≠ 0 ∨ (s.charge e.string).assumed = true))
      ∧ (s.reading e.string).ts ≠ none
      ∧ ¬ (∃ t, (s.reading e.string).ts = some t ∧ (t < s.lim.coldLimit ∨ s.lim.hotLimit ≤ t))
      ∧ ¬ (s.reading e.string).freshCells + s.lim.staleAllow < (s.cfg e.string).cells
      ∧ ¬ s.othersOnBus e.string < s.lim.minOnBus
      ∧ ¬ (s.needsSourceAtStart e.recipe = true ∧ s.site.allowance = 0) := by
  have hq : (e.recipe == 0 || ((s.charge e.string).qBal == 0 && !(s.charge e.string).assumed)) = true
      ↔ ¬ (e.recipe ≠ 0 ∧ ((s.charge e.string).qBal ≠ 0 ∨ (s.charge e.string).assumed = true)) := by
    simp only [Bool.or_eq_true, Bool.and_eq_true, beq_iff_eq, Bool.not_eq_true', not_and, not_or, ne_eq, not_not,
      Bool.not_eq_true]
    tauto
  have hs : (!s.needsSourceAtStart e.recipe || decide (1 ≤ s.site.allowance)) = true
      ↔ ¬ (s.needsSourceAtStart e.recipe = true ∧ s.site.allowance = 0) := by
    simp only [Bool.or_eq_true, Bool.not_eq_true', decide_eq_true_iff, not_and, Nat.one_le_iff_ne_zero]
    cases s.needsSourceAtStart e.recipe <;> simp
  unfold State.equaliseString
  rw [Bool.and_eq_true, hs]
  simp only [Bool.and_eq_true, hq, temperatureOk_iff, State.inState, beq_iff_eq, Bool.not_eq_true', decide_eq_true_iff,
    Bool.not_eq_true, Nat.not_lt, and_assoc]

/-- An EQUALISE entry that no condition bars. -/
theorem equalise_open (s : State) (e : Entry) :
    (s.equaliseSite s.marks.gate && s.equaliseString e) = true ↔ ¬ s.equaliseBarred e := by
  unfold State.equaliseBarred
  rw [Bool.and_eq_true, equaliseSite_iff, equaliseString_iff]
  simp only [not_or, ne_eq, not_not, and_assoc]

theorem inWaterWait_iff (s : State) (i : Str) : s.inWaterWait i = true ↔ s.atWaterPoint i := by
  unfold State.inWaterWait State.atWaterPoint State.inState
  cases (s.control i).slot <;> simp

/-- A WATER entry that no condition bars (R117). -/
theorem water_open (s : State) (e : Entry) : s.waterAdmissible e = true ↔ ¬ s.waterBarred e := by
  have ho : (e.origin != .recipe && s.inState e.string .onBus && (s.charge e.string).qBal == 0) = true
      ↔ ¬ (e.origin = .recipe ∨ (s.control e.string).state ≠ .onBus ∨ (s.charge e.string).qBal ≠ 0) := by
    simp [State.inState, not_or, and_assoc]
  have hw : (s.inWaterWait e.string ||
      (e.origin != .recipe && s.inState e.string .onBus && (s.charge e.string).qBal == 0)) = true
      ↔ ¬ (¬ s.atWaterPoint e.string
        ∧ (e.origin = .recipe ∨ (s.control e.string).state ≠ .onBus ∨ (s.charge e.string).qBal ≠ 0)) := by
    rw [Bool.or_eq_true, ho, inWaterWait_iff]
    tauto
  unfold State.waterAdmissible State.waterBarred
  rw [Bool.and_eq_true, hw]
  simp only [Bool.and_eq_true, engaged_iff, State.commitPending, StringCfg.hasManifold, Bool.not_eq_true', beq_iff_eq,
    beq_eq_false_iff_ne, bne_iff_ne, decide_eq_true_iff, Bool.not_eq_true, not_or, ne_eq, not_not, Nat.not_lt, and_assoc]

/-! ### The entries passed over -/

/-- The state that a scan starts on: the scan and its edge are taken (R113). -/
def State.scanning (s : State) : State :=
  { s with marks := { s.marks with scan := false, gate := false } }

/-- A barred entry is passed over (R113). -/
theorem scanEntry_passes (w : Bool) {key : Str × RoundKind} (h : ∀ x ∈ s.queue, x.named key.1 key.2 = true → s.barred x) :
    scanEntry s.marks.gate ⟨s.scanning, w⟩ key = ⟨s.scanning, w⟩ := by
  unfold scanEntry
  split
  · rfl
  · next x hx =>
    have hb : s.barred x := h x (List.mem_of_find?_eq_some hx) (List.find?_some (p := fun e : Entry => e.named key.1 key.2) hx)
    unfold State.barred at hb
    split
    · next hk =>
      rw [hk] at hb
      have hc : (s.scanning.equaliseSite s.marks.gate && s.scanning.equaliseString x) = false := by
        rw [← Bool.not_eq_true]
        exact fun hc => (equalise_open s x).1 hc hb
      split
      · rw [hc]; rfl
      · rfl
    · next hk =>
      rw [hk] at hb
      have hc : s.scanning.waterAdmissible x = false := by
        rw [← Bool.not_eq_true]
        exact fun hc => (water_open s x).1 hc hb
      rw [hc, Bool.and_false]
      rfl

theorem foldl_passes (w : Bool) (l : List Entry) (h : ∀ y ∈ l, ∀ x ∈ s.queue, x.named y.string y.kind = true → s.barred x) :
    (l.map fun e => (e.string, e.kind)).foldl (scanEntry s.marks.gate) ⟨s.scanning, w⟩ = ⟨s.scanning, w⟩ := by
  induction l with
  | nil => rfl
  | cons y l ih =>
    rw [List.map_cons, List.foldl_cons, scanEntry_passes w (h y List.mem_cons_self)]
    exact ih fun z hz => h z (List.mem_cons_of_mem _ hz)

theorem runScans_done (h : s.marks.scan = false) (n : Nat) : s.runScans (n + 1) = s := by
  unfold State.runScans
  rw [h]
  rfl

theorem scan_eq (h : s.marks.scan = true) : s.scan = (s.scanning.scanOnce s.marks.gate).runScans 31 := if_pos h

/-- A scan of barred entries changes nothing (R113). -/
theorem scan_barred (h : s.marks.scan = true) (hb : ∀ x ∈ s.queue, s.barred x) : s.scan = s.scanning := by
  have h1 : s.scanning.scanOnce s.marks.gate = s.scanning :=
    congrArg ScanState.state (foldl_passes false s.queue fun _ _ x hx _ => hb x hx)
  rw [scan_eq h, h1, runScans_done rfl]

/-- A scan comes to its last entry with the state it started on, when it has passed over the entries before. -/
theorem scan_last {front : List Entry} (h : s.marks.scan = true) (hq : s.queue = front ++ [e])
    (hf : ∀ x ∈ front, s.barred x ∧ ¬ (x.string = e.string ∧ x.kind = e.kind)) :
    s.scan = (scanEntry s.marks.gate ⟨s.scanning, false⟩ (e.string, e.kind)).state.runScans 31
      ∧ s.scanning.entry? e.string e.kind = some e
      ∧ s.queue.filter (fun x => !x.named e.string e.kind) = front := by
  have hne : ∀ x ∈ front, x.named e.string e.kind = false := fun x hx => by
    rw [← Bool.not_eq_true, Entry.named_iff]
    exact (hf x hx).2
  have he : e.named e.string e.kind = true := (Entry.named_iff ..).2 ⟨rfl, rfl⟩
  refine ⟨?_, ?_, ?_⟩
  · have hpass : (front.map fun e => (e.string, e.kind)).foldl (scanEntry s.marks.gate) ⟨s.scanning, false⟩
        = ⟨s.scanning, false⟩ := foldl_passes false front fun y hy x hx hn => by
      rw [hq, List.mem_append, List.mem_singleton] at hx
      rcases hx with hx | rfl
      · exact (hf x hx).1
      · obtain ⟨h1, h2⟩ := (Entry.named_iff ..).1 hn
        exact absurd ⟨h1.symm, h2.symm⟩ (hf y hy).2
    have hk : s.scanning.queue.map (fun e => (e.string, e.kind)) = front.map (fun e => (e.string, e.kind)) ++ [(e.string, e.kind)] := by
      rw [show s.scanning.queue = front ++ [e] from hq, List.map_append]
      rfl
    rw [scan_eq h, State.scanOnce, hk, List.foldl_append, hpass]
    rfl
  · show s.queue.find? _ = some e
    rw [hq, List.find?_append, List.find?_eq_none.2 fun x hx => by rw [hne x hx]; exact Bool.false_ne_true, Option.none_or,
      List.find?_singleton, if_pos he]
  · rw [hq, List.filter_append, List.filter_eq_self.2 fun x hx => by rw [hne x hx]; rfl, List.filter_singleton, he]
    exact List.append_nil front

/-- The slot that a string is given: A if free, otherwise B (R63). -/
theorem freeSlot_eq_some {sl : SlotId} (h : s.slotFree sl = true) (hb : sl = .B → s.slotFree .A = false) :
    s.freeSlot? = some sl := by
  unfold State.freeSlot? allSlots
  cases sl with
  | A => rw [List.find?_cons_of_pos h]
  | B => rw [List.find?_cons_of_neg (by rw [hb rfl]; exact Bool.false_ne_true), List.find?_cons_of_pos h]

/-- The scan admits an EQUALISE entry that no condition bars (R113, R116). -/
theorem scan_equalise {front : List Entry} {sl : SlotId} (h : s.marks.scan = true) (hq : s.queue = front ++ [e])
    (hf : ∀ x ∈ front, s.barred x ∧ ¬ (x.string = e.string ∧ x.kind = e.kind)) (hk : e.kind = .equalise)
    (hb : ¬ s.equaliseBarred e) (hs : s.freeSlot? = some sl) :
    s.scan = (s.scanning.admitEqualise e sl).keepMarks s.scanning.marks := by
  obtain ⟨h1, h2, -⟩ := scan_last h hq hf
  have hc : (s.scanning.equaliseSite s.marks.gate && s.scanning.equaliseString e) = true := (equalise_open s e).2 hb
  have hs' : s.scanning.freeSlot? = some sl := hs
  have h3 : (scanEntry s.marks.gate ⟨s.scanning, false⟩ (e.string, e.kind)).state
      = (s.scanning.admitEqualise e sl).keepMarks s.scanning.marks := by
    unfold scanEntry
    dsimp only
    rw [h2]
    dsimp only
    rw [hk, hs']
    dsimp only
    rw [if_pos hc]
  rw [h1, h3]
  exact runScans_done rfl 30

/-- The scan admits a WATER entry that no condition bars (R113, R118). -/
theorem scan_water {front : List Entry} (h : s.marks.scan = true) (hq : s.queue = front ++ [e])
    (hf : ∀ x ∈ front, s.barred x ∧ ¬ (x.string = e.string ∧ x.kind = e.kind)) (hk : e.kind = .water)
    (hb : ¬ s.waterBarred e) : s.scan = (s.scanning.admitWater e).runScans 31 := by
  obtain ⟨h1, h2, -⟩ := scan_last h hq hf
  have hc : (!false && s.scanning.waterAdmissible e) = true := (water_open s e).2 hb
  have h3 : (scanEntry s.marks.gate ⟨s.scanning, false⟩ (e.string, e.kind)).state = s.scanning.admitWater e := by
    unfold scanEntry
    dsimp only
    rw [h2]
    dsimp only
    rw [hk]
    dsimp only
    rw [if_pos hc]
  rw [h1, h3]

end

end Sys2Proof.Machine
end

section
open Sys2Proof Sys2Proof.Machine

/-! ## The admission of an EQUALISE entry (R63, R64, R82, R116) -/

namespace Sys2Proof.Machine

/-- What a bus voltage handed to the returns leaves: every string that is not RETURNING, and with none in RETURNING the orders
(R17, R68). -/
structure State.BusKept (s t : State) : Prop where
  control : ∀ j, (s.control j).state ≠ .returning → t.control j = s.control j
  states : ∀ j, (t.control j).state = (s.control j).state
  discharging : ∀ j, (t.charge j).discharging = (s.charge j).discharging
  slot : ∀ k, t.slot k = s.slot k
  queue : t.queue = s.queue
  cells : t.cells = s.cells
  discharge : t.discharge = s.discharge
  water : t.water = s.water
  mgmt : t.mgmt = s.mgmt
  images : t.images = s.images
  orders : (∀ j, (s.control j).state ≠ .returning) → t.ring.orders = s.ring.orders

section
variable {s t u : State} {i : Str} {e : Entry} {sl : SlotId}

theorem State.BusKept.refl (s : State) : s.BusKept s :=
  ⟨fun _ _ => rfl, fun _ => rfl, fun _ => rfl, fun _ => rfl, rfl, rfl, rfl, rfl, rfl, rfl, fun _ => rfl⟩

theorem State.BusKept.trans (h : s.BusKept t) (k : t.BusKept u) : s.BusKept u where
  control j hj := (k.control j (by rw [h.states]; exact hj)).trans (h.control j hj)
  states j := (k.states j).trans (h.states j)
  discharging j := (k.discharging j).trans (h.discharging j)
  slot x := (k.slot x).trans (h.slot x)
  queue := k.queue.trans h.queue
  cells := k.cells.trans h.cells
  discharge := k.discharge.trans h.discharge
  water := k.water.trans h.water
  mgmt := k.mgmt.trans h.mgmt
  images := k.images.trans h.images
  orders hj := (k.orders fun j => by rw [h.states]; exact hj j).trans (h.orders hj)

theorem busKept_ite {c : Prop} [Decidable c] (h : s.BusKept t) (k : s.BusKept u) : s.BusKept (if c then t else u) := by
  split <;> assumption

theorem busKept_matchTakesBus (s : State) (i : Str) : s.BusKept (s.matchTakesBus i) := by
  have f := frame_matchTakesBus s i none
  have k := handed_matchTakesBus (ends := false) (joins := false) (.refl s) i
  obtain ⟨hq, hd, hst⟩ := k.calm rfl
  have hsame : (s.control i).state ≠ .returning → s.matchTakesBus i = s := fun h => by
    unfold State.matchTakesBus
    exact if_neg fun x => h (by simpa [State.inState] using x.1)
  refine ⟨fun j hj => ?_, hst, fun j => by rw [matchTakesBus_charge], fun k => f.slot k (by simp), hq, f.cells, hd, f.water, f.mgmt,
    f.images, fun hj => by rw [hsame (hj i)]⟩
  by_cases hji : j = i
  · subst hji; rw [hsame hj]
  · exact congrArg StringRec.control (f.str j hji)

theorem busKept_recomputeBus (s : State) : s.BusKept s.recomputeBus := by
  have h : s.BusKept { s with busVoltage := s.judgeBusVoltage } :=
    ⟨fun _ _ => rfl, fun _ => rfl, fun _ => rfl, fun k => by cases k <;> rfl, rfl, rfl, rfl, rfl, rfl, rfl, fun _ => rfl⟩
  have k : ∀ u : State, u.BusKept (u.eachStr fun i s => s.matchTakesBus i) := fun u =>
    eachStr_preserves (P := fun t => u.BusKept t) (fun i v k => k.trans (busKept_matchTakesBus v i)) (.refl u)
  unfold State.recomputeBus State.handBus
  exact busKept_ite h (h.trans (k _))

theorem busKept_modCharge (s : State) (i : Str) (f : Charge → Charge) (hf : ∀ c, (f c).discharging = c.discharging) :
    s.BusKept (s.modCharge i f) := by
  refine ⟨fun j _ => by simp, fun j => by simp, fun j => ?_, fun k => by simp, rfl, rfl, rfl, rfl, rfl, rfl, fun _ => rfl⟩
  by_cases h : i = j
  · subst h; rw [State.modCharge_charge, hf]
  · rw [State.modCharge_charge_ne _ h]

theorem busKept_markScan (s : State) : s.BusKept s.markScan :=
  ⟨fun _ _ => rfl, fun _ => rfl, fun _ => rfl, fun k => by cases k <;> rfl, rfl, rfl, rfl, rfl, rfl, rfl, fun _ => rfl⟩

theorem State.BusKept.judgeDischarge (h : s.BusKept t) : t.judgeDischarge = s.judgeDischarge := by
  have hcfg : ∀ j, t.cfg j = s.cfg j := fun j => by unfold State.cfg; rw [h.images]
  rw [Bool.eq_iff_iff, judgeDischarge_iff, judgeDischarge_iff]
  simp only [hcfg, h.states, h.discharging]

/-- A string that leaves ON_BUS where no DISCHARGE stands or begins: only the returns take the new bus voltage (R17, R62). -/
theorem leavesBus_quietly (hi : (s.control i).state = .called) (hd : s.discharge = false) (hj : s.judgeDischarge = false)
    (ht : t = s.stateChanged i .onBus) : t.control i = s.control i ∧ (∀ k, t.slot k = s.slot k) ∧ t.queue = s.queue
      ∧ t.cells = s.cells ∧ t.water = s.water ∧ t.mgmt = s.mgmt ∧ t.images = s.images
      ∧ (s.onlyAway i → t.ring.orders = s.ring.orders) := by
  have hf : ∀ v : State, v.BusKept (v.fullCleared i) := fun v => busKept_ite (.refl v) (busKept_modCharge v i _ fun _ => rfl)
  have hsp : ∀ v : State, v.BusKept (v.judgeSpreadTimer i) := fun v =>
    busKept_ite (busKept_modCharge v i _ fun _ => rfl) (busKept_modCharge v i _ fun _ => rfl)
  have h1 := (((busKept_markScan s).trans (hf _)).trans (busKept_recomputeBus _)).trans (hsp _)
  have hne : ¬ ((StringState.onBus == .onBus) = s.markScan.inState i .onBus) := by
    have e : s.markScan.inState i .onBus = false := by
      show ((s.control i).state == .onBus) = false
      rw [hi]; rfl
    rw [e]; decide
  have hs : s.stateChanged i .onBus = ((s.markScan.fullCleared i).recomputeBus).judgeSpreadTimer i := by
    refine (if_neg hne).trans ((onBusChanged_eq _ i).trans (rejudgeDischarge_same ?_))
    rw [h1.judgeDischarge, h1.discharge, hj, hd]
  rw [ht, hs]
  refine ⟨h1.control i (by rw [hi]; decide), h1.slot, h1.queue, h1.cells, h1.water, h1.mgmt, h1.images, fun ha => h1.orders fun j => ?_⟩
  by_cases hji : j = i
  · rw [hji, hi]; decide
  · exact (ha j hji).2.2

/-! ### The string and its slot at the admission -/

theorem calledIn_control (s : State) (e : Entry) (sl : SlotId) :
    (s.calledIn e sl).control e.string = (s.control e.string).bind sl s.mgmt.clock := by
  unfold State.calledIn
  dsimp only
  rw [State.modSlot_control, State.modControl_control]
  rfl

theorem calledIn_control_ne {j : Str} (h : j ≠ e.string) : (s.calledIn e sl).control j = s.control j := by
  unfold State.calledIn
  dsimp only
  rw [State.modSlot_control, State.modControl_control_ne _ (Ne.symm h)]
  rfl

theorem calledIn_reading (s : State) (e : Entry) (sl : SlotId) (j : Str) : (s.calledIn e sl).reading j = s.reading j := by
  unfold State.calledIn
  simp
  rfl

theorem calledIn_charge (s : State) (e : Entry) (sl : SlotId) (j : Str) : (s.calledIn e sl).charge j = s.charge j := by
  unfold State.calledIn
  simp
  rfl

theorem calledIn_slot (s : State) (e : Entry) (sl : SlotId) :
    (s.calledIn e sl).slot sl = boundSlot s.lim e (s.reading e.string).ts := by
  unfold State.calledIn
  rw [State.modSlot_slot]
  simp
  rfl

/-- What the binding leaves (R63, R82). -/
theorem calledIn_fixed (s : State) (e : Entry) (sl : SlotId) : (s.calledIn e sl).images = s.images
    ∧ (s.calledIn e sl).mgmt = s.mgmt ∧ (s.calledIn e sl).cells = s.cells ∧ (s.calledIn e sl).water = s.water
    ∧ (s.calledIn e sl).ring = s.ring ∧ (s.calledIn e sl).discharge = s.discharge ∧ (s.calledIn e sl).now = s.now
    ∧ (s.calledIn e sl).queue = s.queue.filter fun x => !x.named e.string .equalise := by
  cases sl <;> exact ⟨rfl, rfl, rfl, rfl, rfl, rfl, rfl, rfl⟩

/-- The voltage of the setup order reads the string's reading, the tables and the clock (R64). -/
theorem setupVolts_congr (hr : t.reading i = s.reading i) (hi : t.images = s.images) (hn : t.now = s.now) :
    t.setupVolts i = s.setupVolts i := by
  unfold State.setupVolts State.floatVolts State.terminalV State.fresh State.orderCeiling State.cfg State.lim
  rw [hr, hi, hn]

theorem setupVolts_eq (s : State) (i : Str) : s.setupVolts i = min ((s.terminalV i).getD (s.lim.floatMv * (s.cfg i).cells / 10))
    (s.lim.cellCeilingMv * (s.cfg i).cells / 10) := by
  unfold State.setupVolts
  cases s.terminalV i <;> rfl

/-- An order is placed by the tables and the port's queue (R164, R165). -/
theorem handOrder_orders_congr (hi : t.images = s.images) (ho : t.ring.orders = s.ring.orders)
    (hg : t.ring.gasStop = s.ring.gasStop) (hc : t.ring.orderCount = s.ring.orderCount) (f : Frame) :
    (t.handOrder f).ring.orders = (s.handOrder f).ring.orders
      ∧ (t.handOrder f).ring.gasStop = (s.handOrder f).ring.gasStop
      ∧ (t.handOrder f).ring.orderCount = (s.handOrder f).ring.orderCount := by
  have hb : t.bindingsName = s.bindingsName := by
    have hr : t.rectAddr = s.rectAddr := by funext k; cases k <;> (unfold State.rectAddr State.lim; rw [hi])
    funext a
    unfold State.bindingsName State.slotPresent State.present State.cfg
    rw [hr, hi]
  refine ⟨?_, hg, congrArg (· + 1) hc⟩
  show (placeOrder t.bindingsName ⟨gasStopped t.ring.gasStop f, t.ring.orderCount⟩ t.ring.orders).1
    = (placeOrder s.bindingsName ⟨gasStopped s.ring.gasStop f, s.ring.orderCount⟩ s.ring.orders).1
  rw [hb, ho, hg, hc]

/-- The setup of a string with its slot: RECT ON at its own voltage, CONTACTOR EQ, and the confirmation (R64). -/
theorem setup_eq (h : (s.control i).slot = some sl) : s.setup i = (((s.modControl i fun c =>
    { c with rectOrder := some (.on (s.setupVolts i) s.lim.iFloor), lastRectTime := some s.now }).handRect sl
      (.on (s.setupVolts i) s.lim.iFloor)).handContactor i targetEq).modControl i fun c =>
        { c with confirmLeft := some (s.lim.contactorTimeoutS * 1000) } := by
  unfold State.setup
  rw [stringRect_eq h]
  rfl

/-- The record of a string set up (R64). -/
theorem setup_control (h : (s.control i).slot = some sl) : (s.setup i).control i = { s.control i with
    rectOrder := some (.on (s.setupVolts i) s.lim.iFloor), lastRectTime := some s.now
    confirmLeft := some (s.lim.contactorTimeoutS * 1000) } := by
  rw [setup_eq h, State.modControl_control, State.handContactor, State.handRect, handOrder_control, handOrder_control,
    State.modControl_control]

theorem setup_control_ne {j : Str} (h : (s.control i).slot = some sl) (hj : j ≠ i) : (s.setup i).control j = s.control j := by
  rw [setup_eq h, State.modControl_control_ne _ (Ne.symm hj), State.handContactor, State.handRect, handOrder_control,
    handOrder_control, State.modControl_control_ne _ (Ne.symm hj)]

/-- What the setup leaves, and the two orders that it hands (R64). -/
theorem setup_fixed (h : (s.control i).slot = some sl) : (∀ k, (s.setup i).slot k = s.slot k)
    ∧ (∀ j, (s.setup i).charge j = s.charge j) ∧ (s.setup i).queue = s.queue ∧ (s.setup i).cells = s.cells
    ∧ (s.setup i).water = s.water ∧ (s.setup i).mgmt = s.mgmt ∧ (s.setup i).images = s.images
    ∧ (s.setup i).discharge = s.discharge
    ∧ (s.setup i).ring.orders = ((s.handRect sl (.on (s.setupVolts i) s.lim.iFloor)).handContactor i targetEq).ring.orders := by
  rw [setup_eq h]
  refine ⟨fun k => by cases k <;> rfl, fun j => ?_, rfl, rfl, rfl, rfl, rfl, rfl, rfl⟩
  rw [State.modControl_charge, State.handContactor, State.handRect, handOrder_charge, handOrder_charge, State.modControl_charge]

/-- The strings of ON_BUS that remain are judged no other way (R32). -/
theorem judgeDischarge_fewer (h : s.judgeDischarge = false) (hi : t.images = s.images)
    (hs : ∀ j, (t.control j).state = .onBus → (s.control j).state = .onBus) (hc : ∀ j, t.charge j = s.charge j) :
    t.judgeDischarge = false := by
  have hcfg : ∀ j, t.cfg j = s.cfg j := fun j => by unfold State.cfg; rw [hi]
  rw [← Bool.not_eq_true, judgeDischarge_iff]
  rintro ⟨j, hp, hst, hd⟩
  rw [← Bool.not_eq_true, judgeDischarge_iff] at h
  exact h ⟨j, hcfg j ▸ hp, hs j hst, hc j ▸ hd⟩

/-- The string, its slot and the orders after an admission (R63, R64, R82, R116). -/
theorem admitEqualise_record (ho : (s.control e.string).state = .onBus) (hd : s.discharge = false) (hj : s.judgeDischarge = false)
    (ht : t = s.admitEqualise e sl) :
    t.control e.string = { (s.control e.string).bind sl s.mgmt.clock with
      rectOrder := some (.on (s.setupVolts e.string) s.lim.iFloor), lastRectTime := some s.now
      confirmLeft := some (s.lim.contactorTimeoutS * 1000) }
    ∧ t.slot sl = boundSlot s.lim e (s.reading e.string).ts
    ∧ t.queue = s.queue.filter (fun x => !x.named e.string .equalise)
    ∧ t.cells = s.cells ∧ t.water = s.water ∧ t.mgmt = s.mgmt ∧ t.images = s.images
    ∧ (s.onlyAway e.string → t.ring.orders
      = ((s.handRect sl (.on (s.setupVolts e.string) s.lim.iFloor)).handContactor e.string targetEq).ring.orders) := by
  obtain ⟨c1, c2, c3, c4, c5, c6, c7, c8⟩ := calledIn_fixed s e sl
  have cc := calledIn_control s e sl
  have cne : ∀ j, j ≠ e.string → (s.calledIn e sl).control j = s.control j := fun j hj => calledIn_control_ne hj
  have cv := setupVolts_congr (calledIn_reading s e sl e.string) c1 c7
  have cs := calledIn_slot s e sl
  have ch := calledIn_charge s e sl
  rw [admitEqualise_eq, ho] at ht
  generalize s.calledIn e sl = u at c1 c2 c3 c4 c5 c6 c7 c8 cc cne cv cs ch ht
  have hslot : (u.control e.string).slot = some sl := by rw [cc]; rfl
  have ulim : u.lim = s.lim := by unfold State.lim; rw [c1]
  have pc := setup_control hslot
  have pne : ∀ j, j ≠ e.string → (u.setup e.string).control j = u.control j := fun j hj => setup_control_ne hslot hj
  obtain ⟨p1, p2, p3, p4, p5, p6, p7, p8, p9⟩ := setup_fixed hslot
  rw [cv, ulim, c7] at pc
  rw [cv, ulim] at p9
  generalize u.setup e.string = v at pc pne p1 p2 p3 p4 p5 p6 p7 p8 p9 ht
  obtain ⟨m, hm⟩ : ∃ m, v.noticeStarted e.string .equalise (some sl) (some e.reason) = v.notice m := ⟨_, rfl⟩
  rw [hm] at ht
  have neq := notice_eq v m
  have nctl := notice_control v m
  have nord := notice_orders v m
  have nslot := notice_slot v m
  generalize v.notice m = w at neq nctl nord nslot ht
  have wcalled : (w.control e.string).state = .called := by rw [nctl, pc, cc]; rfl
  have wst : ∀ j, j ≠ e.string → w.control j = s.control j := fun j hj => by rw [nctl, pne j hj, cne j hj]
  have wimg : w.images = s.images := by rw [neq]; exact p7.trans c1
  have wd : w.discharge = false := by rw [neq]; exact p8.trans (c6.trans hd)
  have wj : w.judgeDischarge = false := judgeDischarge_fewer hj wimg
    (fun j h => by
      by_cases hje : j = e.string
      · rw [hje]; exact ho
      · rw [← wst j hje]; exact h)
    fun j => by
      have e1 : w.charge j = v.charge j := charge_of_strings (by rw [neq]) j
      rw [e1, p2, ch]
  obtain ⟨q1, q2, q3, q4, q5, q6, q7, q8⟩ := leavesBus_quietly wcalled wd wj ht
  refine ⟨?_, ?_, ?_, ?_, ?_, ?_, ?_, fun ha => ?_⟩
  · rw [q1, nctl, pc, cc]
  · rw [q2, nslot, p1, cs]
  · rw [q3, neq]; exact p3.trans c8
  · rw [q4, neq]; exact p4.trans c3
  · rw [q5, neq]; exact p5.trans c4
  · rw [q6, neq]; exact p6.trans c2
  · exact q7.trans wimg
  · have hw : w.onlyAway e.string := fun j hj => by rw [wst j hj]; exact ha j hj
    rw [q8 hw, nord, p9]
    have hr : u.rectAddr sl = s.rectAddr sl := by cases sl <;> (unfold State.rectAddr State.lim; rw [c1])
    have hcf : u.cfg e.string = s.cfg e.string := by unfold State.cfg; rw [c1]
    unfold State.handContactor State.handRect
    have hcf' : ∀ (x : State) (f : Frame), (x.handOrder f).cfg e.string = x.cfg e.string := fun _ _ => rfl
    have hown : ∀ (x : State) (f : Frame), (x.handOrder f).ring.ownAddress = x.ring.ownAddress := fun _ _ => rfl
    rw [hcf', hcf', hown, hown, hr, hcf, c5]
    obtain ⟨h1, h2, h3⟩ := handOrder_orders_congr (t := u) (s := s) c1 (by rw [c5]) (by rw [c5]) (by rw [c5])
      (rectFrame (s.rectAddr sl) s.ring.ownAddress (.on (s.setupVolts e.string) s.lim.iFloor))
    exact (handOrder_orders_congr (t := u.handOrder _) (s := s.handOrder _) c1 h1 h2 h3 _).1

end

end Sys2Proof.Machine
end

section
open Sys2Proof Sys2Proof.Machine

/-! ## The admission of a WATER entry (R118, R125, R127 to R129) -/

namespace Sys2Proof.Machine

/-! ### The head of the plan (R127) -/

theorem takeGroup_length (n room : Nat) (plan : List PlanItem) : (takeGroup n room plan).1.length ≤ n := by
  induction n generalizing room plan with
  | zero => exact Nat.le_refl 0
  | succ n ih =>
    cases plan with
    | nil => exact Nat.zero_le _
    | cons x plan =>
      unfold takeGroup
      split
      · exact Nat.succ_le_succ (ih ..)
      · exact Nat.zero_le _

theorem takeGroup_none {n room : Nat} {x : PlanItem} (rest : List PlanItem) (h : room < x.dose ∨ n = 0) :
    (takeGroup n room (x :: rest)).1 = [] := by
  cases n with
  | zero => rfl
  | succ n =>
    rw [takeGroup, if_neg]
    rcases h with h | h
    · exact Nat.not_le.2 h
    · cases h

theorem takeGroup_head {n room : Nat} {x : PlanItem} (rest : List PlanItem) (h : x.dose ≤ room) (hn : 1 ≤ n) :
    ∃ l, (takeGroup n room (x :: rest)).1 = x :: l := by
  cases n with
  | zero => cases hn
  | succ n => exact ⟨_, by rw [takeGroup, if_pos h]⟩

section
variable {s u w : State} {i : Str} {r : Reason} {e : Entry} {o : OutcomeRecord}

/-- The group that a round with this plan forms (R127). -/
def State.groupOf (s : State) (plan : List PlanItem) : List PlanItem :=
  (takeGroup s.lim.maxOpen (s.water.reservoir - s.lim.reservoirReserveMl) plan).1

theorem formGroup_none (h : s.groupOf s.water.plan = []) : s.formGroup i = s.endWatering i .reservoir := by
  unfold State.groupOf at h
  unfold State.formGroup
  dsimp only
  rw [h]
  rfl

/-- An opened group (R129). -/
theorem formGroup_opens {g : List PlanItem} (hg : s.groupOf s.water.plan = g) (h : g ≠ []) :
    ∃ rest, s.formGroup i = (s.handValve i (g.map fun x => ⟨x.pos, true⟩)).modWater fun w =>
      { w with
        state := .dosing, pump := true, gapEnd := none, plan := rest
        group := g.map fun x => ⟨x.pos, x.dose, x.openMs, none⟩
        openSet := g.map fun x => x.pos
        openOrder := s.ring.orderCount } := by
  unfold State.groupOf at hg
  refine ⟨(takeGroup s.lim.maxOpen (s.water.reservoir - s.lim.reservoirReserveMl) s.water.plan).2, ?_⟩
  unfold State.formGroup
  dsimp only
  rw [hg, if_neg (by rwa [List.isEmpty_iff])]

/-! ### A round taken -/

/-- The unit with the tallies of a new round (R125). -/
def Water.fresh (w : Water) : Water :=
  { w with roundCut := false, cellsDosed := 0, roundMl := 0 }

/-- The unit with the string and the plan of a new round (R125). -/
def Water.taken (w : Water) (i : Str) (r : Reason) (clock : Stamp) (plan : List PlanItem) : Water :=
  { w.fresh with string := some i, reason := some r, startStamp := some clock, plan := plan }

/-- A round without candidates (R125). -/
theorem beginWatering_nothing (h : u.buildPlan i = []) : u.beginWatering i r =
    (((u.modWater Water.fresh).modControl i fun c => { c with
      lastWaterOutcome := some ⟨.water, 0, some r, some u.mgmt.clock, some .nothing, some u.mgmt.clock, 0, false, 0⟩
      }).noticeNothing i).reportToSlot i := by
  unfold State.beginWatering
  dsimp only
  rw [h]
  rfl

/-- A round with candidates forms its first group (R125). -/
theorem beginWatering_forms {plan : List PlanItem} (h : u.buildPlan i = plan) (hp : plan ≠ []) :
    ∃ m, u.beginWatering i r = ((u.modWater fun w => w.taken i r u.mgmt.clock plan).notice m).formGroup i := by
  obtain ⟨m, hm⟩ : ∃ m, (u.modWater fun w => w.taken i r u.mgmt.clock plan).noticeStarted i .water none (some r)
      = (u.modWater fun w => w.taken i r u.mgmt.clock plan).notice m := ⟨_, rfl⟩
  refine ⟨m, ?_⟩
  rw [← hm]
  unfold State.beginWatering
  dsimp only
  rw [h, if_neg (by rwa [List.isEmpty_iff])]
  rfl

/-- A watering round of `u` that is over as it begins, in `w` before its end is reported: its outcome stands and the unit is
IDLE (R125, R127, R135). -/
structure State.RoundOver (u : State) (i : Str) (o : OutcomeRecord) (w : State) : Prop where
  strings : w.strings = (u.modControl i fun c => { c with lastWaterOutcome := some o }).strings
  state : w.water.state = .idle
  pump : w.water.pump = (u.water.pump && o.endReason == some .nothing)
  reservoir : w.water.reservoir = u.water.reservoir
  queue : w.queue = u.queue
  cells : w.cells = u.cells
  slotA : w.slotA = u.slotA
  slotB : w.slotB = u.slotB
  mgmt : w.mgmt = u.mgmt
  images : w.images = u.images

theorem roundOver_nothing (hi : u.water.state = .idle) (h : u.buildPlan i = [])
    (ho : o = ⟨.water, 0, some r, some u.mgmt.clock, some .nothing, some u.mgmt.clock, 0, false, 0⟩) :
    ∃ w, u.RoundOver i o w ∧ ∃ m, u.beginWatering i r = { w.reportToSlot i with marks := m } := by
  rw [beginWatering_nothing h, ← ho]
  unfold State.noticeNothing
  have hn := notice_eq ((u.modWater Water.fresh).modControl i fun c => { c with lastWaterOutcome := some o })
    [0x06, 2, strCode i, BitVec.ofNat 8 RoundKind.water.code]
  refine ⟨_, ?_, _, rfl⟩
  generalize State.notice ((u.modWater Water.fresh).modControl i fun c => { c with lastWaterOutcome := some o })
    [0x06, 2, strCode i, BitVec.ofNat 8 RoundKind.water.code] = w at hn
  rw [hn, ho]
  exact ⟨rfl, hi, (Bool.and_true _).symm, rfl, rfl, rfl, rfl, rfl, rfl, rfl⟩

theorem roundOver_reservoir {x : PlanItem} {rest : List PlanItem} (h : u.buildPlan i = x :: rest)
    (hx : u.water.reservoir - u.lim.reservoirReserveMl < x.dose ∨ u.lim.maxOpen = 0)
    (ho : o = ⟨.water, 0, some r, some u.mgmt.clock, some .reservoir, some u.mgmt.clock, 0, false, 0⟩) :
    ∃ w, u.RoundOver i o w ∧ ∃ m, u.beginWatering i r = { w.reportToSlot i with marks := m } := by
  obtain ⟨p, hp⟩ := beginWatering_forms (r := r) h (List.cons_ne_nil _ _)
  have hn := notice_eq (u.modWater fun w => w.taken i r u.mgmt.clock (x :: rest)) p
  rw [hp]
  generalize (u.modWater fun w => w.taken i r u.mgmt.clock (x :: rest)).notice p = v at hn
  have hv : v.groupOf v.water.plan = [] := by
    rw [hn]
    exact takeGroup_none rest hx
  rw [formGroup_none hv, endWatering_eq]
  refine ⟨v.wateringStored i .reservoir, ?_, _, rfl⟩
  have hout : v.water.outcome .reservoir v.mgmt.clock = o := by
    rw [hn, ho]
    rfl
  unfold State.wateringStored
  dsimp only
  rw [hout, if_neg (by decide), State.noticeEnded, notice_eq]
  generalize (State.notice ((v.modWater Water.ended).modControl i fun r => { r with lastWaterOutcome := some o }) _).ring = ring
  rw [hn, ho]
  exact ⟨rfl, rfl, (Bool.and_false _).symm, rfl, rfl, rfl, rfl, rfl, rfl, rfl⟩

/-- The alterations of an opening order (R128). -/
theorem handValve_opens (v : State) (i : Str) (g : List PlanItem) :
    (v.handValve i (g.map fun x => ⟨x.pos, true⟩)).water.unsent = v.altersOpening i (g.map fun x => x.pos) := by
  have hany : ∀ a : Alter, ((g.map fun x => (⟨x.pos, true⟩ : Alter)).any fun b => b.pos == a.pos)
      = (g.map fun x => x.pos).contains a.pos := fun a => by
    rw [List.contains_eq_any_beq]
    simp [List.any_map, Function.comp_def, Bool.beq_comm]
  show (if v.water.lastValveDst = some (v.cfg i).manifoldAddr then
      mergeAlters v.water.unsent (g.map fun x => ⟨x.pos, true⟩) else g.map fun x => ⟨x.pos, true⟩) = _
  unfold State.altersOpening State.altersTo mergeAlters
  simp only [hany, List.map_map]
  split <;> rfl

theorem handValve_orders (v : State) (i : Str) (a : List Alter) : (v.handValve i a).ring
    = (v.handOrder (valveFrame (v.cfg i).manifoldAddr v.ring.ownAddress (v.handValve i a).water.unsent)).ring := rfl

/-- A notice leaves the port's gas stop, order numbers and address (R166). -/
theorem notice_port (s : State) (m : List Byte) : (s.notice m).ring.gasStop = s.ring.gasStop
    ∧ (s.notice m).ring.orderCount = s.ring.orderCount ∧ (s.notice m).ring.ownAddress = s.ring.ownAddress := by
  unfold State.notice
  split
  · split <;> exact ⟨rfl, rfl, rfl⟩
  · exact ⟨rfl, rfl, rfl⟩

/-- A round that opens its first group: one VALVE order to the manifold (R125, R127 to R129). -/
theorem beginWatering_opens {x : PlanItem} {rest : List PlanItem} (h : u.buildPlan i = x :: rest)
    (hx : x.dose ≤ u.water.reservoir - u.lim.reservoirReserveMl) (hopen : 1 ≤ u.lim.maxOpen) (ht : w = u.beginWatering i r) :
    (w.queue = u.queue ∧ w.strings = u.strings ∧ w.slotA = u.slotA ∧ w.slotB = u.slotB ∧ w.cells = u.cells ∧ w.mgmt = u.mgmt
      ∧ w.images = u.images)
    ∧ (w.water.state = .dosing ∧ w.water.pump = true ∧ w.water.string = some i ∧ w.water.reason = some r
      ∧ w.water.startStamp = some u.mgmt.clock ∧ w.water.roundMl = 0)
    ∧ (x.pos ∈ w.water.openSet ∧ w.water.openSet.length ≤ u.lim.maxOpen)
    ∧ w.water.unsent = u.altersOpening i w.water.openSet
    ∧ w.ring.orders = (u.handOrder ⟨(u.cfg i).manifoldAddr, u.ring.ownAddress, 0x22,
        valvePayload w.water.unsent⟩).ring.orders := by
  obtain ⟨p, hp⟩ := beginWatering_forms (r := r) h (List.cons_ne_nil _ _)
  have hn := notice_eq (u.modWater fun w => w.taken i r u.mgmt.clock (x :: rest)) p
  obtain ⟨hg, hc, ha⟩ := notice_port (u.modWater fun w => w.taken i r u.mgmt.clock (x :: rest)) p
  have hor := notice_orders (u.modWater fun w => w.taken i r u.mgmt.clock (x :: rest)) p
  rw [hp] at ht
  generalize (u.modWater fun w => w.taken i r u.mgmt.clock (x :: rest)).notice p = v at hn hg hc ha hor ht
  have himg : v.images = u.images := (congrArg State.images hn :)
  have hwater : v.water = u.water.taken i r u.mgmt.clock (x :: rest) := (congrArg State.water hn :)
  have hcfg : v.cfg i = u.cfg i := by unfold State.cfg; rw [himg]
  have hlim : v.lim = u.lim := by unfold State.lim; rw [himg]
  obtain ⟨l, hl⟩ := takeGroup_head rest hx hopen
  have hgroup : v.groupOf v.water.plan = x :: l := by
    rw [hwater]
    unfold State.groupOf
    rw [hlim, hwater]
    exact hl
  have hlen : (x :: l).length ≤ u.lim.maxOpen := hl ▸ takeGroup_length ..
  obtain ⟨left, hform⟩ := formGroup_opens (i := i) hgroup (List.cons_ne_nil _ _)
  have hun := handValve_opens v i (x :: l)
  have hord := congrArg Ring.orders (handValve_orders v i ((x :: l).map fun x => ⟨x.pos, true⟩))
  have hval : (v.altersOpening i ((x :: l).map fun x => x.pos)) = u.altersOpening i ((x :: l).map fun x => x.pos) := by
    unfold State.altersOpening State.altersTo
    rw [hcfg, hwater]
    rfl
  rw [hun, hcfg, ha, (handOrder_orders_congr himg hor hg hc _).1] at hord
  rw [hform] at ht
  generalize (x :: l).map (fun x => (⟨x.pos, true⟩ : Alter)) = al at ht hun hord
  have hrest : (v.handValve i al).queue = u.queue ∧ (v.handValve i al).strings = u.strings ∧ (v.handValve i al).slotA = u.slotA
      ∧ (v.handValve i al).slotB = u.slotB ∧ (v.handValve i al).cells = u.cells ∧ (v.handValve i al).mgmt = u.mgmt
      ∧ (v.handValve i al).images = u.images :=
    ⟨(congrArg State.queue hn :), (congrArg State.strings hn :), (congrArg State.slotA hn :), (congrArg State.slotB hn :),
      (congrArg State.cells hn :), (congrArg State.mgmt hn :), himg⟩
  have hunit : (v.handValve i al).water.string = some i ∧ (v.handValve i al).water.reason = some r
      ∧ (v.handValve i al).water.startStamp = some u.mgmt.clock ∧ (v.handValve i al).water.roundMl = 0 := by
    obtain ⟨d, k, hk⟩ := handValve_water v i al
    rw [hk, hwater]
    exact ⟨rfl, rfl, rfl, rfl⟩
  generalize v.handValve i al = y at ht hun hord hrest hunit
  obtain ⟨y1, y2, y3, y4⟩ := hunit
  rw [ht]
  refine ⟨hrest, ⟨rfl, rfl, y1, y2, y3, y4⟩, ⟨List.mem_cons_self, ?_⟩, hun.trans hval, ?_⟩
  · show ((x :: l).map fun x => x.pos).length ≤ _
    rw [List.length_map]; exact hlen
  · exact hord.trans (by rw [← hun]; rfl)

end

end Sys2Proof.Machine
end

section
open Sys2Proof Sys2Proof.Machine

namespace Sys2Proof.Machine

/-! ## A scan that admits its last entry (R113, R116, R118) -/

section
variable {s t w : State} {i : Str} {e : Entry} {o : OutcomeRecord} {front : List Entry} {sl : SlotId}

/-- A scan admits a WATER entry and, when no water point is called in its place, ends (R113, R118). -/
theorem scan_watered (h : s.marks.scan = true) (hq : s.queue = front ++ [e])
    (hf : ∀ x ∈ front, s.barred x ∧ ¬ (x.string = e.string ∧ x.kind = e.kind)) (hk : e.kind = .water) (hb : ¬ s.waterBarred e)
    (ht : t = (s.scanning.removeEntry e.string .water).beginWatering e.string e.reason)
    (hl : t.queue.length ≤ front.length) : ∃ m, s.scan = { t with marks := m } := by
  obtain ⟨-, -, hfront⟩ := scan_last h hq hf
  rw [hk] at hfront
  have hm : (s.scanning.admitWater e).marks.scan = false := by
    show (false || decide ((s.queue.filter fun x => !x.named e.string .water).length
      < ((s.scanning.removeEntry e.string .water).beginWatering e.string e.reason).queue.length)) = false
    rw [hfront, ← ht, Bool.false_or, decide_eq_false_iff_not, Nat.not_lt]
    exact hl
  have hs : s.scan = s.scanning.admitWater e := (scan_water h hq hf hk hb).trans (runScans_done hm 30)
  exact ⟨(s.scanning.admitWater e).marks, by rw [hs, ht]; rfl⟩

/-- The report that a slot in WATER_WAIT takes (R88). -/
theorem reportToSlot_waits (hc : (s.control i).slot = some sl) (hw : (s.slot sl).entryState = some .waterWait) :
    s.reportToSlot i = (s.modSlot sl fun r => { r with waterCalled := false }).nextEntry sl := by
  unfold State.reportToSlot
  rw [hc]
  exact if_pos hw

theorem State.RoundOver.slotOf {u : State} (h : u.RoundOver i o w) : (w.control i).slot = (u.control i).slot := by
  have e1 : w.control i = (u.modControl i fun c => { c with lastWaterOutcome := some o }).control i := by
    unfold State.control State.str
    rw [h.strings]
  rw [e1, State.modControl_control]

theorem State.RoundOver.slot {u : State} (h : u.RoundOver i o w) (k : SlotId) : w.slot k = u.slot k := by
  cases k
  · exact h.slotA
  · exact h.slotB

/-- A WATER entry whose round is over as it begins: NOTHING without candidates, RESERVOIR without a group (R125, R127). -/
theorem scan_roundOver (hi : s.water.state = .idle)
    (hp : (s.buildPlan e.string = [] ∧ o.endReason = some .nothing)
      ∨ ∃ x rest, s.buildPlan e.string = x :: rest ∧ o.endReason = some .reservoir
        ∧ (s.water.reservoir - s.lim.reservoirReserveMl < x.dose ∨ s.lim.maxOpen = 0))
    (ho : o = ⟨.water, 0, some e.reason, some s.mgmt.clock, o.endReason, some s.mgmt.clock, 0, false, 0⟩) :
    ∃ w, (s.scanning.removeEntry e.string .water).RoundOver e.string o w
      ∧ ∃ m, (s.scanning.removeEntry e.string .water).beginWatering e.string e.reason
        = { w.reportToSlot e.string with marks := m } := by
  rcases hp with ⟨hnil, hend⟩ | ⟨x, rest, hcons, hend, hroom⟩
  · rw [hend] at ho
    exact roundOver_nothing hi hnil ho
  · rw [hend] at ho
    exact roundOver_reservoir hcons hroom ho

end

/-- A trigger gate that stands open for the scan (R120 to R122). -/
theorem gate_open {s : State} (h : s.lim.triggerMode = .off ∨ (s.lim.triggerMode = .edge ∧ s.marks.gate = true)
    ∨ (s.lim.triggerMode = .level ∧ s.trigLevel = true)) : s.gateOpen s.marks.gate = true := by
  unfold State.gateOpen
  rcases h with h | ⟨h, k⟩ | ⟨h, k⟩ <;> rw [h]
  · exact k
  · exact k

/-- The charge half that an EQUALISE entry of a recipe asks for (R115). -/
theorem charged_open {recipe : Nat} {c : Charge} (h : recipe = 0 ∨ (c.qBal = 0 ∧ c.assumed = false)) :
    ¬ (recipe ≠ 0 ∧ (c.qBal ≠ 0 ∨ c.assumed = true)) := by
  rintro ⟨h0, h1⟩
  rcases h with h | ⟨hq, ha⟩
  · exact h0 h
  · exact h1.elim (· hq) fun x => by rw [ha] at x; cases x

/-- A WATER entry of which every condition holds is not barred (R117). -/
theorem not_waterBarred {s : State} {e : Entry} (hm : s.mgmt.mode = .engaged) (hp : s.mgmt.staging ≠ .pending)
    (hg : s.site.gasLatch = false) (hv : s.ring.sight = .seeing) (hi : s.water.state = .idle) (hr : s.site.reslow.level = false)
    (hres : s.lim.reservoirReserveMl + s.lim.doseMinMl ≤ s.water.reservoir) (hman : (s.cfg e.string).manifoldAddr ≠ 0xFF)
    (hw : s.atWaterPoint e.string
      ∨ (e.origin ≠ .recipe ∧ (s.control e.string).state = .onBus ∧ (s.charge e.string).qBal = 0)) : ¬ s.waterBarred e := by
  unfold State.waterBarred
  rintro (h | h | h | h | h | h | h | h | ⟨h, k⟩)
  · rw [hm] at h; cases h
  · exact hp h
  · exact h hi
  · rw [hg] at h; cases h
  · exact h hv
  · rw [hr] at h; cases h
  · omega
  · exact hman h
  · rcases hw with hw | ⟨h1, h2, h3⟩
    · exact h hw
    · exact k.elim h1 fun x => x.elim (· h2) (· h3)

/-- Settles O59: a scan passes over the barred entries, which leave its state, and the admissions are those of
`admitEqualise_record`, `scan_roundOver` and `beginWatering_opens`. -/
theorem scansAdmitByTheConditions : Obligations.ScansAdmitByTheConditions := by
  refine ⟨fun s h hb => scan_barred h hb, ?_⟩
  intro s e front hscan hq hf hm hp hg hv
  obtain ⟨-, -, hfront⟩ := scan_last hscan hq hf
  refine ⟨?_, ?_⟩
  · intro sl hk hfan hd hj hh htrig hfree hB hbound ho hdry hqb hts hc hmin hsrc
    obtain ⟨hrect, hnone⟩ := (slotFree_iff s sl).1 hfree
    obtain ⟨ts, hts, hcold, hhot⟩ := hts
    obtain ⟨hedge, hlevel⟩ := (gateOpen_iff s s.marks.gate).1 (gate_open htrig)
    have hsite : s.equaliseSite s.marks.gate = true := (equaliseSite_iff s _).2 ⟨by rw [hm]; decide, hp,
      by rw [hg]; decide, by rw [hfan]; decide, by rw [hd]; decide, hh, hv, hedge, hlevel,
      fun h => (h sl).elim hrect (· hnone), Nat.not_le.2 hbound⟩
    have hstring : s.equaliseString e = true := (equaliseString_iff s e).2 ⟨ho, by rw [hdry]; decide, charged_open hqb,
      by rw [hts]; exact Option.some_ne_none ts, fun ⟨t, ht, h⟩ => by rw [hts] at ht; cases ht; omega,
      Nat.not_lt.2 hc, Nat.not_lt.2 hmin, fun ⟨h, h0⟩ => by have := hsrc h; omega⟩
    have hb : ¬ s.equaliseBarred e := (equalise_open s e).1 (by rw [hsite, hstring]; rfl)
    have hs := scan_equalise hscan hq hf hk hb (freeSlot_eq_some hfree hB)
    obtain ⟨r1, r2, r3, r4, r5, r6, r7, r8⟩ := admitEqualise_record (s := s.scanning) (e := e) (sl := sl) ho hd hj rfl
    generalize s.scanning.admitEqualise e sl = t at hs r1 r2 r3 r4 r5 r6 r7 r8
    have hctl : s.scan.control e.string = t.control e.string := by rw [hs]; rfl
    have hslot : s.scan.slot sl = t.slot sl := by rw [hs]; cases sl <;> rfl
    have hrest : s.scan.queue = t.queue ∧ s.scan.cells = t.cells ∧ s.scan.water = t.water ∧ s.scan.mgmt = t.mgmt
        ∧ s.scan.images = t.images ∧ s.scan.ring = t.ring := by rw [hs]; exact ⟨rfl, rfl, rfl, rfl, rfl, rfl⟩
    obtain ⟨k1, k2, k3, k4, k5, k6⟩ := hrest
    rw [hk] at hfront
    rw [hctl, hslot, r1, r2, k1, k2, k3, k4, k5, k6]
    refine ⟨r3.trans hfront, rfl, rfl, rfl, rfl, rfl, rfl, fun mv hmv => ?_, rfl, rfl, rfl, rfl, ?_, rfl, rfl, r4, r5, r6, r7⟩
    · have hset : s.scanning.setupVolts e.string = mv := (setupVolts_eq s e.string).trans hmv.symm
      rw [hset] at r8 ⊢
      exact ⟨rfl, r8⟩
    · show (s.lim.triggerMode != .off) = _
      cases s.lim.triggerMode <;> rfl
  · intro hk hi hr hres hman hw
    have hb := not_waterBarred hm hp hg hv hi hr hres hman hw
    rw [hk] at hfront
    refine ⟨fun o hplan ho => ?_, fun x rest hplan hdose hopen => ?_⟩
    · obtain ⟨w, hover, m, ht⟩ := scan_roundOver hi hplan ho
      refine ⟨fun hslot => ?_, fun sl hholds hwait => ?_⟩
      · have hrep : w.reportToSlot e.string = w := reportToSlot_none fun sl hsl => by
          rw [hover.slotOf] at hsl
          exact absurd (hslot.symm.trans hsl) (by simp)
        rw [hrep] at ht
        obtain ⟨m', hs⟩ := scan_watered hscan hq hf hk hb ht.symm (by
          show w.queue.length ≤ _
          rw [hover.queue]
          exact Nat.le_of_eq (congrArg List.length hfront))
        rw [hs]
        exact ⟨hover.queue.trans hfront, hover.state, hover.pump, hover.reservoir, hover.strings, hover.cells, hover.slotA,
          hover.slotB, hover.mgmt, hover.images⟩
      · obtain ⟨-, hc⟩ := hholds
        have hslot := hover.slot sl
        have hrep := reportToSlot_waits (hover.slotOf.trans hc) (by rw [hslot]; exact hwait)
        rw [hrep] at ht
        refine ⟨w.modSlot sl fun r => { r with waterCalled := false }, ?_, ?_, ?_, ?_, ?_, ?_, ?_, ?_, fun hlen => ?_⟩
        · rw [State.modSlot_slot, hslot]; rfl
        · rw [State.modSlot_queue]; exact hover.queue.trans hfront
        · rw [State.modSlot_strings]; exact hover.strings
        · rw [State.modSlot_cells]; exact hover.cells
        · rw [State.modSlot_mgmt]; exact hover.mgmt
        · rw [State.modSlot_images]; exact hover.images
        · rw [State.modSlot_water]; exact hover.state
        · rw [State.modSlot_water]; exact hover.reservoir
        · generalize (w.modSlot sl fun r => { r with waterCalled := false }).nextEntry sl = v at ht hlen ⊢
          obtain ⟨m', hs⟩ := scan_watered hscan hq hf hk hb ht.symm hlen
          exact ⟨m', hs⟩
    · obtain ⟨⟨h1, h2, h3, h4, h5, h6, h7⟩, ⟨w1, w2, w3, w4, w5, w6⟩, ⟨hx, hl⟩, hun, hord⟩ :=
        beginWatering_opens (u := s.scanning.removeEntry e.string .water) (r := e.reason) hplan hdose hopen rfl
      generalize ht : (s.scanning.removeEntry e.string .water).beginWatering e.string e.reason = t
        at h1 h2 h3 h4 h5 h6 h7 w1 w2 w3 w4 w5 w6 hx hl hun hord
      obtain ⟨m, hs⟩ := scan_watered hscan hq hf hk hb ht.symm (by
        rw [h1]
        exact Nat.le_of_eq (congrArg List.length hfront))
      rw [hs]
      exact ⟨h1.trans hfront, w1, w2, w3, w4, w5, hx, hl, w6, h2, hun, hord, h3, h4, h5, h6, h7⟩

end Sys2Proof.Machine
end
